-- ==== Sys2Proof/Word.lean ====
section
/-!
DEFINITION. The word types of the SYV-4480 and their plainest arithmetic (00_scope.md R2; 06_register_state.md).
-/
namespace Sys2Proof

/-- A lane register's value in one lane (R120). -/
abbrev Word := BitVec 32
/-- A scalar register's value (R125). -/
abbrev DWord := BitVec 64
/-- One byte of memory (R2). -/
abbrev Byte := BitVec 8
/-- A 56-bit virtual address or program counter (R18, R185). -/
abbrev VAddr := BitVec 56
/-- A lane mask: bit L stands for lane L (R5). -/
abbrev Mask := BitVec 64
/-- The 128 bytes of one line, byte 0 in the low bits (R2, R15). -/
abbrev LineData := BitVec 1024

/-- The word a comparison writes: all ones for true, zero for false (R137). -/
def boolWord (b : Bool) : Word := if b then 0xFFFFFFFF#32 else 0#32

/-- The doubleword a scalar set function writes (R149). -/
def boolDWord (b : Bool) : DWord := if b then 0xFFFFFFFFFFFFFFFF#64 else 0#64

end Sys2Proof
end

