-- ==== Sys2Proof/Config.lean ====
section
/-!
DEFINITION. What one module fixes and what the manual leaves open. The opaque constants have no body: nothing can
be proved of their values, so a statement that mentions one holds whatever it is (log 4, log 6).
-/
namespace Sys2Proof.Config

/-- Which of two listed outcomes the n-th open choice takes (R248, R286, R295): free (log 4). -/
opaque freeChoice : Nat → Bool

/-- The n-th open word of a response whose bytes the manual does not give (R348): free (log 6). -/
opaque freeWord : Nat → BitVec 256

/-- The static identity of a module that I3C reads before Dawn (R18): not given, free (log 6). -/
opaque identity : Nat → BitVec 64

/-- The L2 set of a line's tag: the manual names an address hash and does not give it (R176): free (log 15). -/
opaque tagSet : Nat → Nat

/-- Granule of local-store allocation, in bytes (R19, R170). -/
def granule : Nat := 16384

/-- Clocks without a safe point before a forced stop (R50). -/
def forcedStopClocks : Nat := 65536

/-- Clocks within which a parked split is exchanged (R31). -/
def exchangeClocks : Nat := 4096

/-- Clocks passed over before an activation reserves, and per step of issue ageing (R43, R45). -/
def ageClocks : Nat := 65536

/-- Arithmetic clocks per lease-clock tick (R13). -/
def clocksPerTick : Nat := 256

/-- 200 µs and 2 ms in arithmetic clocks of 1.05 GHz (R13, R17). -/
def lossClocks : Nat := 210000
/-- See `lossClocks`. -/
def presumeClocks : Nat := 2100000

/-- Staging lines of one die's fabric unit (R307). -/
def stagingLines : Nat := 131072

/-- Bytes of DRAM offset a die has: 192 GiB (R183). -/
def dieBytes : Nat := 0x3000000000

/-- Modules of the fabric the model starts with (R16 allows 1 to 16): DESIGN CHOICE (log 12). -/
def fabricSize : Nat := 4

/-- L1 and R-region size of the partition the model starts with, in KiB (R170): DESIGN CHOICE (log 11). -/
def l1KiB : Nat := 256
/-- See `l1KiB`. -/
def rKiB : Nat := 512

/-- Physical base of the node table (R305), of a partition's spill region (R122) and side-log area (R272), which
firmware sets at Dawn: DESIGN CHOICE (log 10). -/
def nodeBase : Nat := 0x2000000000
/-- See `nodeBase`. -/
def spillBase : Nat := 0x2100000000
/-- See `nodeBase`. -/
def logBase : Nat := 0x2200000000

end Sys2Proof.Config
end

