-- ==== Sys2Proof/Syntax.lean ====
section
/-!
DEFINITION. The abstract syntax of the SYV-4480's steps: one constructor of `Instr` per row of the opcode table,
that is 241 instructions with an encoding (04_formats_and_opcode_map.md) and 69 events of engines, homes, the
fabric and the host side without one (95_what_each_step_holds.md). One operand record per encoding shape
(R76, R77); a field an instruction does not use has no component.
-/
namespace Sys2Proof

/-- The liveness mask word of a safe point (`S` = 1), or none when `S` = 0 (R89, R91). -/
abbrev Sp := Option (BitVec 32)

/-- 16-bit form: `I`, `A`, `D` (R76). -/
structure ShortForm where
  imm : Bool
  a : BitVec 5
  d : BitVec 5
  deriving DecidableEq, Repr

/-- Format V: `D`, `N` and two selectors (R77). -/
structure VForm where
  sp : Sp
  n : Bool
  d : BitVec 7
  a : BitVec 8
  b : BitVec 8
  deriving DecidableEq, Repr

/-- Format X with `M` = 0: `D`, `N` and one selector (R77, R87). -/
structure XForm where
  sp : Sp
  n : Bool
  d : BitVec 7
  a : BitVec 8
  deriving DecidableEq, Repr

/-- Format X with a position `M` (R87). -/
structure XmForm where
  sp : Sp
  n : Bool
  d : BitVec 7
  a : BitVec 8
  m : BitVec 4
  deriving DecidableEq, Repr

/-- Conversion: source code in `FN`, destination code in `M` (R87, R144). -/
structure CvtForm where
  sp : Sp
  n : Bool
  d : BitVec 7
  a : BitVec 8
  src : BitVec 4
  dst : BitVec 4
  deriving DecidableEq, Repr

/-- Format M: lane load or store (R84, R199). -/
structure MForm where
  sp : Sp
  n : Bool
  d : BitVec 7
  ar : BitVec 4
  off : BitVec 7
  pol : BitVec 2
  ord : BitVec 3
  deriving DecidableEq, Repr

/-- Format A, majors 0x34 to 0x36: `ord` 0 `atom`, 1 `atomar`, 2 `atomsc`; `c` is `FN`[4] (R85, R205). -/
structure AtomForm where
  sp : Sp
  n : Bool
  d : BitVec 7
  ar : BitVec 4
  off : BitVec 7
  ord : BitVec 2
  c : Bool
  deriving DecidableEq, Repr

/-- Format A, major 0x37: sketch instruction (R85, R210). -/
structure SkForm where
  sp : Sp
  n : Bool
  d : BitVec 7
  ar : BitVec 4
  off : BitVec 7
  deriving DecidableEq, Repr

/-- Format B (R77, R155). -/
structure BrForm where
  sp : Sp
  a : BitVec 8
  cond : BitVec 3
  off : BitVec 13
  deriving DecidableEq, Repr

/-- Format J (R77, R155). -/
structure JForm where
  sp : Sp
  off : BitVec 23
  deriving DecidableEq, Repr

/-- Format SR (R77, R149). -/
structure SrForm where
  sp : Sp
  d : BitVec 6
  a : BitVec 6
  b : BitVec 6
  deriving DecidableEq, Repr

/-- Format SR of `smov`, whose `sB` is 0 (R149). -/
structure SmovForm where
  sp : Sp
  d : BitVec 6
  a : BitVec 6
  deriving DecidableEq, Repr

/-- Format SR of the scalar loads and stores: `ar` is `sA`[3:0] (R86, R151). -/
structure SmemForm where
  sp : Sp
  d : BitVec 6
  ar : BitVec 4
  b : BitVec 6
  deriving DecidableEq, Repr

/-- Format SI (R77, R152). -/
structure SiForm where
  sp : Sp
  d : BitVec 6
  a : BitVec 6
  imm : BitVec 12
  deriving DecidableEq, Repr

/-- Format RM: the offset pair is v(2k), v(2k+1) (R82, R215). -/
structure RmForm where
  sp : Sp
  n : Bool
  d : BitVec 7
  ar : BitVec 4
  k : BitVec 6
  deriving DecidableEq, Repr

/-- Format E with no field. -/
structure EsForm where
  sp : Sp
  deriving DecidableEq, Repr

/-- Format E with `P`. -/
structure EpForm where
  sp : Sp
  p : BitVec 6
  deriving DecidableEq, Repr

/-- Format E with `Q`. -/
structure EqForm where
  sp : Sp
  q : BitVec 6
  deriving DecidableEq, Repr

/-- Format E with `K`. -/
structure EkForm where
  sp : Sp
  k : BitVec 7
  deriving DecidableEq, Repr

/-- Format E with `P` and `Q`. -/
structure EpqForm where
  sp : Sp
  p : BitVec 6
  q : BitVec 6
  deriving DecidableEq, Repr

/-- Format E with `P`, `Q` and `K`. -/
structure EpqkForm where
  sp : Sp
  p : BitVec 6
  q : BitVec 6
  k : BitVec 7
  deriving DecidableEq, Repr

/-- `emit`: `K`[5:0] is the status register (R264). -/
structure EmitForm where
  sp : Sp
  p : BitVec 6
  q : BitVec 6
  k : BitVec 6
  deriving DecidableEq, Repr

/-- Sync instruction: offset register `P`, address register `Q`[3:0], value register `K`[5:0] (R313). -/
structure SyncForm where
  sp : Sp
  p : BitVec 6
  ar : BitVec 4
  r : BitVec 6
  deriving DecidableEq, Repr

/-- `fence`: kind in `P`[1:0], scope in `Q` (R161). -/
structure FenceForm where
  sp : Sp
  kind : BitVec 2
  scope : BitVec 6
  deriving DecidableEq, Repr

/-- `Q`[3:0] and `P`[3:0]: `ctxsave`, `ctxload`, `amov` (R153, R162). -/
structure CtxForm where
  sp : Sp
  p : BitVec 4
  ar : BitVec 4
  deriving DecidableEq, Repr

/-- `dusk`: `K`[0] keeps the queues (R168). -/
structure DuskForm where
  sp : Sp
  p : BitVec 6
  q : BitVec 6
  keep : Bool
  deriving DecidableEq, Repr

/-- `aadd` (R153). -/
structure AaddForm where
  sp : Sp
  p : BitVec 6
  ar : BitVec 4
  k : BitVec 7
  deriving DecidableEq, Repr

/-- `aset` (R153). -/
structure AsetForm where
  sp : Sp
  p : BitVec 6
  ar : BitVec 4
  k : BitVec 5
  deriving DecidableEq, Repr

/-- `aget` (R153). -/
structure AgetForm where
  sp : Sp
  p : BitVec 6
  ar : BitVec 4
  k : BitVec 2
  deriving DecidableEq, Repr

/-- A request of a PCIe endpoint: its PASID if it carries one, its virtual address, its size in bytes, and the data
of a write (none for a read) (R349). -/
structure PcieReq where
  pasid : Option Nat
  va : BitVec 56
  size : Nat
  data : Option (List (BitVec 8))
  deriving DecidableEq, Repr

/-- A partition as firmware writes it at Dawn: number, clusters, L1 and R-region sizes in KiB, spill region and side-log
area (R122, R170, R272, R347). -/
structure PartInput where
  num : Nat
  clusters : List Nat
  l1KiB : Nat
  rKiB : Nat
  spill : Nat
  sideLog : Nat
  deriving DecidableEq, Repr

/-- What the outside decides of one Dawn: the step that fails (1 to 6) with its cause, or none; the digest measured
for each of the six indices (R347, R348); the partitions and the node-table base that firmware writes, or none for the
ones the model starts with (R305, R347); the ports whose trained link reaches another module or port than it should (R350). -/
structure DawnInput where
  failure : Option (Nat × Nat)
  digests : List (BitVec 256)
  parts : Option (List PartInput) := none
  nodeBase : Option Nat := none
  miscabled : List Nat := []
  deriving DecidableEq, Repr

/-- Where an uncorrectable data error strikes: the rows of Table Faults 6 (R336). -/
inductive ErrorSite where
  | dram (line : Nat)
  | l2 (line : Nat)
  | l1Clean (core line : Nat)
  | l1Dirty (core line : Nat)
  | localLine (core line : Nat)
  | regBlock (core slot b : Nat)
  | groupArea (core slot : Nat)
  | saveSlot (core slot : Nat)
  | directory (line : Nat)
  | syncTag (word : Nat)
  deriving DecidableEq, Repr

/-- An access of an application core: the context its resident kernel serves, and the virtual address (R18, R187). -/
structure HostAt where
  vf : Nat
  ctx : Nat
  l0 : Nat
  pl : Nat
  va : Nat
  deriving DecidableEq, Repr

/-- The operands of an event, which the state holds while it happens: numbers that say which unit acts, a value
written, and the inputs of the few events that carry more. Each event's constructor says which it reads. -/
structure EvArgs where
  a : Nat := 0
  b : Nat := 0
  c : Nat := 0
  v : DWord := 0
  up : Bool := false
  pcie : Option PcieReq := none
  dawn : Option DawnInput := none
  site : Option ErrorSite := none
  host : Option HostAt := none
  deriving DecidableEq, Repr

/-- Every step of the opcode table. The events (from `pfres` on) have no encoding; their operands stand in the state
(`EvArgs`). -/
inductive Instr where
  /-- IADD_16: 16-bit form of iadd: D gets D plus A. (R76) -/
  | iadd16 (f : ShortForm)
  /-- ISUB_16: 16-bit form of isub: D gets D minus A. (R76) -/
  | isub16 (f : ShortForm)
  /-- AND_16: 16-bit form of and: D gets D and A. (R76) -/
  | and16 (f : ShortForm)
  /-- OR_16: 16-bit form of or: D gets D or A. (R76) -/
  | or16 (f : ShortForm)
  /-- XOR_16: 16-bit form of xor: D gets D xor A. (R76) -/
  | xor16 (f : ShortForm)
  /-- SHL_16: 16-bit form of shl: D gets D shifted left by A. (R76) -/
  | shl16 (f : ShortForm)
  /-- SHRL_16: 16-bit form of shrl: D gets D shifted right with zero fill. (R76) -/
  | shrl16 (f : ShortForm)
  /-- SHRA_16: 16-bit form of shra: D gets D shifted right with sign fill. (R76) -/
  | shra16 (f : ShortForm)
  /-- MOV: 16-bit mov: D gets A, equivalent to or D, A, A. (R76) -/
  | mov (f : ShortForm)
  /-- FADD_16: 16-bit form of fadd: D gets the rounded FP32 sum of D and A. (R76) -/
  | fadd16 (f : ShortForm)
  /-- FMUL_16: 16-bit form of fmul: D gets the rounded FP32 product of D and A. (R76) -/
  | fmul16 (f : ShortForm)
  /-- FMIN_16: 16-bit form of fmin: D gets the R103 minimum of D and A. (R76) -/
  | fmin16 (f : ShortForm)
  /-- FMAX_16: 16-bit form of fmax: D gets the R103 maximum of D and A. (R76) -/
  | fmax16 (f : ShortForm)
  /-- HADD2_16: 16-bit form of hadd2: per BF16 half, D gets D plus A. (R76) -/
  | hadd216 (f : ShortForm)
  /-- HMUL2_16: 16-bit form of hmul2: per BF16 half, D gets D times A. (R76) -/
  | hmul216 (f : ShortForm)
  /-- IMAX_16: 16-bit form of imax: D gets the signed maximum of D and A. (R76) -/
  | imax16 (f : ShortForm)
  /-- IADD: Lane integer add, wrapping modulo 2^32. (R138) -/
  | iadd (f : VForm)
  /-- ISUB: Lane integer subtract, wrapping. (R138) -/
  | isub (f : VForm)
  /-- IMUL: Lane integer multiply, low 32 bits. (R138) -/
  | imul (f : VForm)
  /-- IMULH: Lane signed multiply, high 32 bits. (R138) -/
  | imulh (f : VForm)
  /-- IMULHU: Lane unsigned multiply, high 32 bits. (R138) -/
  | imulhu (f : VForm)
  /-- IMAD: Lane integer multiply-add into the accumulator D. (R138) -/
  | imad (f : VForm)
  /-- IMIN: Lane signed minimum. (R138) -/
  | imin (f : VForm)
  /-- IMAX: Lane signed maximum. (R138) -/
  | imax (f : VForm)
  /-- UMIN: Lane unsigned minimum. (R138) -/
  | umin (f : VForm)
  /-- UMAX: Lane unsigned maximum. (R138) -/
  | umax (f : VForm)
  /-- AND: Lane bitwise and. (R138) -/
  | and (f : VForm)
  /-- OR: Lane bitwise or. (R138) -/
  | or (f : VForm)
  /-- XOR: Lane bitwise xor. (R138) -/
  | xor (f : VForm)
  /-- ANDN: Lane a and not b. (R138) -/
  | andn (f : VForm)
  /-- SHL: Lane shift left; 0 when the count is 32 or more. (R138) -/
  | shl (f : VForm)
  /-- SHRL: Lane logical shift right. (R138) -/
  | shrl (f : VForm)
  /-- SHRA: Lane arithmetic shift right. (R138) -/
  | shra (f : VForm)
  /-- SETEQ: Lane set true when a equals b. (R138) -/
  | seteq (f : VForm)
  /-- SETLT: Lane set true when a is less than b, signed. (R138) -/
  | setlt (f : VForm)
  /-- SEL: Lane select a where D is non-zero, else b. (R138) -/
  | sel (f : VForm)
  /-- FADD: Lane FP32 add, rounded under RND. (R138) -/
  | fadd (f : VForm)
  /-- FSUB: Lane FP32 subtract. (R138) -/
  | fsub (f : VForm)
  /-- FMUL: Lane FP32 multiply. (R138) -/
  | fmul (f : VForm)
  /-- FFMA: Lane FP32 fused multiply-add into D with one rounding. (R140) -/
  | ffma (f : VForm)
  /-- FMIN: Lane FP32 minimum ordering -0 below +0. (R103) -/
  | fmin (f : VForm)
  /-- FMAX: Lane FP32 maximum ordering -0 below +0. (R103) -/
  | fmax (f : VForm)
  /-- FSETEQ: Lane FP32 equality compare. (R138) -/
  | fseteq (f : VForm)
  /-- FSETLT: Lane FP32 less-than compare. (R138) -/
  | fsetlt (f : VForm)
  /-- FSETLE: Lane FP32 less-or-equal compare. (R138) -/
  | fsetle (f : VForm)
  /-- HADD2: Per-half BF16 add. (R141) -/
  | hadd2 (f : VForm)
  /-- HMUL2: Per-half BF16 multiply. (R141) -/
  | hmul2 (f : VForm)
  /-- HFMA2: Per-half BF16 fused multiply-add into D. (R141) -/
  | hfma2 (f : VForm)
  /-- INEG: Lane integer negate. (R142) -/
  | ineg (f : XForm)
  /-- IABS: Lane integer absolute value. (R142) -/
  | iabs (f : XForm)
  /-- POPC: Lane population count. (R142) -/
  | popc (f : XForm)
  /-- CLZ: Lane count of leading zeros. (R142) -/
  | clz (f : XForm)
  /-- CTZ: Lane count of trailing zeros. (R142) -/
  | ctz (f : XForm)
  /-- BREV: Lane bit reverse. (R142) -/
  | brev (f : XForm)
  /-- SEXT: Lane sign-extend of a byte or halfword. (R142) -/
  | sext (f : XmForm)
  /-- ZEXT: Lane zero-extend of a byte or halfword. (R142) -/
  | zext (f : XmForm)
  /-- NOT: Lane bitwise not. (R142) -/
  | not (f : XForm)
  /-- FNEG: Lane FP32 negate. (R143) -/
  | fneg (f : XForm)
  /-- FABS: Lane FP32 absolute value. (R143) -/
  | fabs (f : XForm)
  /-- FSQRT: Lane FP32 square root under RND. (R143) -/
  | fsqrt (f : XForm)
  /-- FRSQ: Lane FP32 reciprocal square root, RNE. (R143) -/
  | frsq (f : XForm)
  /-- FRCP: Lane FP32 reciprocal under RND. (R143) -/
  | frcp (f : XForm)
  /-- FEXP2: Lane FP32 base-2 exponential, RNE. (R143) -/
  | fexp2 (f : XForm)
  /-- FLOG2: Lane FP32 base-2 logarithm, RNE. (R143) -/
  | flog2 (f : XForm)
  /-- FSIN: Lane FP32 sine, RNE. (R143) -/
  | fsin (f : XForm)
  /-- FCOS: Lane FP32 cosine, RNE. (R143) -/
  | fcos (f : XForm)
  /-- FFLOOR: Lane FP32 floor. (R143) -/
  | ffloor (f : XForm)
  /-- FCEIL: Lane FP32 ceiling. (R143) -/
  | fceil (f : XForm)
  /-- FTRUNC: Lane FP32 truncation to integer. (R143) -/
  | ftrunc (f : XForm)
  /-- FRINT: Lane FP32 round to integer under RND. (R143) -/
  | frint (f : XForm)
  /-- CVT: Lane format conversion with cvt overflow behaviour. (R144) -/
  | cvt (f : CvtForm)
  /-- CVTS: Lane saturating format conversion. (R144) -/
  | cvts (f : CvtForm)
  /-- CVTSR: Lane stochastically rounded conversion that advances SRSEED. (R114) -/
  | cvtsr (f : CvtForm)
  /-- PKB: Insert a byte into D at position M. (R146) -/
  | pkb (f : XmForm)
  /-- PKH: Insert a halfword into D at position M. (R146) -/
  | pkh (f : XmForm)
  /-- PKN: Insert a nibble into D at position M. (R146) -/
  | pkn (f : XmForm)
  /-- UPB: Extract a byte, zero-extended. (R146) -/
  | upb (f : XmForm)
  /-- UPBS: Extract a byte, sign-extended. (R146) -/
  | upbs (f : XmForm)
  /-- UPH: Extract a halfword, zero-extended. (R146) -/
  | uph (f : XmForm)
  /-- UPHS: Extract a halfword, sign-extended. (R146) -/
  | uphs (f : XmForm)
  /-- UPN: Extract a nibble, zero-extended. (R146) -/
  | upn (f : XmForm)
  /-- UPNS: Extract a nibble, sign-extended. (R146) -/
  | upns (f : XmForm)
  /-- QSWX: Quad exchange with lane L xor 1. (R158) -/
  | qswx (f : XForm)
  /-- QSWY: Quad exchange with lane L xor 2. (R158) -/
  | qswy (f : XForm)
  /-- QSWD: Quad exchange with lane L xor 3. (R158) -/
  | qswd (f : XForm)
  /-- QBC: Quad broadcast from quad lane M. (R158) -/
  | qbc (f : XmForm)
  /-- QADDF: Quad FP32 sum reduction. (R158) -/
  | qaddf (f : XForm)
  /-- QADDI: Quad integer sum reduction. (R158) -/
  | qaddi (f : XForm)
  /-- QMAXF: Quad FP32 maximum reduction. (R158) -/
  | qmaxf (f : XForm)
  /-- SHFL: Group shuffle from lane d mod W. (R159) -/
  | shfl (f : XForm)
  /-- SHFLUP: Group shuffle from lane L minus d. (R159) -/
  | shflup (f : XForm)
  /-- SHFLDN: Group shuffle from lane L plus d. (R159) -/
  | shfldn (f : XForm)
  /-- SHFLX: Group shuffle from lane L xor d. (R159) -/
  | shflx (f : XForm)
  /-- VANY: Group vote: true if any participant's a is non-zero. (R159) -/
  | vany (f : XForm)
  /-- VALL: Group vote: true if every participant's a is non-zero. (R159) -/
  | vall (f : XForm)
  /-- BALLOT: Group ballot mask of non-zero participants. (R160) -/
  | ballot (f : XForm)
  /-- GADDI: Group integer sum reduction. (R159) -/
  | gaddi (f : XForm)
  /-- GADDF: Group FP32 sum reduction. (R159) -/
  | gaddf (f : XForm)
  /-- GMAXF: Group FP32 maximum reduction. (R159) -/
  | gmaxf (f : XForm)
  /-- SETLTU: Two-address unsigned less-than compare. (R147) -/
  | setltu (f : XForm)
  /-- SETLE: Two-address signed less-or-equal compare. (R147) -/
  | setle (f : XForm)
  /-- SETLEU: Two-address unsigned less-or-equal compare. (R147) -/
  | setleu (f : XForm)
  /-- SETNE: Two-address not-equal compare. (R147) -/
  | setne (f : XForm)
  /-- FSETNE: Two-address FP32 not-equal or unordered compare. (R147) -/
  | fsetne (f : XForm)
  /-- FSETUN: Two-address FP32 unordered test. (R147) -/
  | fsetun (f : XForm)
  /-- FCLASS: Test the FP32 class of a against the mask in D. (R148) -/
  | fclass (f : XForm)
  /-- LDB: Lane byte load, zero-extended. (R200) -/
  | ldb (f : MForm)
  /-- LDH: Lane halfword load, zero-extended. (R200) -/
  | ldh (f : MForm)
  /-- LDW: Lane word load; on a sketch page a query. (R200) -/
  | ldw (f : MForm)
  /-- LDD: Lane doubleword load into a register pair. (R200) -/
  | ldd (f : MForm)
  /-- STB: Lane byte store, highest lane winning overlaps. (R200) -/
  | stb (f : MForm)
  /-- STH: Lane halfword store. (R200) -/
  | sth (f : MForm)
  /-- STW: Lane word store; on a sketch page an insert. (R200) -/
  | stw (f : MForm)
  /-- STD: Lane doubleword store from a register pair. (R200) -/
  | std (f : MForm)
  /-- ATOM_ADD: Atomic 32-bit add, relaxed, acquire-release or sequentially consistent by major. (R206) -/
  | atomAdd (f : AtomForm)
  /-- ATOM_ADDD: Atomic 64-bit add using a register pair. (R206) -/
  | atomAddd (f : AtomForm)
  /-- ATOM_AND: Atomic and. (R206) -/
  | atomAnd (f : AtomForm)
  /-- ATOM_OR: Atomic or. (R206) -/
  | atomOr (f : AtomForm)
  /-- ATOM_XOR: Atomic xor. (R206) -/
  | atomXor (f : AtomForm)
  /-- ATOM_MIN: Atomic signed minimum. (R206) -/
  | atomMin (f : AtomForm)
  /-- ATOM_MAX: Atomic signed maximum. (R206) -/
  | atomMax (f : AtomForm)
  /-- ATOM_UMIN: Atomic unsigned minimum. (R206) -/
  | atomUmin (f : AtomForm)
  /-- ATOM_UMAX: Atomic unsigned maximum. (R206) -/
  | atomUmax (f : AtomForm)
  /-- ATOM_XCHG: Atomic exchange. (R206) -/
  | atomXchg (f : AtomForm)
  /-- ATOM_CAS: Atomic compare-and-swap using a register pair. (R206) -/
  | atomCas (f : AtomForm)
  /-- ATOM_ADDF: Atomic FP32 add rounded RNE at the home. (R206) -/
  | atomAddf (f : AtomForm)
  /-- ATOM_ADD2H: Atomic per-half BF16 add as two 16-bit updates. (R251) -/
  | atomAdd2h (f : AtomForm)
  /-- ATOM_MAXF: Atomic FP32 maximum. (R206) -/
  | atomMaxf (f : AtomForm)
  /-- ATOM_MINF: Atomic FP32 minimum. (R206) -/
  | atomMinf (f : AtomForm)
  /-- ATOM_INCW: Atomic wrapping increment against a limit. (R206) -/
  | atomIncw (f : AtomForm)
  /-- SKINS: Sketch insert of a key with a weight. (R212) -/
  | skins (f : SkForm)
  /-- SKDEL: Sketch deletion of a weight from a key. (R212) -/
  | skdel (f : SkForm)
  /-- SKQRY: Sketch query of a key, returning answer and status. (R212) -/
  | skqry (f : SkForm)
  /-- SKRANK: Quantile rank of a value. (R212) -/
  | skrank (f : SkForm)
  /-- SKMERGE: Merge a source sketch region into the target. (R213) -/
  | skmerge (f : SkForm)
  /-- SKFOLD: Halve a sketch region. (R193) -/
  | skfold (f : SkForm)
  /-- SKCLEAR: Zero a sketch region and clear its flags. (R213) -/
  | skclear (f : SkForm)
  /-- SKINFO: Return a sketch region's parameter word and status. (R213) -/
  | skinfo (f : SkForm)
  /-- BRC: Conditional branch that may divide the split. (R155) -/
  | brc (f : BrForm)
  /-- JMP: Relative jump. (R155) -/
  | jmp (f : JForm)
  /-- CALL: Relative call writing the fall-through address to lk. (R155) -/
  | call (f : JForm)
  /-- SADD: Scalar add. (R149) -/
  | sadd (f : SrForm)
  /-- SSUB: Scalar subtract. (R149) -/
  | ssub (f : SrForm)
  /-- SMUL: Scalar multiply, low 64 bits. (R149) -/
  | smul (f : SrForm)
  /-- SMULH: Scalar signed multiply, high 64 bits. (R149) -/
  | smulh (f : SrForm)
  /-- SAND: Scalar and. (R149) -/
  | sand (f : SrForm)
  /-- SOR: Scalar or. (R149) -/
  | sor (f : SrForm)
  /-- SXOR: Scalar xor. (R149) -/
  | sxor (f : SrForm)
  /-- SANDN: Scalar and-not. (R149) -/
  | sandn (f : SrForm)
  /-- SSHL: Scalar shift left. (R149) -/
  | sshl (f : SrForm)
  /-- SSHRL: Scalar logical shift right. (R149) -/
  | sshrl (f : SrForm)
  /-- SSHRA: Scalar arithmetic shift right. (R149) -/
  | sshra (f : SrForm)
  /-- SMIN: Scalar signed minimum. (R149) -/
  | smin (f : SrForm)
  /-- SMAX: Scalar signed maximum. (R149) -/
  | smax (f : SrForm)
  /-- SUMIN: Scalar unsigned minimum. (R149) -/
  | sumin (f : SrForm)
  /-- SUMAX: Scalar unsigned maximum. (R149) -/
  | sumax (f : SrForm)
  /-- SSETEQ: Scalar set on equal. (R149) -/
  | sseteq (f : SrForm)
  /-- SSETLT: Scalar set on signed less-than. (R149) -/
  | ssetlt (f : SrForm)
  /-- SSETLTU: Scalar set on unsigned less-than. (R149) -/
  | ssetltu (f : SrForm)
  /-- SSEL: Scalar select on the old sD. (R149) -/
  | ssel (f : SrForm)
  /-- SMOV: Scalar move. (R149) -/
  | smov (f : SmovForm)
  /-- SLD: Scalar 4-byte load, zero-extended. (R204) -/
  | sld (f : SmemForm)
  /-- SLDD: Scalar 8-byte load. (R204) -/
  | sldd (f : SmemForm)
  /-- SST: Scalar 4-byte store. (R204) -/
  | sst (f : SmemForm)
  /-- SSTD: Scalar 8-byte store. (R204) -/
  | sstd (f : SmemForm)
  /-- SADDI: Scalar add of a 12-bit signed immediate. (R152) -/
  | saddi (f : SiForm)
  /-- RLDW: Remote word load from a peer module's home. (R216) -/
  | rldw (f : RmForm)
  /-- RLDD: Remote doubleword load. (R216) -/
  | rldd (f : RmForm)
  /-- RSTW: Remote word store, performed exactly once. (R218) -/
  | rstw (f : RmForm)
  /-- RSTD: Remote doubleword store. (R218) -/
  | rstd (f : RmForm)
  /-- RADDI: Remote commutative integer add. (R215) -/
  | raddi (f : RmForm)
  /-- RADDF: Remote commutative FP32 add. (R215) -/
  | raddf (f : RmForm)
  /-- RMAXF: Remote commutative FP32 maximum. (R215) -/
  | rmaxf (f : RmForm)
  /-- RCAS: Remote compare-and-swap with acquire and release at system scope. (R219) -/
  | rcas (f : RmForm)
  /-- RXCHG: Remote exchange with acquire and release at system scope. (R219) -/
  | rxchg (f : RmForm)
  /-- RREDF: Pull reduction of FP32 words over a member mask. (R217) -/
  | rredf (f : RmForm)
  /-- RREDH: Pull reduction of BF16 pairs over a member mask. (R217) -/
  | rredh (f : RmForm)
  /-- GANG: Write the group's gang register. (R289) -/
  | gang (f : EpForm)
  /-- MREQ: Post a matrix reservation, waiting for a free entry. (R290) -/
  | mreq (f : EpForm)
  /-- MREQ_TRY: Post a matrix reservation or return 2^63 when the table is full. (R290) -/
  | mreqTry (f : EpForm)
  /-- MWL: Post a weight load operation. (R292) -/
  | mwl (f : EpqForm)
  /-- MPASS: Post a matrix pass operation. (R292) -/
  | mpass (f : EpqForm)
  /-- MRDY: Wait until earlier local-region stores are performed at their banks. (R294) -/
  | mrdy (f : EsForm)
  /-- MWAIT: Wait for matrix operations and return their unreported status. (R294) -/
  | mwait (f : EpqForm)
  /-- MDRAIN: Post a drain of a C tile into an A window. (R292) -/
  | mdrain (f : EpqForm)
  /-- MREL: Release the matrix reservation after its operations complete. (R294) -/
  | mrel (f : EsForm)
  /-- MSCALE: Write the group's MSC stream format and scale. (R289) -/
  | mscale (f : EpForm)
  /-- TOUCH: Start the copy of a bound absent window. (R270) -/
  | touch (f : EpForm)
  /-- CLOSE: Move the pending copy list into a new numbered batch. (R270) -/
  | close (f : EpForm)
  /-- WAITB: Wait until batches up to a number have completed. (R270) -/
  | waitb (f : EpForm)
  /-- BIND: Write a region-table entry image and empty its window. (R298) -/
  | bind (f : EpqForm)
  /-- UNBIND: Unbind a region-table entry. (R298) -/
  | unbind (f : EpForm)
  /-- SEAL: Seal a window and return its handle. (R300) -/
  | seal (f : EpqForm)
  /-- UNSEAL: Unseal a window once no copy reads it. (R300) -/
  | unseal (f : EpForm)
  /-- EMIT: Append records to a node queue, waiting for space. (R264) -/
  | emit (f : EmitForm)
  /-- EMIT_TRY: Append records or return a refusal status without waiting. (R264) -/
  | emitTry (f : EmitForm)
  /-- QCTL_STAT: qctl op 0: return the queue's STS. (R267) -/
  | qctlStat (f : EpqForm)
  /-- QCTL_ENABLE: qctl op 1: check and enable a queue. (R267) -/
  | qctlEnable (f : EpqForm)
  /-- QCTL_DISABLE: qctl op 2: disable a queue. (R267) -/
  | qctlDisable (f : EpqForm)
  /-- QCTL_INIT: qctl op 3: reset a disabled empty queue's counters and capacity. (R267) -/
  | qctlInit (f : EpqForm)
  /-- QCTL_PERIOD: qctl op 4: write WDT and restart the watchdog. (R267) -/
  | qctlPeriod (f : EpqForm)
  /-- QCTL_SUPERVISOR: qctl op 5: write SUP. (R267) -/
  | qctlSupervisor (f : EpqForm)
  /-- QCTL_CLEAR: qctl op 6: clear WDG, WLOST and PERR and restart the watchdog. (R267) -/
  | qctlClear (f : EpqForm)
  /-- CINIT: Make a word a live arrival counter with a release. (R315) -/
  | cinit (f : SyncForm)
  /-- CINC: Add to a live counter with a release and wake its waiters. (R315) -/
  | cinc (f : SyncForm)
  /-- CINC_REMOTE: Add to a live counter on a peer module at system scope. (R315) -/
  | cincRemote (f : SyncForm)
  /-- CWAIT: Wait until a counter reaches a target, then acquire. (R315) -/
  | cwait (f : SyncForm)
  /-- CWAIT_POLL: Read a counter without waiting, then acquire. (R315) -/
  | cwaitPoll (f : SyncForm)
  /-- BARINIT: Make a word a live barrier with an expected count. (R316) -/
  | barinit (f : SyncForm)
  /-- BARINIT_TEAM: Make a word a live team barrier counting the team's groups. (R317) -/
  | barinitTeam (f : SyncForm)
  /-- BARARR: Arrive at a barrier with a release and return the phase. (R316) -/
  | bararr (f : SyncForm)
  /-- BARWAIT: Wait until the barrier phase changes, then acquire. (R316) -/
  | barwait (f : SyncForm)
  /-- BARTEST: Test whether the barrier phase has changed. (R316) -/
  | bartest (f : SyncForm)
  /-- SYNKILL: Retire a live sync word, failing its waiters with SYNC. (R315) -/
  | synkill (f : SyncForm)
  /-- TRIG: Mark the group triggered. (R320) -/
  | trig (f : EsForm)
  /-- CGLOAD: Load a chunk graph into a slot, or free a slot. (R307) -/
  | cgload (f : EpqForm)
  /-- CGRUN: Release and post a run of a loaded chunk graph. (R307) -/
  | cgrun (f : EpqkForm)
  /-- CGWAIT: Wait for chunk-graph runs and acquire them. (R307) -/
  | cgwait (f : EpqForm)
  /-- FENCE: Acquire, release or full fence at a named scope. (R161) -/
  | fence (f : FenceForm)
  /-- JMPI: Indirect jump to a scalar register. (R157) -/
  | jmpi (f : EpForm)
  /-- JMPI_LINK: Indirect jump that writes lk. (R157) -/
  | jmpiLink (f : EpForm)
  /-- EXIT: Exit lanes, making helpers or retiring whole quads. (R163) -/
  | exit (f : EsForm)
  /-- TRAP: Raise the precise trap TRAP with code k. (R164) -/
  | trap (f : EkForm)
  /-- YIELD: Make the group's splits not ready for the clock. (R164) -/
  | yield (f : EsForm)
  /-- RFREE: Release a range of lane-register blocks. (R134) -/
  | rfree (f : EpqForm)
  /-- CSRR: Read a control or status register. (R133) -/
  | csrr (f : EpqkForm)
  /-- CSRW: Write a control or status register that has no row of its own. (R133) -/
  | csrw (f : EpqkForm)
  /-- SLDI: Load a sign-extended 13-bit immediate into a scalar. (R134) -/
  | sldi (f : EpqkForm)
  /-- SLDHI: Shift a scalar left 13 and or in an immediate. (R134) -/
  | sldhi (f : EpqkForm)
  /-- RFE_RETRY: Leave handler mode and retry the trapped instruction. (R166) -/
  | rfeRetry (f : EsForm)
  /-- RFE_SKIP: Leave handler mode after the trapped instruction. (R166) -/
  | rfeSkip (f : EsForm)
  /-- RFE_REG: Leave handler mode at an address in a scalar register. (R166) -/
  | rfeReg (f : EpForm)
  /-- CTXSAVE: Store group context to an image. (R167) -/
  | ctxsave (f : CtxForm)
  /-- CTXLOAD: Restore group context from an image. (R167) -/
  | ctxload (f : CtxForm)
  /-- DUSK: Drain, scrub and reset another partition. (R168) -/
  | dusk (f : DuskForm)
  /-- WALK_CFG: Configure the core's walker from a local-store descriptor. (R169) -/
  | walkCfg (f : EpForm)
  /-- WALK_RUN: Run the configured walk to its end. (R169) -/
  | walkRun (f : EqForm)
  /-- AADD: Advance an address register's pointer within bounds. (R153) -/
  | aadd (f : AaddForm)
  /-- ASET: Narrow an address register's bounds and permissions. (R153) -/
  | aset (f : AsetForm)
  /-- AMOV: Copy one address register to another. (R153) -/
  | amov (f : CtxForm)
  /-- AGET: Read a field of an address register into a scalar. (R153) -/
  | aget (f : AgetForm)
  /-- PFRES: Write to PFRES retries or fails every held access of a fault pair. (R334) Operands: `a` = m, `b` = vf, `v` = v. -/
  | pfres
  /-- PRECTL: Write to PRECTL requests or lifts pre-emption of a virtual function. (R337) Operands: `a` = m, `v` = v. -/
  | prectl
  /-- VFCFG: Write to VFCFG sets partitions, scope cap and enable of a virtual function. (R352) Operands: `a` = m, `b` = vf, `v` = v. -/
  | vfcfg
  /-- VFSALT: Write of a virtual function's dedup salt, accepted only while disabled. (R352) Operands: `a` = m, `b` = vf, `v` = v. -/
  | vfsalt
  /-- PWRCAP: Write of the power cap in watts. (R353) Operands: `a` = m, `v` = v. -/
  | pwrcap
  /-- RC_REGISTER_READ: Read of an RC count register returns and clears it. (R322) Operands: `a` = core, `b` = num. -/
  | rcRegisterRead
  /-- PDN_STORE: 8-byte store to a queue header's PDN marks an index done and publishes. (R260) Operands: `a` = m, `b` = node, `v` = v. -/
  | pdnStore
  /-- RSV_RESERVE: 64-bit atomic add on RSV reserves a record index. (R260) Operands: `a` = m, `b` = node, `v` = v. -/
  | rsvReserve
  /-- COALESCE_TIMEOUT: The coalescing timeout expires and the unconsumed records are taken. (R262) Operands: `a` = m, `b` = node. -/
  | coalesceTimeout
  /-- PLACE_BAND: The placer places a band when all its teams fit. (R41) Operands: `a` = m, `b` = node, `c` = act. -/
  | placeBand
  /-- ACTIVATION_RESERVING: An activation passed over for 65,536 clocks becomes reserving. (R43) Operands: `a` = m, `b` = node, `c` = act. -/
  | activationReserving
  /-- ISSUE_PRIORITY_AGEING: A group waiting 65,536 clocks gains one age step. (R45) Operands: `a` = core, `b` = slot. -/
  | issuePriorityAgeing
  /-- PARKED_SPLIT_EXCHANGE: A parked split is exchanged in within 4,096 clocks. (R31) Operands: `a` = core, `b` = slot. -/
  | parkedSplitExchange
  /-- GRID_TRIGGER: All teams have triggered and released; trigger edges gain credit. (R38) Operands: `a` = m, `b` = node, `c` = act. -/
  | gridTrigger
  /-- GRID_COMPLETE: All teams exited and released at device scope; complete edges gain credit. (R39) Operands: `a` = m, `b` = node, `c` = act. -/
  | gridComplete
  /-- FORCED_STOP: No safe point within 65,536 clocks: the group is stopped and saved. (R50) Operands: `a` = core, `b` = slot. -/
  | forcedStop
  /-- BLOCK_FILL: A spilled block is filled before its read or write. (R122) Operands: `a` = core, `b` = slot, `c` = b. -/
  | blockFill
  /-- LOAD_RETURN: A load's data returns and is written to its register. (R200) Operands: `a` = core, `b` = slot, `c` = txn. -/
  | loadReturn
  /-- RENEWAL_REPLY: Renewal reply confirms or discards the Twilight work. (R225) Operands: `a` = core, `b` = slot. -/
  | renewalReply
  /-- LEASE_EXPIRY: A lease of class k runs out on the lease clock. (R235) Operands: `a` = core, `b` = line. -/
  | leaseExpiry
  /-- TRACKED_READ: A tracked read reaches the home and records its sharer. (R253) Operands: `a` = req. -/
  | trackedRead
  /-- LEASE_LOAD: A lease load, renewal or untracked read is served at the home. (R302) Operands: `a` = req. -/
  | leaseLoad
  /-- OWNERSHIP_REQUEST: An ownership request reaches the home and starts a round or grant. (R254) Operands: `a` = req. -/
  | ownershipRequest
  /-- HOME_WRITE: A write performed at the home arrives and is handled by state. (R302) Operands: `a` = req. -/
  | homeWrite
  /-- COMMUTATIVE_UPDATE: A commutative update reaches the home, granted as partial or performed. (R237) Operands: `a` = req. -/
  | commutativeUpdate
  /-- PARTIAL_DELIVERY: A partial is delivered to the home and its holder removed. (R302) Operands: `a` = core, `b` = line. -/
  | partialDelivery
  /-- INVALIDATION: A core or fabric unit receives an invalidation and discards its copy. (R254) Operands: `a` = target, `b` = line. -/
  | invalidation
  /-- ACKNOWLEDGEMENT: An invalidation acknowledgement reaches the home. (R254) Operands: `a` = source, `b` = line. -/
  | acknowledgement
  /-- L1_EVICT: An L1 evicts a line by its own replacement. (R255) Operands: `a` = core, `b` = line. -/
  | l1Evict
  /-- EVICTION_NOTICE: An eviction notice reaches the home. (R255) Operands: `a` = core, `b` = line. -/
  | evictionNotice
  /-- DRAM_FILL: A line filled from DRAM is installed in the L2. (R178) Operands: `a` = vf, `b` = line. -/
  | dramFill
  /-- SIDE_LOG_REPLAY: A side-log entry replays once its page is mapped. (R273) Operands: `a` = core. -/
  | sideLogReplay
  /-- COPY_ARRIVAL: A copy line lands in a window or is dropped by generation. (R173) Operands: `a` = copy, `b` = core, `c` = line. -/
  | copyArrival
  /-- MATRIX_GRANT: The arbiter grants the engine to a ready reservation entry. (R284) Operands: `a` = cluster. -/
  | matrixGrant
  /-- MATRIX_OPERATION_COMPLETE: A weight load, pass or drain completes and records status. (R285) Operands: `a` = cluster. -/
  | matrixOperationComplete
  /-- PACKET_ARRIVAL: A fabric packet reaches the receive window and is delivered, buffered or discarded. (R274) Operands: `a` = core, `b` = target, `c` = seq. -/
  | packetArrival
  /-- CUSTODY_ACK: A hop's custody acknowledgement frees a retransmission buffer entry. (R244) Operands: `a` = core, `b` = target, `c` = seq. -/
  | custodyAck
  /-- LINK_DOWN: A link failure is detected and traffic moves or detours. (R244) Operands: `a` = m, `b` = port. -/
  | linkDown
  /-- LINK_TRAINING_COMPLETE: A training ends up or failed. (R351) Operands: `a` = m, `b` = port, `up` = up. -/
  | linkTrainingComplete
  /-- LOSS_OF_HOME: After 200 µs without a path, copies from that home are discarded. (R245) Operands: `a` = m, `b` = home. -/
  | lossOfHome
  /-- SHARER_PRESUMED_UNREACHABLE: After 2 ms a waiting write completes without the module's acknowledgement. (R245) Operands: `a` = line, `b` = m. -/
  | sharerPresumedUnreachable
  /-- REMOTE_UNREACHABLE: 200 µs without a path: remote lanes go to the side log or raise UNREACH. (R218) Operands: `a` = core, `b` = target. -/
  | remoteUnreachable
  /-- PATH_RESTORED: A path returns and zero-or-one entries and partials are replayed. (R218) Operands: `a` = m, `b` = home. -/
  | pathRestored
  /-- RUN_ACTIVATE: A posted chunk-graph run takes its staging and activates. (R308) Operands: `a` = run. -/
  | runActivate
  /-- CHUNK_COMPLETE: A chunk's writes complete, then it increments its counter and successors. (R308) Operands: `a` = run, `b` = chunk. -/
  | chunkComplete
  /-- CHUNK_SKIP: A chunk unreachable for 200 µs is skipped with its successors. (R308) Operands: `a` = run, `b` = chunk. -/
  | chunkSkip
  /-- PARENT_ARRIVAL: A completed barrier phase's arrival reaches the parent barrier. (R316) Operands: `a` = n. -/
  | parentArrival
  /-- WATCHDOG_FIRE: The queue watchdog count reaches WDT and a record is published. (R265) Operands: `a` = m, `b` = node. -/
  | watchdogFire
  /-- EMIT_SPACE_FREED: A waiting emit or hardware record takes freed queue slots. (R264) Operands: `a` = m, `b` = node. -/
  | emitSpaceFreed
  /-- PCIE_REQUEST: An endpoint request is translated and performed by a root port. (R349) Operands: `a` = m, `b` = port, `pcie` = r. -/
  | pcieRequest
  /-- COMPLETION_TIMEOUT: A held endpoint request times out and completes as Completer Abort. (R349) Operands: `a` = m, `b` = n. -/
  | completionTimeout
  /-- GET_VERSION: SPDM GET_VERSION request. (R348) Operands: `a` = m. -/
  | getVersion
  /-- GET_CAPABILITIES: SPDM GET_CAPABILITIES request. (R348) Operands: `a` = m. -/
  | getCapabilities
  /-- NEGOTIATE_ALGORITHMS: SPDM NEGOTIATE_ALGORITHMS request. (R348) Operands: `a` = m. -/
  | negotiateAlgorithms
  /-- GET_DIGESTS: SPDM GET_DIGESTS request. (R348) Operands: `a` = m. -/
  | getDigests
  /-- GET_CERTIFICATE: SPDM GET_CERTIFICATE request. (R348) Operands: `a` = m. -/
  | getCertificate
  /-- CHALLENGE: SPDM CHALLENGE request. (R348) Operands: `a` = m. -/
  | challenge
  /-- GET_MEASUREMENTS: SPDM GET_MEASUREMENTS returns signed measurements. (R348) Operands: `a` = m, `b` = index. -/
  | getMeasurements
  /-- UNSUPPORTED_REQUEST: Any other SPDM request returns ERROR UnsupportedRequest. (R348) Operands: `a` = m. -/
  | unsupportedRequest
  /-- DAWN: Power-up boot checks, measures, trains and configures the module. (R347) Operands: `a` = m, `dawn` = d. -/
  | dawn
  /-- COOLANT_BREACH: Coolant leaves its limits and issue stops on every core. (R353) Operands: `a` = m. -/
  | coolantBreach
  /-- COOLANT_RESTORED: Coolant returns within its limits and issue resumes. (R353) Operands: `a` = m. -/
  | coolantRestored
  /-- CORRECTED_ERROR: A corrected error is counted in CECC. (R336) Operands: `a` = m. -/
  | correctedError
  /-- UNCORRECTABLE_ERROR: An uncorrectable data error poisons its line and is counted. (R336) Operands: `a` = m, `site` = w. -/
  | uncorrectableError
  /-- CORE_RETIRE: A core with an uncorrectable control error is retired. (R340) Operands: `a` = core. -/
  | coreRetire
  /-- CLUSTER_RETIRE: A cluster whose matrix engine errs is retired. (R340) Operands: `a` = cluster. -/
  | clusterRetire
  /-- REPLACE_ADVISORY: A module's advisory arriving over the fabric sets its RADVF bit. (R323) Operands: `a` = m, `b` = source. -/
  | replaceAdvisory
  /-- ILLEGAL_ENCODING: An encoding that is not a legal instruction is fetched and raises ILLINS precisely at its address. (R95) Operands: `v` = w. -/
  | illegalEncoding
  /-- FETCH_FAULT: A fetch of an instruction or mask-word halfword faults and raises FETCH at the instruction's first halfword. (R75) Operands: `v` = va. -/
  | fetchFault
  deriving DecidableEq, Repr

end Sys2Proof
end

