-- ==== Sys2Proof/Machine/State.lean ====
section
/-!
DEFINITION. The state of the whole fabric as plain data, and its value after reset. Every record says which rules of
the manual name its fields. Numbers that name a unit are Nat: a core is its global core number (R12), a module 0 to
15, a line a global line number (`module * 2^33 + PA / 128`), a byte of global memory a global address
(`module * 2^40 + PA`).
-/
namespace Sys2Proof.Machine

/-! ## Outcomes that stop -/

/-- Why the machine stops with a fault. Each is raised only in states that no step of the machine reaches from
reset; stopping there is safe, because no claim about the hardware rests on such a state. -/
inductive Fault where
  /-- A group instruction is executed and `cur` names no resident group or split (every group instruction). Safe. -/
  | noIssuer
  deriving DecidableEq, Repr

/-- Why an instruction has no meaning. -/
inductive Refusal where
  /-- No meaning has been written yet; the arm of exec names the mnemonic. Safe. -/
  | notModelled (mnemonic : String)
  deriving DecidableEq, Repr

/-! ## Traps -/

/-- The trap kinds of Table Faults 1, with their `KIND` codes in `Machine.TrapKind.code` (R329). -/
inductive TrapKind where
  | fetch | illins | illmask | illopnd | priv | latchlost | pcalign | perm | attr | bounds | align | page | poison
  | sketch | peer | queue | matrix | sync | unreach | trap | regpsn | retire
  deriving DecidableEq, Repr

/-- A trap about to be taken: what TCAUSE and TADDR will hold (R331), and the pass a remote instruction has reached, from
which `rfe retry` resumes it (R216). -/
structure TrapInfo where
  kind : TrapKind
  code : Nat := 0
  lane : Option Nat := none
  addr : Nat := 0
  write : Bool := false
  peer : Nat := 0
  zo : Bool := false
  fetch : Bool := false
  pass : Nat := 0
  deriving DecidableEq, Repr

/-! ## Translation -/

/-- Who translates: the module it stands on, its context and privilege level (R187). -/
structure Ctx where
  m : Nat
  vf : Nat
  ctx : Nat
  l0 : Nat
  pl : Nat
  deriving DecidableEq, Repr

/-! ## Groups -/

/-- An address register: pointer, base, limit and permission byte (R126). -/
structure AReg where
  ptr : VAddr
  base : VAddr
  limit : VAddr
  perm : BitVec 8
  deriving DecidableEq, Repr

/-- A block of eight lane registers: register `8b + i` of lane L is element `i * W + L` (R120). -/
inductive Block where
  | unallocated
  | resident (vals : List Word)
  | spilled (vals : List Word)
  deriving DecidableEq, Repr

/-- One position of the bypass window (R80, R127, R128): the value of each lane, or none when the producer wrote no
lane register; the producer's `D` and `N`; whether the latch is lost; the access that will deliver the value; and, for
lanes the producer did not write, the earlier accesses still under way that write `D` there, each with its lanes. -/
structure Latch where
  vals : Option (List Word)
  d : Nat
  n : Bool
  lost : Bool
  txn : Option Nat
  owed : List (Nat × Mask) := []
  deriving DecidableEq, Repr

/-- A lane of a remote instruction as it stood at issue: its address, its peer register, its data (R153, R216). -/
structure RemLane where
  lane : Nat
  ea : Nat
  peer : Nat
  data : DWord
  extra : DWord
  deriving DecidableEq, Repr

/-- A running split: running slot, program counter, lane mask (R28); whether it runs the trap handler, or is held
before its instruction until `rfe` (R165), with its place among those held (R275); the clock of its last issue (R31);
the model's own note that its instruction waits; the pass a remote instruction resumes from, the lanes it issued with,
the access of the pass under way and the replies of the passes before it (R153, R216), or the descriptor a joint `mwl` goes on
with (R287); the sync word it waits on, and
whether that word was killed meanwhile (R315); the node whose queue its `emit` waits for and the order in which it came
there (R265), the records as they stood at issue, and the status register it will write (R264); whether its instruction holds the whole group until a home has
replied (R168, R314, R345). -/
structure Split where
  slot : Nat
  pc : VAddr
  mask : Mask
  handler : Bool
  held : Bool
  issuedAt : Nat
  stalled : Bool
  resume : Nat := 0
  passTxn : Option Nat := none
  got : List (Nat × DWord) := []
  waitOn : Option Nat := none
  killed : Bool := false
  emitAt : Option (Nat × Nat) := none
  rem : Option (List RemLane) := none
  emitRecs : Option (List (List Byte)) := none
  emitTo : Option Nat := none
  heldAt : Nat := 0
  holds : Bool := false
  deriving DecidableEq, Repr

/-- A parked split with the clock it was parked at and the clock of its last issue (R29, R31), and how far an instruction
of it has come (R216, R264). -/
structure Parked where
  pc : VAddr
  mask : Mask
  handler : Bool
  held : Bool
  since : Nat
  issuedAt : Nat := 0
  resume : Nat := 0
  passTxn : Option Nat := none
  got : List (Nat × DWord) := []
  waitOn : Option Nat := none
  killed : Bool := false
  emitAt : Option (Nat × Nat) := none
  rem : Option (List RemLane) := none
  emitRecs : Option (List (List Byte)) := none
  emitTo : Option Nat := none
  heldAt : Nat := 0
  holds : Bool := false
  deriving DecidableEq, Repr

/-- The architected context of a group that its instructions read and write (R120 to R132), with its splits. -/
structure Arch where
  blocks : List Block
  sregs : List DWord
  aregs : List AReg
  window : List Latch
  gang : DWord
  fpcr : BitVec 32
  srseed : DWord
  msc : DWord
  splits : List Split
  parked : List Parked
  helpers : Mask
  retired : Mask
  deriving DecidableEq, Repr

/-- Trap registers and handler mode of a group (R165, R331), and the pass from which `rfe retry` resumes a remote
instruction (R216). -/
structure TrapState where
  handler : Bool
  savedWindow : List Latch
  tcause : DWord
  tpc : DWord
  taddr : DWord
  tinsn : DWord
  tmask : DWord
  pass : Nat
  deriving DecidableEq, Repr

/-- What a value-returning access will write when its data is back (R200, R206, R216). -/
inductive Dest where
  /-- lane registers from v`d` on, `regs` of them -/
  | lanes (d regs : Nat)
  /-- a scalar register -/
  | scalar (d : Nat)
  deriving DecidableEq, Repr

/-- An access that returns a value and has not yet written it: the lanes it writes with the doubleword so far
returned (R200), the requests still out, and, per register of the destination, the lanes a later instruction has
written since, whose values then stand (R129). -/
structure Txn where
  id : Nat
  split : Mask
  dest : Dest
  noWrite : Bool
  lanes : List (Nat × DWord)
  out : Nat
  dead : List (Nat × Mask)
  acquire : Option Nat
  deriving DecidableEq, Repr

/-- A line read in Twilight: its lease class, the version and epoch it was served with, and its page's dedup domain and
policy (R177, R225, R252). -/
structure TwiLine where
  line : Nat
  cls : Nat
  ver : BitVec 16
  epo : BitVec 8
  domain : Option Nat
  pol : BitVec 2
  deriving DecidableEq, Repr

/-- Unconfirmed work of a group under Twilight (R224 to R226): the context as it stood before the load, with the accesses
then under way; the access of the load; the lines whose renewal is not answered; the number of younger instructions. -/
structure Twilight where
  saved : Arch
  txns : List Txn
  own : Nat
  lines : List TwiLine
  younger : Nat
  deriving DecidableEq, Repr

/-- An operation of the matrix engine as its descriptor gives it (R291, R292). -/
inductive MOp where
  | load (desc : DWord)
  /-- with the stream format and scale and the weight descriptor in force when it issued -/
  | pass (desc msc wd : DWord)
  | drain (desc : DWord)
  | release
  deriving DecidableEq, Repr

/-- An operation posted to an entry: the posting group with its member index and team, the team its descriptor names,
the number that tells it from every other operation, and the core, first line and generation a drain lands in (R174). -/
structure MTask where
  core : Nat
  slot : Nat
  mem : Nat
  team : Nat
  named : Nat
  id : Nat
  op : MOp
  dst : Option (Nat × Nat × BitVec 16) := none
  /-- local lines it may read as they were before a lane store (R248, R295) -/
  old : List (Nat × LineData) := []
  deriving DecidableEq, Repr

/-- A C element stored to while an operation owns it (R295): its key; its value before; the value stored, where memory no
longer holds it; the first operation number not given out at the store. -/
structure Touch where
  key : Nat
  before : Nat
  stored : Option Nat
  born : Nat
  deriving DecidableEq, Repr

/-- An entry of a cluster's reservation table (Table Matrix 5), with the operations posted to it, in order. -/
structure MEntry where
  st : BitVec 2
  pseq : BitVec 16
  wlt : Bool
  wait : Nat
  age : Nat
  pri : Nat
  rel : BitVec 6
  arr : BitVec 6
  hold : BitVec 7
  wd : DWord
  gang : DWord
  team : Nat
  posted : List MTask
  joint : Option Nat
  /-- members the rendezvous has released that have not yet gone on -/
  go : BitVec 6
  /-- the descriptor of the last weight load performed (R286, R292) -/
  lwd : DWord
  /-- C elements stored to while an operation owns them (R295) -/
  touched : List Touch
  exited : Bool
  /-- the descriptor `MEM0` brought to the rendezvous of a joint `mwl` (R287) -/
  mwd : DWord := 0
  /-- members whose share a forced stop has released (R50) -/
  away : BitVec 6 := 0
  /-- key of the first byte of the W window of that weight load, from which the tile is reloaded (R286) -/
  lkey : Nat := 0
  deriving DecidableEq, Repr

/-- A posted operation of a group, with its status once complete and whether `mwait` has reported it (R293, R294). -/
structure MPost where
  seq : Nat
  id : Nat
  op : MOp
  status : Option (BitVec 16)
  reported : Bool
  deriving DecidableEq, Repr

/-- A batch of copies: its number and the copies still in flight (R269). -/
structure Batch where
  seq : Nat
  copies : List Nat
  deriving DecidableEq, Repr

/-- A run of a chunk graph posted by the group, with its status when complete (R307). -/
structure CRunRef where
  seq : Nat
  id : Nat
  status : Option DWord
  reported : Bool
  deriving DecidableEq, Repr

/-- Pre-emption of a group (R48 to R51): running, asked to stop since a clock, parked at a safe point or by force, or
stopped for good by a `dusk` or a retirement (R168, R340). -/
inductive Preempt where
  | running
  | asked (since : Nat)
  | parked (byForce : Bool)
  | stopped
  deriving DecidableEq, Repr

/-- A resident group. `team` is the identifier of its team; the launch identity stands in the team. -/
structure Group where
  core : Nat
  slot : Nat
  team : Nat
  num : Nat
  width : Nat
  arch : Arch
  trap : TrapState
  txns : List Txn
  twi : Option Twilight
  /-- issue: age, clocks waited, clock of the last issue, running slot issued last (R45) -/
  age : Nat
  waited : Nat
  issuedAt : Option Nat
  lastSlot : Nat
  placedAt : Nat
  /-- `trig` has executed: the first identifier not yet given out then (R38, R320) -/
  triggered : Option Nat
  /-- the mask of lanes that have executed `exit` at least once (R25) -/
  exitedOnce : Mask
  /-- the group has faulted and waits for its accesses to complete (R332) -/
  faulted : Bool
  preempt : Preempt
  /-- pages that hold the group's instruction, and a page resolved unmappable (R198, R334) -/
  heldPages : List Nat
  failedPages : List Nat
  /-- pages a `PFRES` said are mapped, whose held access has still to be made, by the split in this running slot -/
  retried : List Nat
  faultSplit : Nat
  /-- copies (R269) -/
  pending : List Nat
  bseq : Nat
  batches : List Batch
  /-- matrix engine (R276) -/
  mseq : Nat
  mposts : List MPost
  mentry : Option Nat
  /-- the reservation a forced stop released, to be posted again before the group issues (R50, R296) -/
  savedRes : Option MEntry
  /-- local lines stored to since the last `mrdy`, each as it was before the store (R248) -/
  unready : List (Nat × LineData) := []
  /-- chunk graphs (R307) -/
  cseq : Nat
  cruns : List CRunRef
  /-- blocks and areas that failed error correction (R336) -/
  badBlocks : List Nat
  badArea : Bool
  badSave : Bool
  /-- the group resumed from a save slot that failed error correction -/
  badResume : Bool := false
  /-- the held access of `faultSplit` was its fetch (R334) -/
  faultFetch : Bool := false
  /-- none of its splits was ready as the clock began (R122); the model's own note -/
  idle : Bool := false
  /-- the mask word of a safe point whose instruction was a load in Twilight: the group parks when the reply is there (R226) -/
  parkMask : Option (BitVec 32) := none
  /-- the capped scope of its trigger, and the lines whose partials then held updates of the group (R237, R320) -/
  trigScope : Nat := 4
  trigParts : List Nat := []
  deriving DecidableEq, Repr

/-! ## Teams and activations -/

/-- An entry of a team's region table (R297), its image words and its state fields. -/
structure Region where
  w0 : DWord
  w1 : DWord
  w2 : DWord
  st : BitVec 2
  sealed : Bool
  rcnt : Nat
  ssq : BitVec 16
  deriving DecidableEq, Repr

/-- A team barrier of the team's list: the word, the member mask and the arrived mask over groups (R317). -/
structure TeamBar where
  word : Nat
  va : VAddr
  members : BitVec 32
  arrived : BitVec 32
  deriving DecidableEq, Repr

/-- A placed team with the identity its groups read (R125, R126) and its local-store allocation (R171, R174). -/
structure Team where
  uid : Nat
  m : Nat
  core : Nat
  node : Nat
  act : Nat
  band : Nat
  num : Nat
  lanes : Nat
  width : Nat
  bands : Nat
  rbase : VAddr
  rcnt : Nat
  pl : Nat
  vf : Nat
  ctx : Nat
  l0 : Nat
  part : Nat
  prio : Nat
  hva : VAddr
  seed : DWord
  lsOff : Nat
  wGran : Nat
  aGran : Nat
  cGran : Nat
  sGran : Nat
  gen : BitVec 16
  regions : List Region
  bars : List TeamBar
  groups : Nat
  exited : BitVec 32
  trigDone : Bool
  exitDone : Bool
  deriving DecidableEq, Repr

/-- One activation of a node from ready to complete (R36 to R43). -/
structure Activation where
  m : Nat
  node : Nat
  act : Nat
  prio : Nat
  part : Nat
  first : Nat
  count : Nat
  bands : Nat
  nextBand : Nat
  teams : Nat
  lanes : Nat
  readyAt : Nat
  passed : Option Nat
  reachedAt : Option Nat
  reserving : Bool
  teamsLeft : Nat
  trigLeft : Nat
  triggered : Bool
  completed : Bool
  abandoned : Bool
  faulted : Bool
  deriving DecidableEq, Repr

/-! ## Queues -/

/-- A hardware record that waits for a slot of a full supervisor queue (R265, R333). -/
structure WaitRec where
  m : Nat
  fromNode : Nat
  bytes : List Byte
  deriving DecidableEq, Repr

/-- The input queue of a node: header fields (Table Queues 1, 2), done marks, and the coalescer's and watchdog's
counts (R258 to R268). `header` is the global line of the header once known. -/
structure Queue where
  m : Nat
  node : Nat
  header : Option Nat
  logCap : Nat
  recSize : Nat
  pub : Nat
  rsv : Nat
  tkn : Nat
  fre : Nat
  pdn : DWord
  done : List Nat
  en : Bool
  frozen : Bool
  perr : Bool
  wdg : Bool
  wlost : Bool
  wcnt : Nat
  wdt : Nat
  sup : Nat
  wcount : Nat
  pubTicks : List (Nat × Nat)
  enableTick : Nat
  completed : List (Nat × Nat)
  waiting : List WaitRec
  nextAct : Nat
  /-- the clock of the latest `qctl` that changed `EN`, and `EN` before it: the queue's other events of that clock come
  first (R263); the model's own note -/
  was : Option (Nat × Bool)
  /-- the clock in which `FRE` last advanced, and `FRE` before it: reservations of that clock come first (R263); the model's own
  note -/
  freWas : Option (Nat × Nat) := none
  deriving DecidableEq, Repr

/-! ## Memory system -/

/-- The state of a local-store line (R173). A line not listed is empty. -/
inductive LineState where
  | pending
  | full
  deriving DecidableEq, Repr

/-- What an L1 holds of a line (R201, R234, R301). -/
inductive L1Kind where
  /-- the line for exclusive use; the mask of dirty bytes -/
  | owned (dirty : BitVec 128)
  /-- a tracked shared copy -/
  | tracked
  /-- a copy under a lease of class `cls` that ends at tick `expiry`, renewed in Twilight or not; version and epoch as
  served -/
  | leased (cls expiry : Nat) (renew : Bool) (ver : BitVec 16) (epo : BitVec 8) (data : LineData)
  /-- a privatised copy: the bytes it may write -/
  | priv (mask : BitVec 128)
  /-- a commutative partial: operation code of `COP`, (byte offset, value) of each element, the group slots whose updates it
  holds (R237), and the dedup domain and policy of its page (R177, R252) -/
  | part (cop : Nat) (vals : List (Nat × DWord)) (slots : List Nat) (page : Option Nat × BitVec 2)
  deriving DecidableEq, Repr

/-- A line in a core's L1; `vf` is the virtual function that holds it. -/
structure L1Line where
  core : Nat
  line : Nat
  vf : Nat
  kind : L1Kind
  deriving DecidableEq, Repr

/-- A directory entry (Table Directory 1, Table Tables 3). `st`: 0 I, 1 S, 2 O, 3 B, 4 P, 5 C. -/
structure DirEntry where
  line : Nat
  st : BitVec 3
  wtag : BitVec 64
  req : BitVec 12
  crs : Bool
  ack : BitVec 12
  mv : BitVec 16
  shr : BitVec 64
  dlv : Bool
  lts : BitVec 64
  mix : BitVec 12
  cop : BitVec 4
  epo : BitVec 8
  ver : BitVec 16
  masks : List (BitVec 128)
  /-- the clock at which the round's invalidations, or a recall, were sent (R245); the model's own note -/
  sent : Nat
  /-- till this clock the agent a round was made for comes before requests of groups (R256); the model's own note -/
  turn : Nat := 0
  deriving DecidableEq, Repr

/-- An L2 tag (R176): line, slice set and way, owner, dedup domain, dirty and zero bits, data entry. -/
structure Tag where
  line : Nat
  set : Nat
  way : Nat
  vf : Nat
  domain : Option Nat
  dirty : Bool
  z : Bool
  data : Option (Nat × Nat)
  used : Nat
  deriving DecidableEq, Repr

/-- An L2 data entry of a slice (R176): set and way, content, hash, domain, count, poison, allocating VF. -/
structure DataEntry where
  slice : Nat
  set : Nat
  way : Nat
  data : LineData
  hash : DWord
  domain : Option Nat
  count : Nat
  vf : Nat
  poisoned : Bool
  used : Nat
  deriving DecidableEq, Repr

/-- The update an access performs at its location (R200, R205, R210, R215). -/
inductive AccFn where
  | read
  | write
  /-- atomic function 0 to 15 of Table Memory Instructions 4 -/
  | atomic (fn : Nat)
  /-- plain insert of a store to a sketch region, or `skins` -/
  | skIns
  | skDel
  | skQry
  /-- the increment of a remote `cinc` (R315); the value returned is 1 where the word is a live counter -/
  | cinc
  deriving DecidableEq, Repr

/-- One lane's part of an access: global byte address, size in bytes, the first byte of the lane's value it carries,
data D+1:D (and D+2), and the virtual address of its first byte, which a loss record names (R333, R338). -/
structure LaneAcc where
  lane : Nat
  ga : Nat
  size : Nat
  off : Nat
  data : DWord
  extra : DWord
  va : Nat
  deriving DecidableEq, Repr

/-- How a request is served at the home: the column of Table Tables 4 it takes. -/
inductive ReqKind where
  | tracked
  | lease (cls : Nat)
  | own (store : Bool)
  | homeWrite (wis : Bool)
  | commut
  deriving DecidableEq, Repr

/-- Who issued a request. -/
inductive Agent where
  | group (core slot : Nat)
  | sideLog (core : Nat)
  deriving DecidableEq, Repr

/-- A request of an instruction for one line, in flight to its home or waiting there (R253, R254, R256). -/
structure Req where
  id : Nat
  agent : Agent
  core : Nat
  vf : Nat
  line : Nat
  kind : ReqKind
  fn : AccFn
  accs : List LaneAcc
  txn : Option Nat
  sc : Bool
  pol : BitVec 2
  domain : Option Nat
  pagePol : BitVec 2
  inRound : Bool
  /-- its place among the requests that have come to the home and wait there, once it has (R256); the model's own note -/
  arrived : Option Nat := none
  deriving DecidableEq, Repr

/-- A coherence message in flight (R254, R255). The target of an invalidation is a core, or 4096 + n for the fabric
unit of module n. -/
inductive Msg where
  | inval (target line : Nat)
  | ack (source line : Nat)
  | notice (core line : Nat)
  deriving DecidableEq, Repr

/-- The tag of a live sync word (R310). -/
inductive SyncTag where
  | counter
  | barrier
  deriving DecidableEq, Repr

/-- An arrival on its way to a parent barrier: its virtual address and the translation context of the group whose
arrival sent it (R316). -/
structure ParentArr where
  va : VAddr
  m : Nat
  vf : Nat
  ctx : Nat
  l0 : Nat
  pl : Nat
  depth : Nat
  deriving DecidableEq, Repr

/-- A lane of a side-log entry: virtual address and 16 bytes of data (R272). -/
structure LogLane where
  lane : Nat
  va : VAddr
  data : BitVec 128
  deriving DecidableEq, Repr

/-- A side-log entry of a core (Table Queues 6). `size` and `fn` are what `ins` decodes to. -/
structure LogEntry where
  core : Nat
  seq : Nat
  ins : BitVec 32
  peer : Nat
  page : Nat
  osc : Nat
  ctx : Nat
  l0 : Nat
  vf : Nat
  pl : Nat
  slot : Nat
  loss : Bool
  zo : Bool
  st : BitVec 2
  remote : Bool
  epo : BitVec 16
  fn : AccFn
  size : Nat
  /-- sequence number of the packet the entry retired from (R218) -/
  pseq : Option Nat
  /-- global address of the entry's lane payload -/
  pay : Nat
  /-- the first identifier not given out when the access issued (R320); the model's own note -/
  born : Nat
  lanes : List LogLane
  deriving DecidableEq, Repr

/-- An outstanding page-fault pair of a module: virtual function, context, page (R334). -/
structure Pair where
  m : Nat
  vf : Nat
  ctx : Nat
  page : Nat
  deriving DecidableEq, Repr

/-- A copy in flight (R230, R269, R299): the touching group, its entry, the destination teams with the local line their
region begins at, and per destination core the lines that have landed. -/
structure Copy where
  id : Nat
  core : Nat
  slot : Nat
  team : Nat
  entry : Nat
  vf : Nat
  ctx : Nat
  l0 : Nat
  pl : Nat
  dests : List (Nat × Nat × BitVec 16)
  bases : List (Nat × Nat)
  landed : List (Nat × Nat)
  lines : Nat
  poisonedSrc : Bool
  reading : Bool
  /-- source pages it is held on, pages resolved unmappable, pages a `PFRES` said are mapped (R271, R334) -/
  held : List Nat
  failed : List Nat
  retried : List Nat
  data : List (Nat × LineData × Bool)
  /-- the entry's image and the node of the touching group, as they stood when the copy started -/
  reg : Region
  node : Nat
  deriving DecidableEq, Repr

/-! ## Engines -/

/-- The tile in a weight latch, expanded and row major (R276, R279), with the positions whose bytes were poisoned. -/
structure Tile where
  k : Nat
  n : Nat
  fmt : Nat
  codes : List Nat
  scales : List Nat
  mx : Bool
  mde : Bool
  trn : Bool
  bad : List Nat
  deriving DecidableEq, Repr

/-- The matrix engine of a cluster (module * 64 + die * 16 + cluster): latch, loader, table, posting counter and the
operations in progress (R276, R284). -/
structure Engine where
  cluster : Nat
  tile : Option Tile
  lown : Option Nat
  entries : List MEntry
  nextPseq : BitVec 16
  running : Option (Nat × List MTask)
  deriving DecidableEq, Repr

/-- A chunk of a chunk graph, its 32 bytes (Table Tables 8). -/
abbrev Chunk := BitVec 256

/-- A loaded graph (R306): its die (module * 4 + die), slot, virtual function and chunks. -/
structure Graph where
  die : Nat
  slot : Nat
  vf : Nat
  chunks : List Chunk
  deriving DecidableEq, Repr

/-- The progress of one chunk of a run. -/
inductive ChunkState where
  | waiting (preds : Nat)
  | started
  | held (page : Nat)
  | done
  | skipped
  deriving DecidableEq, Repr

/-- A posted run (R307, R308). -/
structure CRun where
  id : Nat
  die : Nat
  slot : Nat
  core : Nat
  gslot : Nat
  seq : Nat
  vf : Nat
  ctx : Nat
  l0 : Nat
  pl : Nat
  node : Nat
  ordinal : Nat
  bases : List DWord
  active : Bool
  states : List ChunkState
  poison : Bool
  skipped : Bool
  lost : Bool
  /-- pages resolved unmappable, and pages a `PFRES` said are mapped, each for the chunk it held (R308, R334) -/
  failed : List (Nat × Nat)
  retried : List (Nat × Nat)
  deriving DecidableEq, Repr

/-! ## The fabric -/

/-- A packet of a stream (R243, R274): sequence number, epoch, the access it carries, the tag origin of its page. -/
structure Packet where
  seq : Nat
  epo : BitVec 16
  slot : Nat
  txn : Option Nat
  fn : AccFn
  accs : List LaneAcc
  ins : BitVec 32
  vf : Nat
  domain : Option Nat
  pagePol : BitVec 2
  /-- the first identifier not given out when the access issued (R320); the model's own note -/
  born : Nat
  /-- the lanes as the side log would hold them (R218, R272) -/
  lanes : List LogLane
  deriving DecidableEq, Repr

/-- A core's send stream to a module: next number, epoch, packets the first hop has not acknowledged custody of, and
packets sent and not yet known to be performed (R244, R274). -/
structure Stream where
  core : Nat
  target : Nat
  nseq : Nat
  epo : BitVec 16
  buffer : List Packet
  flight : List Packet
  deriving DecidableEq, Repr

/-- A module's receive window for a source core (R274). -/
structure Window where
  target : Nat
  core : Nat
  dseq : Nat
  epo : BitVec 16
  reorder : List Packet
  deriving DecidableEq, Repr

/-- One Orgor port (Table Host 4). -/
structure Port where
  st : BitVec 3
  det : Bool
  fail : Nat
  peer : Nat
  pport : Nat
  deriving DecidableEq, Repr

/-- A pair of modules with no path between them since a clock (R245), and whether the 200 µs rule has been applied. -/
structure NoPath where
  m : Nat
  h : Nat
  since : Nat
  applied : Bool
  deriving DecidableEq, Repr

/-! ## Modules and cores -/

/-- The registers of a virtual function on a module (Table Registers 6, Table Tables 5, Table Host 5) and its dedup
counts (Table Memories 4). -/
structure Vf where
  num : Nat
  leases : List (BitVec 24)
  lmode : BitVec 2
  twmask : BitVec 24
  dwmask : BitVec 16
  parts : BitVec 16
  cap : BitVec 3
  en : Bool
  salt : DWord
  skdb : DWord
  scap : Bool
  vsel : BitVec 5
  counts : List Nat
  deriving DecidableEq, Repr

/-- A partition of a module (R122, R170, R272). -/
structure Partition where
  num : Nat
  clusters : List Nat
  l1KiB : Nat
  rKiB : Nat
  spill : Nat
  sideLog : Nat
  /-- a `dusk` has emptied it and no team has been placed since: firmware may change its sizes (R170) -/
  dusked : Bool := false
  deriving DecidableEq, Repr

/-- An endpoint request held by a page fault, or waiting at a home (R349). -/
structure HeldPcie where
  id : Nat
  port : Nat
  slot : Nat
  page : Nat
  req : PcieReq
  /-- not held on a page: it waits only for lines to become free (R245, R256) -/
  ready : Bool := false
  deriving DecidableEq, Repr

/-- The response of the SPDM responder that was sent last (R348). -/
inductive SpdmReply where
  | none
  | version
  | capabilities
  | algorithms
  | digests (d : BitVec 256)
  | certificate (c : BitVec 256)
  | challengeAuth (sig : BitVec 256)
  | measurements (value sig : BitVec 256)
  | unsupported
  deriving DecidableEq, Repr

/-- The completion of an endpoint request that was sent last (R349). -/
inductive PcieReply where
  | none
  | unsupportedRequest
  | completerAbort
  | success (data : List Byte)
  deriving DecidableEq, Repr

/-- The registers and tables of one module. -/
structure Mod where
  num : Nat
  step : BitVec 8
  cause : BitVec 4
  done : Bool
  cool : Bool
  vfs : List Vf
  parts : List Partition
  nodeBase : Nat
  syncwr : Nat
  syncerr : Nat
  cecc : Nat
  uecc : Nat
  uepa : DWord
  counts : List Nat
  advLast : BitVec 12
  advKind : BitVec 8
  nret : Nat
  adv : Bool
  rcores : BitVec 256
  rclu : BitVec 64
  rport : BitVec 16
  radvf : BitVec 16
  preReq : BitVec 32
  /-- `PRESTAT` (R337) -/
  preStat : BitVec 32
  pwrcap : Nat
  ports : List Port
  slots : List DWord
  psup : List (BitVec 10)
  meas : List (BitVec 256)
  spdm : SpdmReply
  pcie : PcieReply
  heldPcie : List HeldPcie
  /-- the fabric's clocks and lease ticks at the module's Dawn, from which s56 and s57 count (R125, R321); the model's own
  note -/
  cyc0 : Nat
  ltick0 : Nat
  deriving DecidableEq, Repr

/-- The registers of one core (R169, R174, R321, R322). A core not listed holds `Core.reset`. -/
structure Core where
  gcn : Nat
  gen : BitVec 16
  sealSeq : BitVec 16
  lamport : DWord
  gendrop : Nat
  walker : BitVec 512
  logSeq : Nat
  deriving DecidableEq, Repr

/-! ## The whole -/

/-- The instruction being issued: the group, its split's running slot, the word, its length with the mask word, and
the address after it (R91, R94). The model's own field. -/
structure Cur where
  core : Nat
  slot : Nat
  split : Nat
  pc : VAddr
  next : VAddr
  word : BitVec 32
  deriving DecidableEq, Repr

/-- The part of a lane's access that lies in one bank row: lane, key, bytes, first byte of the lane's value, data. -/
structure RowPart where
  lane : Nat
  key : Nat
  size : Nat
  off : Nat
  v : Nat
  deriving DecidableEq, Repr

/-- A later step of a group's access to local store that crosses a bank row (R189, R227): the access under way of a load, none
of a store; its parts, in lane order; the line a store has then written in full. -/
structure RowRest where
  core : Nat
  slot : Nat
  txn : Option Nat
  parts : List RowPart
  heal : Option Nat
  /-- the identifier not yet given out when the access issued; the model's own note -/
  born : Nat
  deriving DecidableEq, Repr

/-- One turn of the machine: an event, an issue of a given split, a tick of the arithmetic clock, an access of an
application core under its context (R18, R187), the next step of a group's access across a bank row (R227), a read of a
module's identity over I3C (R18), or firmware's choice of the L1 and R-region sizes of a partition that stands empty (R170).
The model's own type (log 2). -/
inductive Turn where
  | event (i : Instr) (x : EvArgs)
  | issue (core slot split : Nat)
  | tick
  | hostStore (c : Ctx) (va : Nat) (bytes : List Byte)
  | hostLoad (c : Ctx) (va size : Nat)
  | bankRow (core slot : Nat)
  | identity (m : Nat)
  | partSizes (m part l1KiB rKiB : Nat)
  deriving DecidableEq, Repr

/-- A `dusk` that has reached its partition: module, partition, issuing group and program counter, whether its turn has come,
and what it has counted (R168). -/
structure Drain where
  m : Nat
  part : Nat
  core : Nat
  slot : Nat
  pc : VAddr
  on : Bool
  rpt : Nat
  grp : Nat
  deriving DecidableEq, Repr

/-- The state of the machine. -/
structure State where
  modules : List Mod
  cores : List Core
  groups : List Group
  teams : List Team
  acts : List Activation
  queues : List Queue
  /-- global memory: the latest performed value of each byte; an unlisted byte is 0 (log 1, R347) -/
  mem : List Host.Cell
  /-- local stores, keyed by `core * 2^21 + local address`; an unlisted byte is 0 -/
  lmem : List Host.Cell
  /-- state of local-store lines, keyed by `core * 2^14 + line`; an unlisted line is empty -/
  lines : List (Nat × LineState)
  /-- poisoned global lines, and poisoned local-store lines (R336) -/
  poison : List Nat
  lpoison : List Nat
  /-- live sync words by global address / 8 (R310) -/
  sync : List (Nat × SyncTag)
  parents : List ParentArr
  l1 : List L1Line
  dir : List DirEntry
  tags : List Tag
  datas : List DataEntry
  reqs : List Req
  msgs : List Msg
  log : List LogEntry
  pairs : List Pair
  copies : List Copy
  engines : List Engine
  graphs : List Graph
  runs : List CRun
  streams : List Stream
  windows : List Window
  nopath : List NoPath
  drains : List Drain
  /-- signals a full edge holds back, as (module, node, edge), oldest first (R37) -/
  owed : List (Nat × Nat × Nat)
  /-- steps that accesses across a bank row have still to take (R227) -/
  rests : List RowRest
  /-- arithmetic clocks and lease-clock ticks since Dawn (R125, R321) -/
  cyc : Nat
  ltick : Nat
  /-- value the last application-core read or reservation returned, and whether its last access met a page fault (R18,
  R186) -/
  hostReply : DWord
  hostFault : Bool
  cur : Option Cur
  /-- the operands of the event that happens (the model's own field) -/
  ev : EvArgs
  agenda : List Turn
  freeCount : Nat
  nextId : Nat
  deriving DecidableEq, Repr

/-! ## Reset -/

/-- A virtual function's registers after Dawn (Tables Tables 5, Host 5, Registers 7). -/
def Vf.reset (v : Nat) : Vf where
  num := v
  leases := [0, 4, 16, 64, 256, 1024, 4096, 16384]
  lmode := 1
  twmask := 0xFFFFFF
  dwmask := 0xFFFF
  parts := 0
  cap := 5
  en := false
  salt := 0
  skdb := 0
  scap := false
  vsel := BitVec.ofNat 5 v
  counts := [0, 0, 0, 0, 0, 0, 0]

/-- A core's registers after Dawn (R321, R322); no walk is configured (log 8). -/
def Core.reset (gcn : Nat) : Core where
  gcn := gcn
  gen := 0
  sealSeq := 0
  lamport := 0
  gendrop := 0
  walker := 0
  logSeq := 0

/-- The one partition the model starts with: all 64 clusters of the module (log 11). -/
def Partition.reset : Partition where
  num := 0
  clusters := List.range 64
  l1KiB := Config.l1KiB
  rKiB := Config.rKiB
  spill := Config.spillBase
  sideLog := Config.logBase

/-- A module's registers at reset: Dawn has not run, so `DSTAT` is 0 and every register stands at its reset value
(Tables Counters 5, Host 1, Host 3, Host 4; R322, R347, R349). -/
def Mod.reset (n : Nat) : Mod where
  num := n
  step := 0
  cause := 0
  done := false
  cool := true
  vfs := []
  parts := [Partition.reset]
  nodeBase := Config.nodeBase
  syncwr := 0
  syncerr := 0
  cecc := 0
  uecc := 0
  uepa := 0
  counts := [0, 0, 0, 0, 0, 0, 0]
  advLast := 0
  advKind := 0
  nret := 0
  adv := false
  rcores := 0
  rclu := 0
  rport := 0
  radvf := 0
  preReq := 0
  preStat := 0
  pwrcap := 1600
  ports := List.replicate 16 ⟨0, false, 0, 0, 0⟩
  slots := List.replicate 64 0
  psup := List.replicate 4 0
  meas := List.replicate 6 0
  spdm := .none
  pcie := .none
  heldPcie := []
  cyc0 := 0
  ltick0 := 0

/-- The machine right after reset: every register at its reset value, memory with nothing listed, no group resident,
no queue known, and Dawn of each module still to run (R347; log 13). -/
def State.reset : State where
  modules := (List.range Config.fabricSize).map Mod.reset
  cores := []
  groups := []
  teams := []
  acts := []
  queues := []
  mem := []
  lmem := []
  lines := []
  poison := []
  lpoison := []
  sync := []
  parents := []
  l1 := []
  dir := []
  tags := []
  datas := []
  reqs := []
  msgs := []
  log := []
  pairs := []
  copies := []
  engines := []
  graphs := []
  runs := []
  streams := []
  windows := []
  nopath := []
  drains := []
  owed := []
  rests := []
  cyc := 0
  ltick := 0
  hostReply := 0
  hostFault := false
  cur := none
  ev := {}
  agenda := (List.range Config.fabricSize).map fun m =>
    .event .dawn { a := m, dawn := some { failure := none, digests := List.replicate 6 0 } }
  freeCount := 0
  nextId := 0

end Sys2Proof.Machine
end

