-- ==== Sys2Proof/Machine/Bits.lean ====
section
/-!
DEFINITION. Bit fields, bytes, and the sparse tables and memories every later file works on. A memory is a list of
(address, byte) in canonical form: addresses strictly rising, no byte equal to 0, which is what an unlisted address
reads as (Dawn zeroes every local store and every DRAM layer, R347).
-/
namespace Sys2Proof.Machine

/-! ## Memories -/

/-- The byte at an address; 0 where nothing is listed. -/
def memRead : List Host.Cell → Nat → Byte
  | [], _ => 0
  | (k, v) :: rest, a => if a < k then 0 else if a = k then v else memRead rest a

/-- Write one byte; writing 0 removes the entry. -/
def memWrite : List Host.Cell → Nat → Byte → List Host.Cell
  | [], a, b => if b = 0 then [] else [(a, b)]
  | (k, v) :: rest, a, b =>
    if a < k then (if b = 0 then (k, v) :: rest else (a, b) :: (k, v) :: rest)
    else if a = k then (if b = 0 then rest else (a, b) :: rest)
    else (k, v) :: memWrite rest a b

/-- Every listed address is above `lo` and strictly rising, and no listed byte is 0. -/
def memWfFrom : Nat → List Host.Cell → Bool
  | _, [] => true
  | lo, (k, v) :: rest => decide (lo ≤ k) && (v != 0) && memWfFrom (k + 1) rest

/-- The canonical form of a memory. -/
def Memory.wf (m : List Host.Cell) : Bool := memWfFrom 0 m

/-- `n` bytes from an address, little-endian (R2). -/
def memReadLE (m : List Host.Cell) (a : Nat) : Nat → Nat
  | 0 => 0
  | n + 1 => (memRead m a).toNat + 256 * memReadLE m (a + 1) n

/-- Write the low `n` bytes of a number, little-endian (R2). -/
def memWriteLE (m : List Host.Cell) (a : Nat) : Nat → Nat → List Host.Cell
  | 0, _ => m
  | n + 1, v => memWriteLE (memWrite m a (BitVec.ofNat 8 v)) (a + 1) n (v / 256)

/-- Write a list of bytes from an address on. -/
def memWriteBytes (m : List Host.Cell) : Nat → List Byte → List Host.Cell
  | _, [] => m
  | a, b :: bs => memWriteBytes (memWrite m a b) (a + 1) bs

/-- `n` bytes from an address, as a list. -/
def memReadBytes (m : List Host.Cell) (a : Nat) : Nat → List Byte
  | 0 => []
  | n + 1 => memRead m a :: memReadBytes m (a + 1) n

/-- The 128 bytes of a line (R15). -/
def memLine (m : List Host.Cell) (line : Nat) : LineData := BitVec.ofNat 1024 (memReadLE m (128 * line) 128)

/-- 128 free bytes, from the n-th open word on (log 4). -/
def freeLine (n : Nat) : LineData :=
  Config.freeWord (n + 3) ++ (Config.freeWord (n + 2) ++ (Config.freeWord (n + 1) ++ Config.freeWord n : BitVec 512) : BitVec 768)

/-- Bytes of a little-endian number. -/
def leBytes : Nat → Nat → List Byte
  | 0, _ => []
  | n + 1, v => BitVec.ofNat 8 v :: leBytes n (v / 256)

/-- The number a list of bytes spells, least significant first. -/
def ofBytes : List Byte → Nat
  | [] => 0
  | b :: bs => b.toNat + 256 * ofBytes bs

/-! ## Lists as tables -/

/-- Replace the elements that satisfy `p` by `f` of them. -/
def mapWhere {α : Type} (p : α → Bool) (f : α → α) (l : List α) : List α :=
  l.map fun x => if p x then f x else x

/-- Replace the first element that satisfies `p`, or append `x`. -/
def upsert {α : Type} (p : α → Bool) (x : α) : List α → List α
  | [] => [x]
  | y :: ys => if p y then x :: ys else y :: upsert p x ys

/-- The element at an index, or a default. -/
def nth {α : Type} (l : List α) (i : Nat) (d : α) : α := l.getD i d

/-- A list as one of `n` elements, `d` where it has none. -/
def padTo {α : Type} (n : Nat) (d : α) (l : List α) : List α := (l ++ List.replicate n d).take n

/-- A list of `n` elements with element `i` replaced. -/
def setNth {α : Type} (n i : Nat) (v d : α) (l : List α) : List α := (padTo n d l).set i v

/-- Look up a key. -/
def lookupNat {α : Type} (k : Nat) : List (Nat × α) → Option α
  | [] => none
  | (j, v) :: rest => if j = k then some v else lookupNat k rest

/-- Remove a key. -/
def eraseNat {α : Type} (k : Nat) (l : List (Nat × α)) : List (Nat × α) := l.filter fun p => p.1 ≠ k

/-- Set a key. -/
def insertNat {α : Type} (k : Nat) (v : α) (l : List (Nat × α)) : List (Nat × α) := (k, v) :: eraseNat k l

/-! ## Bits -/

/-- Bits [lo + len − 1 : lo] of a number. -/
def bitsOf (v lo len : Nat) : Nat := (v >>> lo) % 2 ^ len

/-- The lanes of a mask below `w`, ascending. -/
def lanesOf (m : Mask) (w : Nat) : List Nat := (List.range w).filter fun l => m.getLsbD l

/-- The mask of a list of lanes. -/
def maskOf : List Nat → Mask
  | [] => 0
  | l :: ls => (1#64 <<< l) ||| maskOf ls

/-- The number of 1 bits among the low `n`. -/
def popCount (v : Nat) : Nat → Nat
  | 0 => 0
  | n + 1 => v % 2 + popCount (v / 2) n

/-- The position of the highest 1 bit plus one, 0 for 0, looking at the low `n` bits. -/
def bitLength (v : Nat) : Nat := if v = 0 then 0 else Nat.log2 v + 1

/-- Round up a division. -/
def ceilDiv (a b : Nat) : Nat := (a + b - 1) / b

/-- A signed number of `w` bits. -/
def signed (w v : Nat) : Int := (BitVec.ofNat w v).toInt

/-- Fmix64, the 64-bit finaliser (R114). -/
def fmix64 (k : DWord) : DWord :=
  let k := k ^^^ (k >>> 33)
  let k := k * 0xFF51AFD7ED558CCD#64
  let k := k ^^^ (k >>> 33)
  let k := k * 0xC4CEB9FE1A85EC53#64
  k ^^^ (k >>> 33)

end Sys2Proof.Machine
end

