-- ==== Sys2Proof/Machine/Fp.lean ====
section
/-!
DEFINITION. Number formats and exact arithmetic (05_number_formats_and_arithmetic.md): every operation decodes its
operands to exact values, computes exactly, and rounds once.
-/
namespace Sys2Proof.Machine

/-! ## Flags -/

/-- A set of the sticky flags of Table Arithmetic 7: bit b is flag b (R108). -/
abbrev Flags := BitVec 7

namespace Flag
def nv : Flags := 1
def dz : Flags := 2
def overflow : Flags := 4
def uf : Flags := 8
def nx : Flags := 16
def sat : Flags := 32
def trn : Flags := 64
end Flag

/-! ## Rounding modes and formats -/

/-- The rounding modes of Table Arithmetic 6 (R107). -/
inductive Rnd where
  | rne | rz | ru | rd
  deriving DecidableEq, Repr

/-- The mode a `RND` field holds. -/
def Rnd.ofBits (b : BitVec 2) : Rnd :=
  if b = 0 then .rne else if b = 1 then .rz else if b = 2 then .ru else .rd

/-- A float format of Table Arithmetic 3: exponent and mantissa widths and bias; has it infinities and NaNs; `e4m3`
has one NaN per sign and no infinity (R100). -/
structure Fmt where
  ebits : Nat
  mbits : Nat
  bias : Int
  hasInf : Bool
  hasNan : Bool
  deriving DecidableEq, Repr

namespace Fmt
def f32 : Fmt := ⟨8, 23, 127, true, true⟩
def bf16 : Fmt := ⟨8, 7, 127, true, true⟩
def f16 : Fmt := ⟨5, 10, 15, true, true⟩
def e4m3 : Fmt := ⟨4, 3, 7, false, true⟩
def e5m2 : Fmt := ⟨5, 2, 15, true, true⟩
def e3m2 : Fmt := ⟨3, 2, 3, false, false⟩
def e2m3 : Fmt := ⟨2, 3, 1, false, false⟩
def e2m1 : Fmt := ⟨2, 1, 1, false, false⟩
/-- IEEE 754 binary64, used by the distinct estimate only (R192). -/
def f64 : Fmt := ⟨11, 52, 1023, true, true⟩

/-- The sign bit's position. -/
def signBit (f : Fmt) : Nat := f.ebits + f.mbits
/-- The exponent of the unit of the smallest binade: a subnormal is a multiple of 2^unit. -/
def unit (f : Fmt) : Int := 1 - f.bias - f.mbits
/-- The largest exponent field that holds finite values. -/
def topField (f : Fmt) : Nat := if f.hasInf then 2 ^ f.ebits - 2 else 2 ^ f.ebits - 1
/-- The mantissa field of the largest finite value. -/
def topMant (f : Fmt) : Nat := if f.hasNan && !f.hasInf then 2 ^ f.mbits - 2 else 2 ^ f.mbits - 1
/-- The significand and exponent of the largest finite value. -/
def maxSig (f : Fmt) : Nat := 2 ^ f.mbits + f.topMant
def maxExp (f : Fmt) : Int := (f.topField : Int) - f.bias - f.mbits
/-- The bits of the largest finite magnitude. -/
def maxBits (f : Fmt) : Nat := f.topField * 2 ^ f.mbits + f.topMant
/-- The bits of +∞ where there is one. -/
def infBits (f : Fmt) : Nat := (2 ^ f.ebits - 1) * 2 ^ f.mbits
/-- The canonical NaN of Table Arithmetic 4 (R102). -/
def nanBits (f : Fmt) : Nat :=
  if f.hasInf then f.infBits + 2 ^ (f.mbits - 1) else 2 ^ (f.ebits + f.mbits) - 1
end Fmt

/-! ## Exact values -/

/-- What a float's bits mean: a NaN, signalling or not; an infinity; or (−1)^neg × m × 2^e. -/
inductive FVal where
  | nan (signalling : Bool)
  | inf (neg : Bool)
  | fin (neg : Bool) (m : Nat) (e : Int)
  deriving DecidableEq, Repr

namespace FVal

/-- A zero of either sign. -/
def zero (neg : Bool) : FVal := .fin neg 0 0

def isNan : FVal → Bool
  | .nan _ => true
  | _ => false

def isZero : FVal → Bool
  | .fin _ m _ => m == 0
  | _ => false

/-- Is the value a signalling NaN (R102)? -/
def isSnan : FVal → Bool
  | .nan b => b
  | _ => false

/-- The sign: true when negative. -/
def neg : FVal → Bool
  | .nan _ => false
  | .inf n => n
  | .fin n _ _ => n

/-- The flags reading these operands raises: `NV` for a signalling NaN (R102). -/
def snanFlag (v : FVal) : Flags := if v.isSnan then Flag.nv else 0

end FVal

/-- The value the low bits of `b` hold in format `f` (R100, R102). -/
def decodeF (f : Fmt) (b : Nat) : FVal :=
  let s := b.testBit f.signBit
  let e := bitsOf b f.mbits f.ebits
  let m := bitsOf b 0 f.mbits
  if f.hasInf && e == 2 ^ f.ebits - 1 then
    if m = 0 then .inf s else .nan ((f.mbits > 2) && !(m.testBit (f.mbits - 1)))
  else if !f.hasInf && f.hasNan && e == 2 ^ f.ebits - 1 && m == 2 ^ f.mbits - 1 then .nan false
  else if e = 0 then .fin s m f.unit
  else .fin s (2 ^ f.mbits + m) ((e : Int) - f.bias - f.mbits)

/-- An exact nonzero magnitude `m × 2^e`, or something strictly between `m` and `m + 1` units when `sticky`. -/
structure Mag where
  m : Nat
  e : Int
  sticky : Bool
  deriving DecidableEq, Repr

/-- Does a magnitude whose lower part is `rem` of `2^k` (with a sticky bit below) round away from zero? -/
def roundsUp (mode : Rnd) (neg odd : Bool) (rem k : Nat) (sticky : Bool) : Bool :=
  let half := 2 ^ (k - 1)
  let inexact := decide (rem ≠ 0) || sticky
  match mode with
  | .rne => if k = 0 then false
            else decide (rem > half) || (decide (rem = half) && (sticky || odd))
  | .rz => false
  | .ru => inexact && !neg
  | .rd => inexact && neg

/-- Round a magnitude to `p` significant bits with no unit below 2^unit: the integer and exponent delivered, and
whether it is inexact (R107). The exponent range above is unbounded. -/
def roundMag (p : Nat) (unit : Int) (mode : Rnd) (neg : Bool) (x : Mag) : Nat × Int × Bool :=
  let top : Int := x.e + (bitLength x.m : Int) - p
  let t := if top < unit then unit else top
  if t ≤ x.e then
    let m := x.m * 2 ^ (x.e - t).toNat
    (if x.sticky && (match mode with | .ru => !neg | .rd => neg | _ => false) then m + 1 else m, t, x.sticky)
  else
    let k := (t - x.e).toNat
    let q := x.m / 2 ^ k
    let rem := x.m % 2 ^ k
    let up := roundsUp mode neg (q % 2 == 1) rem k x.sticky
    (if up then q + 1 else q, t, decide (rem ≠ 0) || x.sticky)

/-- Compare `m1 × 2^e1` with `m2 × 2^e2`: is the first larger? -/
def magGt (m1 : Nat) (e1 : Int) (m2 : Nat) (e2 : Int) : Bool :=
  let lo := if e1 < e2 then e1 else e2
  decide (m1 * 2 ^ (e1 - lo).toNat > m2 * 2 ^ (e2 - lo).toNat)

/-- The bits of a representable magnitude `m × 2^e` in `f`. -/
def encodeMag (f : Fmt) (m : Nat) (e : Int) : Nat :=
  if m = 0 then 0 else
    let len := bitLength m
    -- normalise so that the significand has mbits + 1 bits, or the unit is the smallest
    let t0 : Int := e + (len : Int) - 1 - f.mbits
    let t := if t0 < f.unit then f.unit else t0
    let q := if t ≤ e then m * 2 ^ (e - t).toNat else m / 2 ^ (t - e).toNat
    if q < 2 ^ f.mbits then q
    else (((t + f.mbits + f.bias).toNat) * 2 ^ f.mbits) + (q - 2 ^ f.mbits)

/-- A sign and a magnitude's bits. -/
def withSign (f : Fmt) (neg : Bool) (bits : Nat) : Nat := if neg then 2 ^ f.signBit + bits else bits

/-- What overflow delivers (Table Arithmetic 8, R110). -/
def overflowBits (f : Fmt) (mode : Rnd) (sat neg : Bool) : Nat :=
  let toInf := match mode with
    | .rne => true | .rz => false | .ru => !neg | .rd => neg
  if sat then withSign f neg f.maxBits
  else if f.hasInf then withSign f neg (if toInf then f.infBits else f.maxBits)
  else if f.hasNan then (if toInf then f.nanBits else withSign f neg f.maxBits)
  else withSign f neg f.maxBits

/-- Is a magnitude below the smallest normal of `f`? -/
def belowNormal (f : Fmt) (m : Nat) (e : Int) : Bool := magGt (2 ^ f.mbits) f.unit m e

/-- Is a magnitude tiny after rounding, the exponent range unbounded (R107, R108; log 28)? -/
def isTiny (f : Fmt) (mode : Rnd) (neg : Bool) (x : Mag) : Bool :=
  let r := roundMag (f.mbits + 1) (x.e + (bitLength x.m : Int) - (f.mbits + 1)) mode neg x
  belowNormal f r.1 r.2.1

/-- Deliver a nonzero magnitude already rounded to the grid of `f`, and tiny or not: bits and flags (R108, R110). -/
def deliver (f : Fmt) (mode : Rnd) (sat neg : Bool) (m : Nat) (e : Int) (inexact tiny : Bool) : Nat × Flags :=
  if magGt m e f.maxSig f.maxExp then (overflowBits f mode sat neg, Flag.overflow ||| Flag.nx)
  else
    (withSign f neg (encodeMag f m e),
      if inexact then (if tiny && m ≠ 0 then Flag.uf ||| Flag.nx else Flag.nx) else 0)

/-- Round an exact magnitude to format `f` (R107, R108, R110). -/
def roundTo (f : Fmt) (mode : Rnd) (sat neg : Bool) (x : Mag) : Nat × Flags :=
  if x.m = 0 && !x.sticky then (withSign f neg 0, 0)
  else
    let (m, e, inexact) := roundMag (f.mbits + 1) f.unit mode neg x
    deliver f mode sat neg m e inexact (isTiny f mode neg x)

/-- Round(v, f, mode) of Table Scope 3 for lane arithmetic: the `cvt` column (R110). -/
def roundVal (f : Fmt) (mode : Rnd) (v : FVal) : Nat × Flags :=
  match v with
  | .nan _ => (f.nanBits, 0)
  | .inf n => (withSign f n f.infBits, 0)
  | .fin n m e => roundTo f mode false n ⟨m, e, false⟩

/-! ## Exact sums and products -/

/-- The exact sum of two finite values; an exact zero sum of opposite terms is +0, or −0 under RD (R140). -/
def addFin (mode : Rnd) (n1 : Bool) (m1 : Nat) (e1 : Int) (n2 : Bool) (m2 : Nat) (e2 : Int) : FVal :=
  let lo := if e1 < e2 then e1 else e2
  let a : Int := (m1 * 2 ^ (e1 - lo).toNat : Nat)
  let b : Int := (m2 * 2 ^ (e2 - lo).toNat : Nat)
  let s := (if n1 then -a else a) + (if n2 then -b else b)
  if s = 0 then
    if m1 = 0 ∧ m2 = 0 ∧ n1 = n2 then FVal.zero n1
    else FVal.zero (mode == .rd)
  else .fin (decide (s < 0)) s.natAbs lo

/-- The exact sum, with `NV` for ∞ − ∞ and for a signalling operand (R102, R108). -/
def addVal (mode : Rnd) (a b : FVal) : FVal × Flags :=
  let fl := a.snanFlag ||| b.snanFlag
  match a, b with
  | .nan _, _ => (.nan false, fl)
  | _, .nan _ => (.nan false, fl)
  | .inf n1, .inf n2 => if n1 = n2 then (.inf n1, fl) else (.nan false, fl ||| Flag.nv)
  | .inf n, _ => (.inf n, fl)
  | _, .inf n => (.inf n, fl)
  | .fin n1 m1 e1, .fin n2 m2 e2 => (addFin mode n1 m1 e1 n2 m2 e2, fl)

/-- The exact product, with `NV` for 0 × ∞ and for a signalling operand (R102, R108). -/
def mulVal (a b : FVal) : FVal × Flags :=
  let fl := a.snanFlag ||| b.snanFlag
  match a, b with
  | .nan _, _ => (.nan false, fl)
  | _, .nan _ => (.nan false, fl)
  | .inf n1, .inf n2 => (.inf (n1 != n2), fl)
  | .inf n1, .fin n2 m _ => if m = 0 then (.nan false, fl ||| Flag.nv) else (.inf (n1 != n2), fl)
  | .fin n1 m _, .inf n2 => if m = 0 then (.nan false, fl ||| Flag.nv) else (.inf (n1 != n2), fl)
  | .fin n1 m1 e1, .fin n2 m2 e2 => (.fin (n1 != n2) (m1 * m2) (e1 + e2), fl)

/-- The negated value. -/
def negVal : FVal → FVal
  | .nan b => .nan b
  | .inf n => .inf (!n)
  | .fin n m e => .fin (!n) m e

/-- The exact value of a·b + c; `NV` when a·b is 0 × ∞ whatever c holds (R140). -/
def fmaVal (mode : Rnd) (a b c : FVal) : FVal × Flags :=
  let (p, f1) := mulVal a b
  let (r, f2) := addVal mode p c
  (r, f1 ||| f2 ||| c.snanFlag)

/-- Order of two values that are not NaN: is `a < b`, with −0 equal to +0 (R138)? -/
def ltVal (a b : FVal) : Bool :=
  match a, b with
  | .nan _, _ => false
  | _, .nan _ => false
  | .inf n1, .inf n2 => n1 && !n2
  | .inf n, _ => n
  | _, .inf n => !n
  | .fin n1 m1 e1, .fin n2 m2 e2 =>
    if m1 = 0 ∧ m2 = 0 then false
    else if n1 != n2 then
      (if m1 = 0 then !n2 else if m2 = 0 then n1 else n1)
    else if n1 then magGt m1 e1 m2 e2 else magGt m2 e2 m1 e1

/-- Equality of two values that are not NaN, with −0 equal to +0 (R138). -/
def eqVal (a b : FVal) : Bool := !a.isNan && !b.isNan && !ltVal a b && !ltVal b a

/-! ## FP32 lane arithmetic -/

/-- How a lane FP32 operation rounds and flushes: the fields `RND` and `FZ` of FPCR (R107, R109). -/
structure FpEnv where
  rnd : Rnd
  fz : Bool
  deriving DecidableEq, Repr

/-- An FP32 operand as a lane FP32 operation reads it: a subnormal is a zero of its sign under `FZ` (R109). -/
def readF32 (env : FpEnv) (w : Word) : FVal :=
  match decodeF Fmt.f32 w.toNat with
  | .fin n m e => if env.fz && decide (m < 2 ^ 23) then FVal.zero n else .fin n m e
  | v => v

/-- An FP32 result as a lane FP32 operation writes it: under `FZ` a subnormal becomes a zero of its sign with `UF`
and `NX` (R109). -/
def writeF32 (env : FpEnv) (r : Nat × Flags) : Word × Flags :=
  let mag := r.1 % 2 ^ 31
  if env.fz && decide (0 < mag) && decide (mag < 2 ^ 23) then
    (BitVec.ofNat 32 (r.1 - mag), r.2 ||| Flag.uf ||| Flag.nx)
  else (BitVec.ofNat 32 r.1, r.2)

/-- Round an exact value to FP32 and write it. -/
def finishF32 (env : FpEnv) (v : FVal × Flags) : Word × Flags :=
  let (w, f) := writeF32 env (roundVal Fmt.f32 env.rnd v.1)
  (w, v.2 ||| f)

def f32Add (env : FpEnv) (a b : Word) : Word × Flags :=
  finishF32 env (addVal env.rnd (readF32 env a) (readF32 env b))

def f32Sub (env : FpEnv) (a b : Word) : Word × Flags :=
  finishF32 env (addVal env.rnd (readF32 env a) (negVal (readF32 env b)))

def f32Mul (env : FpEnv) (a b : Word) : Word × Flags :=
  finishF32 env (mulVal (readF32 env a) (readF32 env b))

def f32Fma (env : FpEnv) (a b d : Word) : Word × Flags :=
  finishF32 env (fmaVal env.rnd (readF32 env a) (readF32 env b) (readF32 env d))

/-- The smaller (`max` false) or larger of two FP32 values by R103: −0 below +0, the number beside a NaN, the canonical
NaN of two. -/
def pickVal (max : Bool) (a b : FVal) : FVal :=
  match a, b with
  | .nan _, .nan _ => .nan false
  | .nan _, _ => b
  | _, .nan _ => a
  | _, _ =>
    let less := ltVal a b || (a.isZero && b.isZero && a.neg && !b.neg)
    if less then (if max then b else a) else (if max then a else b)

/-- R103 on FP32 operands read under `env`. -/
def f32Pick (max : Bool) (env : FpEnv) (a b : Word) : Word × Flags :=
  let x := readF32 env a
  let y := readF32 env b
  let (w, _) := roundVal Fmt.f32 .rne (pickVal max x y)
  (BitVec.ofNat 32 w, x.snanFlag ||| y.snanFlag)

/-- A float compare: `NV` for a signalling NaN only (Table Lane 1, Table Lane 5). -/
def f32Cmp (p : FVal → FVal → Bool) (env : FpEnv) (a b : Word) : Word × Flags :=
  let x := readF32 env a
  let y := readF32 env b
  (boolWord (p x y), x.snanFlag ||| y.snanFlag)

/-! ## BF16 pairs -/

/-- One BF16 half through an exact operation, rounded under a mode; `FZ` does not apply (R141). -/
def bfHalf (rnd : Rnd) (v : FVal × Flags) : BitVec 16 × Flags :=
  let (b, f) := roundVal Fmt.bf16 rnd v.1
  (BitVec.ofNat 16 b, v.2 ||| f)

/-- Half `h` of a word as a BF16 value. -/
def bfRead (w : Word) (h : Nat) : FVal := decodeF Fmt.bf16 (w.extractLsb' (16 * h) 16).toNat

/-- Both halves of a pair form; their flags are joined (R141). -/
def bfPair (rnd : Rnd) (op : Nat → FVal × Flags) : Word × Flags :=
  let (lo, f0) := bfHalf rnd (op 0)
  let (hi, f1) := bfHalf rnd (op 1)
  (hi ++ lo, f0 ||| f1)

def bfAdd2 (rnd : Rnd) (a b : Word) : Word × Flags := bfPair rnd fun h => addVal rnd (bfRead a h) (bfRead b h)
def bfMul2 (rnd : Rnd) (a b : Word) : Word × Flags := bfPair rnd fun h => mulVal (bfRead a h) (bfRead b h)
def bfFma2 (rnd : Rnd) (a b d : Word) : Word × Flags :=
  bfPair rnd fun h => fmaVal rnd (bfRead a h) (bfRead b h) (bfRead d h)

/-- FP32 arithmetic performed at a home, or by the fabric unit: RNE, subnormals kept (R107, R109). -/
def homeEnv : FpEnv := ⟨.rne, false⟩

/-! ## An integer as a float -/

/-- The exact value of an integer. -/
def ofIntVal (i : Int) : FVal := .fin (decide (i < 0)) i.natAbs 0

/-- An immediate converted exactly to FP32 (Table Formats 5). -/
def immF32 (k : Int) : Word := BitVec.ofNat 32 (roundVal Fmt.f32 .rne (ofIntVal k)).1

/-- An immediate converted exactly to BF16 and placed in both halves (Table Formats 5). -/
def immBf16 (k : Int) : Word :=
  let h := BitVec.ofNat 16 (roundVal Fmt.bf16 .rne (ofIntVal k)).1
  h ++ h

end Sys2Proof.Machine
end

