-- ==== Sys2Proof/Machine/Transc.lean ====
section
/-!
DEFINITION. Roots, reciprocals and the transcendental lane functions (R143), and the binary64 arithmetic of the distinct
estimate (R192). A root or quotient is computed to more bits than any rounding needs, with a sticky bit for what is
left. exp2, log2, sin and cos are computed in fixed point to 320 fraction bits, with a sticky bit, because their exact
values are never ties (R143): log 14.
-/
namespace Sys2Proof.Machine

/-- Bit by bit square root: the largest r with r² ≤ v, trying bits `n` down to 0. -/
def isqrtFrom (v : Nat) : Nat → Nat → Nat
  | 0, r => if (r + 1) * (r + 1) ≤ v then r + 1 else r
  | n + 1, r => isqrtFrom v n (if (r + 2 ^ (n + 1)) * (r + 2 ^ (n + 1)) ≤ v then r + 2 ^ (n + 1) else r)

/-- The integer square root. -/
def isqrt (v : Nat) : Nat := isqrtFrom v (bitLength v / 2 + 1) 0

/-- √(m × 2^e) as a magnitude with at least 60 significant bits. -/
def sqrtMag (m : Nat) (e : Int) : Mag :=
  let (m1, e1) := if e % 2 = 0 then (m, e) else (2 * m, e - 1)
  let v := m1 * 2 ^ 160
  let r := isqrt v
  ⟨r, e1 / 2 - 80, decide (r * r ≠ v)⟩

/-- 1 / (m × 2^e) as a magnitude with at least 60 significant bits. -/
def recipMag (m : Nat) (e : Int) : Mag :=
  let k := bitLength m + 80
  ⟨2 ^ k / m, -e - k, decide (2 ^ k % m ≠ 0)⟩

/-- a / b for two positive magnitudes. -/
def divMag (m1 : Nat) (e1 : Int) (m2 : Nat) (e2 : Int) : Mag :=
  let k := bitLength m2 + 160
  ⟨m1 * 2 ^ k / m2, e1 - e2 - k, decide (m1 * 2 ^ k % m2 ≠ 0)⟩

/-- 1 / √(m × 2^e) as a magnitude with at least 60 significant bits. -/
def rsqrtMag (m : Nat) (e : Int) : Mag :=
  let (m1, e1) := if e % 2 = 0 then (m, e) else (2 * m, e - 1)
  let k := 2 * (bitLength m1 + 80)
  let v := 2 ^ k / m1
  let r := isqrt v
  ⟨r, -(e1 / 2) - (k / 2 : Nat), decide (r * r * m1 ≠ 2 ^ k)⟩

/-! ## Fixed point with 320 fraction bits -/

/-- Fraction bits of the fixed-point numbers below. -/
def fixBits : Nat := 320
/-- 1 in fixed point. -/
def fixOne : Nat := 2 ^ 320
/-- π/2 with 704 fraction bits. -/
def halfPi704 : Nat := 0x1921fb54442d18469898cc51701b839a252049c1114cf98e804177d4c76273644a29410f31c6809bbdf2a33679a748636605614dbe4be286e9fc26adadaa3848bc90b6aecc4bcfd8de89885d34c6fdad617feb96de80d6fdb

/-- Taylor sum of e^x from the term index `i`: `t` is the current term. -/
def expSum (x : Nat) : Nat → Nat → Nat → Nat → Nat
  | 0, _, _, s => s
  | fuel + 1, i, t, s =>
    let t' := t * x / fixOne / i
    expSum x fuel (i + 1) t' (s + t')

/-- Sum of z^(2i+1) / (2i+1) from odd index `i` on: `t` is the current power. -/
def atanhSum (z2 : Nat) : Nat → Nat → Nat → Nat → Nat
  | 0, _, _, s => s
  | fuel + 1, i, t, s =>
    let t' := t * z2 / fixOne
    atanhSum z2 fuel (i + 2) t' (s + t' / (i + 2))

/-- ln(y) in fixed point for y = num / den between 1 and 2: twice the inverse hyperbolic tangent of (y−1)/(y+1). -/
def lnFix (num den : Nat) : Nat :=
  let z := (num - den) * fixOne / (num + den)
  2 * atanhSum (z * z / fixOne) 110 1 z z

/-- ln 2 in fixed point. -/
def ln2Fix : Nat := lnFix 2 1

/-- Alternating Taylor sum of sine or cosine: positive and negative parts apart. -/
def trigSum (x2 : Nat) : Nat → Nat → Nat → Bool → Nat → Nat → Nat × Nat
  | 0, _, _, _, p, n => (p, n)
  | fuel + 1, i, t, minus, p, n =>
    let t' := t * x2 / fixOne / (i * (i + 1))
    if minus then trigSum x2 fuel (i + 2) t' false p (n + t')
    else trigSum x2 fuel (i + 2) t' true (p + t') n

/-- sin of a fixed-point angle in [0, π/2]. -/
def sinFix (x : Nat) : Nat :=
  let (p, n) := trigSum (x * x / fixOne) 45 2 x true x 0
  p - n

/-- cos of a fixed-point angle in [0, π/2]. -/
def cosFix (x : Nat) : Nat :=
  let (p, n) := trigSum (x * x / fixOne) 45 1 fixOne true fixOne 0
  p - n

/-- 2^x for x = (−1)^neg × m × 2^e with |x| < 2^10: a magnitude, exact when x is an integer. -/
def exp2Mag (neg : Bool) (m : Nat) (e : Int) : Mag :=
  let fx : Int := if 0 ≤ e + 320 then ((m * 2 ^ (e + 320).toNat : Nat) : Int) else ((m / 2 ^ (-(e + 320)).toNat : Nat) : Int)
  let fx := if neg then -fx else fx
  let k := fx / (fixOne : Int)
  let frac := (fx - k * fixOne).toNat
  if frac = 0 then ⟨1, k, false⟩
  else ⟨expSum (frac * ln2Fix / fixOne) 90 1 fixOne fixOne, k - 320, true⟩

/-- log2 of m × 2^e, m > 0: sign and magnitude, exact when the value is a power of two. -/
def log2Mag (m : Nat) (e : Int) : Bool × Mag :=
  let k : Int := e + (bitLength m : Int) - 1
  let den := 2 ^ (bitLength m - 1)
  if m = den then (decide (k < 0), ⟨k.natAbs, 0, false⟩)
  else
    let f := lnFix m den * fixOne / ln2Fix
    let v : Int := k * fixOne + f
    (decide (v < 0), ⟨v.natAbs, -320, true⟩)

/-- Quadrant (mod 4) and remainder in [0, π/2) of m × 2^e radians, the remainder in fixed point (R143). -/
def reduceAngle (m : Nat) (e : Int) : Nat × Nat :=
  let x := if 0 ≤ e + 320 then m * 2 ^ (e + 320).toNat else m / 2 ^ (-(e + 320)).toNat
  -- x × 2^384 against π/2 × 2^704
  let q := x * 2 ^ 384 / halfPi704
  let r := (x * 2 ^ 384 % halfPi704) / 2 ^ 384
  (q % 4, r)

/-! ## Lane functions -/

/-- Round to FP32 under `mode` and write under `FZ`. -/
def finishMag (env : FpEnv) (mode : Rnd) (neg : Bool) (x : Mag) (fl : Flags) : Word × Flags :=
  let (w, f) := writeF32 env (roundTo Fmt.f32 mode false neg x)
  (w, fl ||| f)

/-- A NaN operand: the canonical NaN, `NV` if signalling (R143). -/
def nanResult (v : FVal) : Word × Flags := (0x7FC00000#32, v.snanFlag)

def infWord (neg : Bool) : Word := if neg then 0xFF800000#32 else 0x7F800000#32
def zeroWord (neg : Bool) : Word := if neg then 0x80000000#32 else 0#32

/-- `fneg`, `fabs`: the sign changes and nothing else; a NaN becomes canonical (Table Lane 3, R143). -/
def f32Neg (env : FpEnv) (a : Word) : Word × Flags :=
  match readF32 env a with
  | .nan b => nanResult (.nan b)
  | v => finishF32 env (negVal v, 0)
def f32Abs (env : FpEnv) (a : Word) : Word × Flags :=
  match readF32 env a with
  | .nan b => nanResult (.nan b)
  | .inf _ => (infWord false, 0)
  | .fin _ m e => finishF32 env (.fin false m e, 0)

def f32Sqrt (env : FpEnv) (a : Word) : Word × Flags :=
  match readF32 env a with
  | .nan b => nanResult (.nan b)
  | .inf n => if n then (0x7FC00000#32, Flag.nv) else (infWord false, 0)
  | .fin n m e => if m = 0 then (zeroWord n, 0) else if n then (0x7FC00000#32, Flag.nv)
                  else finishMag env env.rnd false (sqrtMag (m * 2 ^ 40) (e - 40)) 0

def f32Rsqrt (env : FpEnv) (a : Word) : Word × Flags :=
  match readF32 env a with
  | .nan b => nanResult (.nan b)
  | .inf n => if n then (0x7FC00000#32, Flag.nv) else (zeroWord false, 0)
  | .fin n m e => if m = 0 then (infWord n, Flag.dz) else if n then (0x7FC00000#32, Flag.nv)
                  else finishMag env .rne false (rsqrtMag m e) 0

def f32Recip (env : FpEnv) (a : Word) : Word × Flags :=
  match readF32 env a with
  | .nan b => nanResult (.nan b)
  | .inf n => (zeroWord n, 0)
  | .fin n m e => if m = 0 then (infWord n, Flag.dz) else finishMag env env.rnd n (recipMag m e) 0

def f32Exp2 (env : FpEnv) (a : Word) : Word × Flags :=
  match readF32 env a with
  | .nan b => nanResult (.nan b)
  | .inf n => (if n then zeroWord false else infWord false, 0)
  | .fin n m e =>
    if m = 0 then (0x3F800000#32, 0)
    else if 10 < e + bitLength m then
      (if n then finishMag env .rne false ⟨1, -2000, true⟩ 0 else (infWord false, Flag.overflow ||| Flag.nx))
    else finishMag env .rne false (exp2Mag n m e) 0

def f32Log2 (env : FpEnv) (a : Word) : Word × Flags :=
  match readF32 env a with
  | .nan b => nanResult (.nan b)
  | .inf n => if n then (0x7FC00000#32, Flag.nv) else (infWord false, 0)
  | .fin n m e =>
    if m = 0 then (infWord true, Flag.dz) else if n then (0x7FC00000#32, Flag.nv)
    else
      let (s, x) := log2Mag m e
      if x.m = 0 then (0#32, 0) else finishMag env .rne s x 0

def f32Sin (env : FpEnv) (a : Word) : Word × Flags :=
  match readF32 env a with
  | .nan b => nanResult (.nan b)
  | .inf _ => (0x7FC00000#32, Flag.nv)
  | .fin n m e =>
    if m = 0 then (zeroWord n, 0)
    else
      let (q, r) := reduceAngle m e
      let v := if q % 2 = 0 then sinFix r else cosFix r
      finishMag env .rne (n != decide (2 ≤ q)) ⟨v, -320, true⟩ 0

def f32Cos (env : FpEnv) (a : Word) : Word × Flags :=
  match readF32 env a with
  | .nan b => nanResult (.nan b)
  | .inf _ => (0x7FC00000#32, Flag.nv)
  | .fin _ m e =>
    if m = 0 then (0x3F800000#32, 0)
    else
      let (q, r) := reduceAngle m e
      let v := if q % 2 = 0 then cosFix r else sinFix r
      finishMag env .rne (q == 1 || q == 2) ⟨v, -320, true⟩ 0

/-- A value rounded to an integer under a mode: sign, integer magnitude, was it rounded (R112, R143). -/
def roundInt (mode : Rnd) (n : Bool) (m : Nat) (e : Int) : Nat × Bool :=
  if 0 ≤ e then (m * 2 ^ e.toNat, false)
  else
    let k := (-e).toNat
    let q := m / 2 ^ k
    let rem := m % 2 ^ k
    (if roundsUp mode n (q % 2 == 1) rem k false then q + 1 else q, decide (rem ≠ 0))

/-- `ffloor`, `fceil`, `ftrunc` (exact, no flag) and `frint` (`NX` when the result differs), R143. -/
def f32Round (mode : Rnd) (flag : Bool) (env : FpEnv) (a : Word) : Word × Flags :=
  match readF32 env a with
  | .nan b => nanResult (.nan b)
  | .inf n => (infWord n, 0)
  | .fin n m e =>
    let (q, inexact) := roundInt mode n m e
    if q = 0 then (zeroWord n, if flag && inexact then Flag.nx else 0)
    else
      let (w, _) := roundVal Fmt.f32 .rne (.fin n q 0)
      (BitVec.ofNat 32 w, if flag && inexact then Flag.nx else 0)

/-! ## Binary64, for the distinct estimate (R192) -/

/-- A finite nonnegative binary64 value: m × 2^e. -/
abbrev D64 := Nat × Int

/-- Round a magnitude to binary64 under RNE. -/
def d64Round (x : Mag) : D64 :=
  if x.m = 0 then (0, 0)
  else
    let (m, e, _) := roundMag 53 Fmt.f64.unit .rne false x
    (m, e)

def d64OfNat (n : Nat) : D64 := d64Round ⟨n, 0, false⟩
def d64Add (a b : D64) : D64 :=
  let lo := if a.2 < b.2 then a.2 else b.2
  d64Round ⟨a.1 * 2 ^ (a.2 - lo).toNat + b.1 * 2 ^ (b.2 - lo).toNat, lo, false⟩
def d64Mul (a b : D64) : D64 := d64Round ⟨a.1 * b.1, a.2 + b.2, false⟩
def d64Div (a b : D64) : D64 := if b.1 = 0 then (0, 0) else d64Round (divMag a.1 a.2 b.1 b.2)
/-- A decimal constant num / den rounded to binary64. -/
def d64Ratio (num den : Nat) : D64 := d64Round (divMag num 0 den 0)
/-- The natural logarithm of a value of at least 1. -/
def d64Ln (a : D64) : D64 :=
  if a.1 = 0 then (0, 0)
  else
    let k : Int := a.2 + (bitLength a.1 : Int) - 1
    let den := 2 ^ (bitLength a.1 - 1)
    let v := lnFix a.1 den + k.toNat * ln2Fix
    if v = 0 then (0, 0) else d64Round ⟨v, -320, true⟩
/-- Is a ≤ b? -/
def d64Le (a b : D64) : Bool := !magGt a.1 a.2 b.1 b.2
/-- Rounded to an integer, ties to even. -/
def d64ToNat (a : D64) : Nat := (roundInt .rne false a.1 a.2).1

end Sys2Proof.Machine
end

