-- ==== Sys2Proof/Machine/Convert.lean ====
section
/-!
DEFINITION. Conversions between the fifteen formats of Table Arithmetic 1 (R96 to R101, R108 to R114, R144, R145) and
MX block packing (R105, R106).
-/
namespace Sys2Proof.Machine

/-- Which of the three conversions, with the random bits of `cvtsr` (R114). -/
inductive CvtKind where
  | cvt
  | cvts
  | cvtsr (r : BitVec 16)
  deriving DecidableEq, Repr

/-- The float format of a code, if it is one. -/
def fmtOf : Nat → Option Fmt
  | 5 => some Fmt.f32
  | 6 => some Fmt.bf16
  | 7 => some Fmt.f16
  | 8 => some Fmt.e4m3
  | 9 => some Fmt.e5m2
  | 10 => some Fmt.e3m2
  | 11 => some Fmt.e2m3
  | 12 => some Fmt.e2m1
  | _ => none

/-- The width of a format in bits (Table Arithmetic 1). -/
def fmtWidth : Nat → Nat
  | 0 => 32 | 1 => 32 | 2 => 8 | 3 => 8 | 4 => 4 | 5 => 32 | 6 => 16 | 7 => 16 | 8 => 8 | 9 => 8
  | 10 => 6 | 11 => 6 | 12 => 4 | 13 => 2 | 14 => 8 | _ => 0

/-- The range of an integer format, or of `t2` (R98, R112). -/
def intRange : Nat → Int × Int
  | 0 => (-2147483648, 2147483647)
  | 1 => (0, 4294967295)
  | 2 => (-128, 127)
  | 3 => (0, 255)
  | 4 => (-8, 7)
  | _ => (-1, 1)

/-- Codes 0 to 4 are integers (Table Arithmetic 1). -/
def isIntCode (c : Nat) : Bool := decide (c ≤ 4)

/-- The integer the low bits hold in an integer format (R97, R98). -/
def readInt (code b : Nat) : Int :=
  match code with
  | 0 => signed 32 b
  | 1 => (b % 2 ^ 32 : Nat)
  | 2 => signed 8 b
  | 3 => (b % 256 : Nat)
  | _ => signed 4 b

/-- The value of a `t2` code (Table Arithmetic 2); the reserved code reads as 0 and sets `TRN` (R99). -/
def readT2 (b : Nat) : Int × Flags :=
  match b % 4 with
  | 1 => (1, 0)
  | 3 => (-1, 0)
  | 2 => (0, Flag.trn)
  | _ => (0, 0)

/-- How a register holds a converted integer: `i8` and `i4` sign-extended, every other narrow format zero-extended,
a `t2` as its two bits (R97). -/
def holdInt (code : Nat) (v : Int) : Word :=
  match code with
  | 2 => (BitVec.ofInt 8 v).signExtend 32
  | 3 => (BitVec.ofInt 8 v).setWidth 32
  | 4 => (BitVec.ofInt 4 v).signExtend 32
  | 13 => (BitVec.ofInt 2 v).setWidth 32
  | _ => BitVec.ofInt 32 v

/-- Clamp to a range; was it clamped? -/
def clampInt (r : Int × Int) (v : Int) : Int × Bool :=
  if v < r.1 then (r.1, true) else if r.2 < v then (r.2, true) else (v, false)

/-- Move one grid step away from zero when the random bits say so (R114): `q` units kept, `rem` of `2^k` left. -/
def stochUp (r : BitVec 16) (rem k : Nat) : Bool := decide (rem * 65536 / 2 ^ k > r.toNat)

/-- Round a magnitude to a float format under a conversion's rule: the integer, exponent and inexactness. -/
def cvtRound (kind : CvtKind) (mode : Rnd) (f : Fmt) (neg : Bool) (m : Nat) (e : Int) : Nat × Int × Bool :=
  match kind with
  | .cvtsr r =>
    let top : Int := e + (bitLength m : Int) - (f.mbits + 1)
    let t := if top < f.unit then f.unit else top
    if t ≤ e then (m * 2 ^ (e - t).toNat, t, false)
    else
      let k := (t - e).toNat
      let q := m / 2 ^ k
      let rem := m % 2 ^ k
      (if stochUp r rem k then q + 1 else q, t, decide (rem ≠ 0) && true)
  | _ => roundMag (f.mbits + 1) f.unit mode neg ⟨m, e, false⟩

/-- Under `cvtsr`, `NX` is set exactly when the rounded value differs from the source, before it is saturated or clamped
(R114). -/
def CvtKind.inexactOnly {α : Type} (kind : CvtKind) (inexact : Bool) (r : α × Flags) : α × Flags :=
  match kind with
  | .cvtsr _ => (r.1, (r.2 &&& ~~~Flag.nx) ||| (if inexact then Flag.nx else 0))
  | _ => r

/-- A finite value to a float format (R107 to R110, R114). -/
def finToFloat (kind : CvtKind) (mode : Rnd) (f : Fmt) (neg : Bool) (m : Nat) (e : Int) : Nat × Flags :=
  if m = 0 then (withSign f neg 0, 0)
  else
    let sat := match kind with | .cvt => false | _ => true
    let (q, t, inexact) := cvtRound kind mode f neg m e
    let tiny := match kind with | .cvtsr _ => belowNormal f q t | _ => isTiny f mode neg ⟨m, e, false⟩
    kind.inexactOnly inexact (deliver f mode sat neg q t inexact tiny)

/-- A finite value to an integer format or `t2`: rounded, then clamped; a clamp sets `NV`, a rounding that is not
clamped `NX` (R112), one of `cvtsr` `NX` in either case (R114). -/
def finToInt (kind : CvtKind) (mode : Rnd) (code : Nat) (neg : Bool) (m : Nat) (e : Int) : Word × Flags :=
  let (q, inexact) := match kind with
    | .cvtsr r =>
      if 0 ≤ e then (m * 2 ^ e.toNat, false)
      else
        let k := (-e).toNat
        (if stochUp r (m % 2 ^ k) k then m / 2 ^ k + 1 else m / 2 ^ k, decide (m % 2 ^ k ≠ 0))
    | _ => roundInt mode neg m e
  let v : Int := if neg then -q else q
  let (c, clamped) := clampInt (intRange code) v
  kind.inexactOnly inexact (holdInt code c, if clamped then Flag.nv else if inexact then Flag.nx else 0)

/-- A finite value to `e8m0`: the exponent of its magnitude, clamped (R113); zero delivers 0xFF with `NV`. -/
def finToE8 (m : Nat) (e : Int) : Word × Flags :=
  if m = 0 then (0xFF#32, Flag.nv)
  else
    let x : Int := e + (bitLength m : Int) - 1 + 127
    let (c, _) := clampInt (0, 254) x
    let exact := decide (m = 2 ^ (bitLength m - 1)) && decide (c = x)
    (BitVec.ofInt 32 c,
      (if 254 < x then Flag.overflow else if x < 0 then Flag.uf else 0) ||| (if exact then 0 else Flag.nx))

/-- A float value (not from an equal code) to format `dst` (R110 to R113, Table Arithmetic 9). -/
def fromVal (kind : CvtKind) (env : FpEnv) (dst : Nat) (v : FVal) : Word × Flags :=
  let plain := match kind with | .cvt => true | _ => false
  match fmtOf dst with
  | some f =>
    let (b, fl) := match v with
      | .nan sn => if f.hasNan then (f.nanBits, if sn then Flag.nv else 0) else (0, Flag.nv)
      | .inf n =>
        if f.hasInf then (withSign f n f.infBits, 0)
        else if f.hasNan && plain then (f.nanBits, Flag.overflow)
        else (withSign f n f.maxBits, Flag.overflow ||| Flag.nx)
      | .fin n m e => finToFloat kind env.rnd f n m e
    if dst = 5 then writeF32 env (b, fl) else (BitVec.ofNat 32 b, fl)
  | none =>
    if dst = 14 then
      match v with
      | .nan _ => (0xFF#32, Flag.nv)
      | .inf _ => (0xFF#32, Flag.nv)
      | .fin _ m e => finToE8 m e
    else
      match v with
      | .nan _ => (0#32, Flag.nv)
      | .inf n => (holdInt dst (if n then (intRange dst).1 else (intRange dst).2), Flag.nv)
      | .fin n m e => finToInt kind env.rnd dst n m e

/-- An integer source to format `dst` (R112). The rule speaks of narrower destinations; to one of equal or greater width
`cvt` keeps the low bits, `cvts` and `cvtsr` clamp to the range and set SAT alike (DESIGN CHOICE, log 90). -/
def fromInt (kind : CvtKind) (env : FpEnv) (dst : Nat) (v : Int) : Word × Flags :=
  if isIntCode dst then
    match kind with
    | .cvt => (holdInt dst v, 0)
    | _ =>
      let (c, clamped) := clampInt (intRange dst) v
      (holdInt dst c, if clamped then Flag.sat else 0)
  else if dst = 13 then
    let (c, clamped) := clampInt (-1, 1) v
    (holdInt 13 c, if clamped then Flag.sat else 0)
  else fromVal kind env dst (ofIntVal v)

/-- A conversion whose codes are equal (R145). -/
def sameCode (env : FpEnv) (code : Nat) (a : Word) : Word × Flags :=
  let b := a.toNat % 2 ^ fmtWidth code
  if isIntCode code then (holdInt code (readInt code b), 0)
  else match fmtOf code with
    | some f =>
      match decodeF f b with
      | .nan sn => (BitVec.ofNat 32 f.nanBits, if sn then Flag.nv else 0)
      | _ => if code = 5 then writeF32 env (b, 0) else (BitVec.ofNat 32 b, 0)
    | none =>
      if code = 13 then (if b = 2 then (0#32, Flag.trn) else (BitVec.ofNat 32 b, 0))
      else (BitVec.ofNat 32 b, 0)

/-- The whole conversion of one lane: `src` and `dst` are format codes 0 to 14 (R144). -/
def convert (kind : CvtKind) (env : FpEnv) (src dst : Nat) (a : Word) : Word × Flags :=
  if src = dst then sameCode env src a
  else
    let b := a.toNat % 2 ^ fmtWidth src
    if isIntCode src then fromInt kind env dst (readInt src b)
    else if src = 13 then
      let (v, fl) := readT2 b
      let (w, f2) := fromInt kind env dst v
      (w, fl ||| f2)
    else if src = 14 then
      if b = 255 then fromVal kind env dst (.nan false) else fromVal kind env dst (.fin false 1 ((b : Int) - 127))
    else if src = 5 then fromVal kind env dst (readF32 env a)
    else match fmtOf src with
      | some f => fromVal kind env dst (decodeF f b)
      | none => (0#32, 0)

/-! ## MX packing -/

/-- emax of an MX element format (Table Arithmetic 5). -/
def mxEmax : Nat → Int
  | 8 => 8 | 9 => 15 | 10 => 4 | 11 => 2 | _ => 2

/-- The exponent of a magnitude: floor(log2 (m × 2^e)). -/
def floorLog2 (m : Nat) (e : Int) : Int := e + (bitLength m : Int) - 1

/-- The larger of two exponents, none when the magnitude is 0. -/
def maxExpOf : List FVal → Option Int
  | [] => none
  | .fin _ m e :: vs =>
    let r := maxExpOf vs
    if m = 0 then r else match r with
      | none => some (floorLog2 m e)
      | some x => some (if x < floorLog2 m e then floorLog2 m e else x)
  | _ :: vs => maxExpOf vs

/-- Pack up to 32 values into an MX block of element code `dst`: the scale byte, the element codes, the flags (R106). -/
def mxPack (dst : Nat) (vs : List FVal) : Nat × List Nat × Flags :=
  if vs.any fun v => match v with | .fin .. => false | _ => true then (255, vs.map fun _ => 0, Flag.nv)
  else match maxExpOf vs with
    | none => (0, vs.map fun _ => 0, 0)
    | some x =>
      let (ex, _) := clampInt (-127, 127) (x - mxEmax dst)
      let f := (fmtOf dst).getD Fmt.e4m3
      let outs := vs.map fun v => match v with
        | .fin n m e => finToFloat .cvts .rne f n m (e - ex)
        | _ => (0, 0)
      ((ex + 127).toNat, outs.map (·.1), outs.foldl (fun a o => a ||| o.2) 0)

end Sys2Proof.Machine
end

