-- ==== Sys2Proof/Machine/Regs.lean ====
section
/-!
DEFINITION. Reading and writing the records of the state: modules, virtual functions, cores, teams, groups; the lane,
scalar and address registers of a group (06_register_state.md); the bypass window (R80, R127, R128).
-/
namespace Sys2Proof.Machine

/-- The outcome of a meaning. -/
abbrev Out := Host.Outcome State Fault Refusal

/-! ## Units of the fabric -/

/-- Module of a global core number (R12). -/
def coreMod (gcn : Nat) : Nat := gcn / 256
/-- Cluster of a core, counted over the fabric: module × 64 + die × 16 + cluster (R12). -/
def coreCluster (gcn : Nat) : Nat := gcn / 4
/-- Die of a core, counted over the fabric: module × 4 + die (R12). -/
def coreDie (gcn : Nat) : Nat := gcn / 64

/-- A module's record. -/
def State.mod (s : State) (m : Nat) : Mod := (s.modules.find? fun x => x.num == m).getD (Mod.reset m)
/-- Replace a module's record by `f` of it. -/
def State.modMod (s : State) (m : Nat) (f : Mod → Mod) : State :=
  { s with modules := mapWhere (fun x => x.num == m) f s.modules }
/-- The lease clock of a module: its ticks since Dawn (R321). -/
def State.lticks (s : State) (m : Nat) : Nat := s.ltick - (s.mod m).ltick0
/-- Is the module in the fabric (R16)? -/
def State.inFabric (s : State) (m : Nat) : Bool := s.modules.any fun x => x.num == m

/-- Is there no path between two modules (R245)? -/
def noPath (s : State) (a b : Nat) : Bool :=
  s.nopath.any fun p => (p.m == a && p.h == b) || (p.m == b && p.h == a)

/-- The registers of virtual function `v` on module `m`. -/
def State.vf (s : State) (m v : Nat) : Vf := ((s.mod m).vfs.find? fun x => x.num == v).getD (Vf.reset v)
/-- Replace the registers of a virtual function by `f` of them. -/
def State.modVf (s : State) (m v : Nat) (f : Vf → Vf) : State :=
  s.modMod m fun x => { x with vfs := upsert (fun y => y.num == v) (f (s.vf m v)) x.vfs }

/-- A core's registers. -/
def State.core (s : State) (gcn : Nat) : Core := (s.cores.find? fun x => x.gcn == gcn).getD (Core.reset gcn)
/-- Replace a core's registers by `f` of them. -/
def State.modCore (s : State) (gcn : Nat) (f : Core → Core) : State :=
  { s with cores := upsert (fun x => x.gcn == gcn) (f (s.core gcn)) s.cores }

/-- The partition record of a number on a module. -/
def State.partition? (s : State) (m p : Nat) : Option Partition := (s.mod m).parts.find? fun x => x.num == p
/-- The partition a core belongs to. -/
def State.corePart (s : State) (gcn : Nat) : Partition :=
  ((s.mod (coreMod gcn)).parts.find? fun x => x.clusters.contains (coreCluster gcn % 64)).getD Partition.reset

/-- A team by its identifier. -/
def State.team? (s : State) (uid : Nat) : Option Team := s.teams.find? fun x => x.uid == uid
/-- Replace a team by `f` of it. -/
def State.modTeam (s : State) (uid : Nat) (f : Team → Team) : State :=
  { s with teams := mapWhere (fun x => x.uid == uid) f s.teams }

/-- A resident group by core and slot. -/
def State.group? (s : State) (core slot : Nat) : Option Group :=
  s.groups.find? fun g => g.core == core && g.slot == slot
/-- Put back a group. -/
def State.setGroup (s : State) (g : Group) : State :=
  { s with groups := mapWhere (fun h => h.core == g.core && h.slot == g.slot) (fun _ => g) s.groups }
/-- Replace a group by `f` of it. -/
def State.modGroup (s : State) (core slot : Nat) (f : Group → Group) : State :=
  { s with groups := mapWhere (fun h => h.core == core && h.slot == slot) f s.groups }

/-- A queue no `qctl` has touched: the reset values of Table Queues 1 and 2. -/
def Queue.reset (m node : Nat) : Queue where
  m := m
  node := node
  header := none
  logCap := 0
  recSize := 0
  pub := 0
  rsv := 0
  tkn := 0
  fre := 0
  pdn := 0
  done := []
  en := false
  frozen := false
  perr := false
  wdg := false
  wlost := false
  wcnt := 0
  wdt := 0
  sup := 0x3FF
  wcount := 0
  pubTicks := []
  enableTick := 0
  completed := []
  waiting := []
  nextAct := 0
  was := none

/-- Is a queue enabled for an event of a clock, which comes before the clock's `qctl` operations (R263)? -/
def Queue.enAt (q : Queue) (cyc : Nat) : Bool :=
  match q.was with
  | some (c, b) => if c = cyc then b else q.en
  | none => q.en

/-- `EN` as a `qctl` operation or a `dusk` sets it. -/
def Queue.setEn (q : Queue) (cyc : Nat) (en : Bool) : Queue := { q with en := en, was := some (cyc, q.enAt cyc) }

/-- `FRE` as the reservations of a clock find it, which come before the advances of that clock (R263). -/
def Queue.freAt (q : Queue) (cyc : Nat) : Nat :=
  match q.freWas with
  | some (c, n) => if c = cyc then n else q.fre
  | none => q.fre

/-- The queue of a node. -/
def State.queue (s : State) (m node : Nat) : Queue :=
  (s.queues.find? fun q => q.m == m && q.node == node).getD (Queue.reset m node)
/-- Replace a node's queue by `f` of it. -/
def State.modQueue (s : State) (m node : Nat) (f : Queue → Queue) : State :=
  { s with queues := upsert (fun q => q.m == m && q.node == node) (f (s.queue m node)) s.queues }

/-! ## The issuing instruction -/

/-- What the issuing instruction sees: where it stands, its group, its split and its team. -/
structure Issue where
  cur : Cur
  g : Group
  sp : Split
  t : Team
  deriving DecidableEq, Repr

/-- The issuing instruction named by `cur`. -/
def State.issue? (s : State) : Option Issue :=
  match s.cur with
  | none => none
  | some c =>
    match s.group? c.core c.slot with
    | none => none
    | some g =>
      match g.arch.splits.find? (fun p => p.slot == c.split), s.team? g.team with
      | some sp, some t => some ⟨c, g, sp, t⟩
      | _, _ => none

/-- Run a meaning on the issuing instruction. -/
def withIssue (s : State) (k : Issue → Out) : Out :=
  match s.issue? with
  | none => .fault .noIssuer
  | some x => k x

namespace Issue
/-- Active(S): the split's lanes, helpers included. -/
def active (x : Issue) : Mask := x.sp.mask
/-- The active lanes that are not helpers. -/
def live (x : Issue) : Mask := x.sp.mask &&& ~~~x.g.arch.helpers
/-- The active lanes in ascending order. -/
def lanes (x : Issue) : List Nat := lanesOf x.active x.g.width
/-- The non-helper active lanes in ascending order. -/
def liveLanes (x : Issue) : List Nat := lanesOf x.live x.g.width
/-- Module of the issuing core. -/
def m (x : Issue) : Nat := coreMod x.cur.core
end Issue

/-! ## Lane registers -/

/-- The identity registers v120 to v127 of a lane (Table Registers 2). -/
def identity (t : Team) (g : Group) (r L : Nat) : Word :=
  let tlane := g.num * g.width + L
  let blane := t.num * 2048 + tlane
  match r with
  | 120 => BitVec.ofNat 32 L
  | 121 => BitVec.ofNat 32 tlane
  | 122 => BitVec.ofNat 32 blane
  | 123 => BitVec.ofNat 32 (t.band * 8192 + blane)
  | 124 => BitVec.ofNat 32 (L % 4)
  | 125 => if g.arch.helpers.getLsbD L then 1 else 0
  | 126 => 0
  | _ => 0xFFFFFFFF

/-- The values of a block, none while it is unallocated. -/
def Block.vals (b : Block) : List Word :=
  match b with
  | .unallocated => []
  | .resident vs => vs
  | .spilled vs => vs

/-- A value of a block: zero while it is unallocated (Table Registers 1). -/
def Block.get (b : Block) (i : Nat) : Word := nth b.vals i 0

/-- Lane register v`r` of lane `L`. -/
def laneReg (t : Team) (g : Group) (r L : Nat) : Word :=
  if 120 ≤ r then identity t g r L
  else (nth g.arch.blocks (r / 8) .unallocated).get (r % 8 * g.width + L)

/-- The values of a block after a write of register `i` of it in the lanes of `mask`; an unallocated block starts
from zero and becomes resident (Table Registers 1). A value that returns into a spilled block goes where the block is. -/
def Block.put (b : Block) (w i : Nat) (mask : Mask) (v : Nat → Word) : Block :=
  let vs := (padTo (8 * w) 0 b.vals).mapIdx fun j x => if j / w == i && mask.getLsbD (j % w) then v (j % w) else x
  match b with
  | .spilled _ => .spilled vs
  | _ => .resident vs

/-- Lanes of a register that a later instruction has written: the pending access no longer writes them (R129). -/
def Txn.supersede (t : Txn) (r : Nat) (mask : Mask) : Txn :=
  match t.dest with
  | .lanes d n => if d ≤ r && r < d + n then { t with dead := (r - d, mask) :: t.dead } else t
  | .scalar _ => t

/-- The blocks of a group after a write of lane register v`r` in the lanes of a mask (r below 120). -/
def Group.laneBlocks (g : Group) (r : Nat) (mask : Mask) (v : Nat → Word) : List Block :=
  setNth 15 (r / 8) ((nth g.arch.blocks (r / 8) .unallocated).put g.width (r % 8) mask v) .unallocated g.arch.blocks

/-- Word `j` of the value an access returns to a lane. -/
def Txn.word (x : Txn) (j L : Nat) : Word :=
  match lookupNat L x.lanes with
  | some v => v.extractLsb' (32 * j) 32
  | none => 0

/-- The lanes of register `j` of the destination that the access still writes (R129). -/
def Txn.alive (x : Txn) (j : Nat) : Mask :=
  let dead := (x.dead.filter fun d => d.1 = j).foldl (fun (k : Mask) d => k ||| d.2) 0
  maskOf ((x.lanes.map (·.1)).filter fun L => !dead.getLsbD L)

/-- Write lane register v`r` in the lanes of a mask (r below 120). -/
def Group.putLane (g : Group) (r : Nat) (mask : Mask) (v : Nat → Word) : Group :=
  { g with
    arch := { g.arch with blocks := g.laneBlocks r mask v }
    txns := g.txns.map (·.supersede r mask) }

/-- The value of access `id` lands in v`r`: only accesses issued before it are superseded (R129). -/
def Group.landLane (id : Nat) (g : Group) (r : Nat) (mask : Mask) (v : Nat → Word) : Group :=
  { g with
    arch := { g.arch with blocks := g.laneBlocks r mask v }
    txns := mapWhere (fun t => t.id < id) (·.supersede r mask) g.txns }

/-! ## Scalar registers -/

/-- s48 to s63 (Table Registers 3). -/
def scalarView (s : State) (x : Issue) (r : Nat) : DWord :=
  match r with
  | 48 => BitVec.ofNat 64 x.g.core
  | 49 => BitVec.ofNat 64 (x.g.width * 65536 + x.g.num * 256 + x.g.slot)
  | 50 => BitVec.ofNat 64 (x.t.band * 2 ^ 32 + x.t.num)
  | 51 => BitVec.ofNat 64 (x.t.bands * 2 ^ 32 + x.t.lanes)
  | 52 => x.t.rbase.setWidth 64
  | 53 => BitVec.ofNat 64 x.t.rcnt
  | 54 => BitVec.ofNat 64 (x.t.act % 2 ^ 32 * 2 ^ 32 + x.t.node)
  | 55 => BitVec.ofNat 64 (x.t.part * 65536 + x.t.pl * 256 + x.t.vf)
  | 56 => BitVec.ofNat 64 (s.cyc - (s.mod (coreMod x.g.core)).cyc0)
  | 57 => BitVec.ofNat 64 (s.lticks (coreMod x.g.core))
  | 58 => (s.core x.g.core).lamport
  | 59 => x.sp.mask
  | 60 => x.g.arch.helpers
  | 61 => BitVec.ofNat 64 (x.t.gen.toNat * 2 ^ 32 + x.t.lsOff)
  | 62 => x.g.trap.tcause
  | _ => x.g.trap.tpc

/-- Scalar register s`r`. -/
def scalarReg (s : State) (x : Issue) (r : Nat) : DWord :=
  if r < 48 then nth x.g.arch.sregs r 0 else scalarView s x r

/-- A pending access to s`r` no longer writes it (R129). -/
def Txn.supersedeScalar (r : Nat) (t : Txn) : Txn :=
  if t.dest = .scalar r then { t with dead := [(0, BitVec.allOnes 64)] } else t

/-- Write s`r` (r below 48). A pending access to it no longer writes it (R129). -/
def Group.putScalar (g : Group) (r : Nat) (v : DWord) : Group :=
  { g with
    arch := { g.arch with sregs := setNth 48 r v 0 g.arch.sregs }
    txns := g.txns.map (Txn.supersedeScalar r) }

/-- The value of access `id` lands in s`r`: only accesses issued before it are superseded (R129). -/
def Group.landScalar (id : Nat) (g : Group) (r : Nat) (v : DWord) : Group :=
  { g with
    arch := { g.arch with sregs := setNth 48 r v 0 g.arch.sregs }
    txns := mapWhere (fun t => t.id < id) (Txn.supersedeScalar r) g.txns }

/-! ## Address registers -/

/-- An ungranted address register (R126). -/
def AReg.none : AReg := ⟨0, 0, 0, 0⟩

/-- Address register a`i`. -/
def addrReg (g : Group) (i : Nat) : AReg := nth g.arch.aregs i AReg.none

/-- Write a`i`. -/
def Group.putAddr (g : Group) (i : Nat) (a : AReg) : Group :=
  { g with arch := { g.arch with aregs := setNth 16 i a AReg.none g.arch.aregs } }

namespace AReg
/-- Region code `RGN` (Table Registers 4). -/
def rgn (a : AReg) : Nat := (a.perm.extractLsb' 5 3).toNat
/-- `RMT`, `SKT`, `ATM`, `WR`, `RD`. -/
def rmt (a : AReg) : Bool := a.perm.getLsbD 4
/-- See `rmt`. -/
def skt (a : AReg) : Bool := a.perm.getLsbD 3
/-- See `rmt`. -/
def atm (a : AReg) : Bool := a.perm.getLsbD 2
/-- See `rmt`. -/
def wr (a : AReg) : Bool := a.perm.getLsbD 1
/-- See `rmt`. -/
def rd (a : AReg) : Bool := a.perm.getLsbD 0
end AReg

/-! ## FPCR -/

/-- `RND` and `FZ` as lane arithmetic reads them (Table Registers 5). -/
def fpEnv (g : Group) : FpEnv := ⟨Rnd.ofBits (g.arch.fpcr.extractLsb' 0 2), g.arch.fpcr.getLsbD 2⟩
/-- The ordering scope `OSC`. -/
def oscOf (g : Group) : Nat := (g.arch.fpcr.extractLsb' 3 3).toNat
/-- OR flags into `FLG`. -/
def Group.orFlags (g : Group) (f : Flags) : Group :=
  { g with arch := { g.arch with fpcr := g.arch.fpcr ||| (f.setWidth 32 <<< 8) } }

/-! ## Bypass window -/

/-- The latch of an instruction that writes no lane register. -/
def Latch.zero : Latch := ⟨none, 0, false, false, none, []⟩

/-- The accesses under way that have still to write v`d` in lanes of a mask, the latest for each lane: what `D` holds there
after an instruction that leaves those lanes alone (R80, R129). -/
def owedOf (g : Group) (d : Nat) (k : Mask) : List (Nat × Mask) :=
  (g.txns.reverse.foldl (fun (acc : List (Nat × Mask) × Mask) t => match t.dest with
    | .lanes r n =>
      if t.noWrite || d < r || r + n ≤ d then acc
      else
        let m := t.alive (d - r) &&& acc.2
        if m = 0 then acc else ((t.id, m) :: acc.1, acc.2 &&& ~~~m)
    | .scalar _ => acc) ([], k)).1

/-- Does the latch still lack the value of an access under way: its producer's, or an earlier one's in other lanes (R80)? -/
def Latch.pending (l : Latch) (g : Group) : Bool :=
  !l.lost && (l.txn.isSome || l.owed.any fun o => g.txns.any fun t => t.id == o.1)

/-- The latch an access delivers its value to: its own, in the lanes it returns; a later instruction's, in the lanes that
left `D` to it (R80). -/
def Latch.fill (x : Txn) (l : Latch) : Latch :=
  let own := l.txn == some x.id
  let late (L : Nat) : Bool := l.owed.any fun o => o.1 == x.id && o.2.getLsbD L
  let j := match x.dest with | .lanes d _ => l.d - d | .scalar _ => 0
  if own || l.owed.any (·.1 == x.id) then
    { l with
      vals := l.vals.map fun vs => vs.mapIdx fun L v =>
        if own && (lookupNat L x.lanes).isSome then x.word 0 L else if late L then x.word j L else v
      txn := if own then none else l.txn
      owed := l.owed.filter (·.1 != x.id) }
  else l

/-- Push a latch: the window holds the last eight instructions (R80). -/
def pushLatch (w : List Latch) (l : Latch) : List Latch := (l :: w).take 8

/-- Every latch is lost (R127). -/
def loseLatches (w : List Latch) : List Latch := w.map fun l => { l with lost := true }

/-- Does reading latch wn raise LATCHLOST (R128)? -/
def Latch.raisesLost (l : Latch) : Bool := l.lost && l.n && l.vals.isSome

/-- What a read of the latch delivers to lane `L` (R80, R128). -/
def Latch.read (l : Latch) (t : Team) (g : Group) (L : Nat) : Word :=
  match l.vals with
  | none => 0
  | some vs => if l.lost then laneReg t g l.d L else nth vs L 0

/-- The latch wn; before any producer it reads zero. -/
def latchOf (g : Group) (n : Nat) : Latch := nth g.arch.window (n - 1) Latch.zero

end Sys2Proof.Machine
end

