-- ==== Sys2Proof/Machine/Translate.lean ====
section
/-!
DEFINITION. Physical addresses, page tables and translation (09_memories.md R183 to R187), and the header line of a
node queue as bytes (15_queues.md R258).
-/
namespace Sys2Proof.Machine

/-- What a physical address names (Table Memories 5, R349). -/
inductive Phys where
  /-- a byte of global memory, by its global address -/
  | dram (ga : Nat)
  /-- a device register of the application die, by number -/
  | device (n : Nat)
  /-- a byte of a root port's memory space -/
  | rootMem (port : Nat)
  | bad
  deriving DecidableEq, Repr

/-- Decode a physical address as module `m` issues it (R183). A window onto a module that is not in the fabric is a
bad frame (DEDUCED, log 16). -/
def physOf (s : State) (m pa : Nat) : Phys :=
  if pa / 2 ^ 40 = 0 then
    if pa % 2 ^ 38 < Config.dieBytes then .dram (m * 2 ^ 40 + pa) else .bad
  else if pa / 2 ^ 48 = 4 then
    let n := pa / 2 ^ 44 % 16
    if n < 4 then .rootMem n else if n = 15 then .device (pa % 2 ^ 44 / 8) else .bad
  else if pa / 2 ^ 44 = 128 then
    let h := pa / 2 ^ 40 % 16
    if h = m || !s.inFabric h || Config.dieBytes ≤ pa % 2 ^ 38 then .bad else .dram (h * 2 ^ 40 + pa % 2 ^ 40)
  else .bad

/-- The physical address of the first byte of a line, as module `m` names it: its own DRAM, or the fabric window of the
line's module (Table Memories 5). -/
def linePa (m line : Nat) : Nat :=
  let ga := line * 128 % 2 ^ 44
  if ga / 2 ^ 40 = m then ga % 2 ^ 40 else 2 ^ 51 + ga

/-- The context of a group: that of its team. -/
def Team.tctx (t : Team) : Ctx := ⟨coreMod t.core, t.vf, t.ctx, t.l0, t.pl⟩

/-- What an access needs of a page. -/
inductive Need where
  | read
  | write
  | exec
  deriving DecidableEq, Repr

/-- A translated address with its page's attributes (Table Memories 6). -/
structure Page where
  phys : Phys
  pol : BitVec 2
  dd : Bool
  ca : Bool
  ty : Nat
  skd : Nat
  /-- `EX`, `WR` and `SUP` -/
  perm : BitVec 3
  deriving DecidableEq, Repr

/-- A page fault (R186); `poisoned` when an entry read was poisoned (R334). -/
structure PageFault where
  page : Nat
  poisoned : Bool
  deriving DecidableEq, Repr

/-- The entry at a level of a table, or none when it cannot be read. -/
def tableEntry (s : State) (m table idx : Nat) : Except Bool Nat :=
  match physOf s m (table + 8 * idx) with
  | .dram ga => if s.poison.contains (ga / 128) then .error true else .ok (memReadLE s.mem ga 8)
  | _ => .error false

/-- The leaf a walk finds: entry and level (R185). A non-leaf entry is read for `V`, `LF` and `ADDR` only. -/
def walkFrom (s : State) (m va : Nat) : Nat → Nat → Nat → Except Bool (Nat × Nat)
  | 0, _, _ => .error false
  | fuel + 1, level, table =>
    match tableEntry s m table (bitsOf va (46 - 10 * level) 10) with
    | .error e => .error e
    | .ok e =>
      if bitsOf e 0 1 = 0 then .error false
      else if bitsOf e 1 1 = 1 then (if level = 0 then .error false else .ok (e, level))
      else if level = 3 then .error false
      else walkFrom s m va fuel (level + 1) (bitsOf e 13 39 * 8192)

/-- The lines of the entries a walk reads, from a level on (R187). -/
def walkLines (s : State) (m va : Nat) : Nat → Nat → Nat → List Nat
  | 0, _, _ => []
  | fuel + 1, level, table =>
    let idx := bitsOf va (46 - 10 * level) 10
    match physOf s m (table + 8 * idx) with
    | .dram ga => ga / 128 :: match tableEntry s m table idx with
      | .ok e => if bitsOf e 0 1 = 1 && bitsOf e 1 1 = 0 then walkLines s m va fuel (level + 1) (bitsOf e 13 39 * 8192) else []
      | .error _ => []
    | _ => []

/-- Is the translation of an address read from a line of page-table entries (R187)? -/
def walksThrough (s : State) (c : Ctx) (line va : Nat) : Bool := (walkLines s c.m va 4 0 c.l0).contains line

/-- Is the permission there (R186)? -/
def pageAllows (pl : Nat) (need : Need) (e : Nat) : Bool :=
  (bitsOf e 4 1 = 0 || 1 ≤ pl) &&
  match need with
  | .read => true
  | .write => bitsOf e 5 1 = 1
  | .exec => bitsOf e 6 1 = 1

/-- Translate a 56-bit virtual address (R185, R186). -/
def translate (s : State) (c : Ctx) (need : Need) (va : Nat) : Except PageFault Page :=
  let pg := va / 65536
  match walkFrom s c.m va 4 0 c.l0 with
  | .error p => .error ⟨pg, p⟩
  | .ok (e, level) =>
    let offBits := 46 - 10 * level
    let frame := bitsOf e 13 39 * 8192
    let ty := bitsOf e 11 2
    if bitsOf e 52 4 ≠ 0 || bitsOf e 2 2 ≠ 0 || ty = 3 then .error ⟨pg, false⟩
    else if !pageAllows c.pl need e then .error ⟨pg, false⟩
    else
      let ph := physOf s c.m (frame + va % 2 ^ offBits)
      let page : Page := ⟨ph, BitVec.ofNat 2 (bitsOf e 9 2), bitsOf e 8 1 = 1, bitsOf e 7 1 = 1, ty, bitsOf e 56 8,
        BitVec.ofNat 3 (bitsOf e 4 3)⟩
      if ty = 2 then .ok { page with phys := .bad }
      else if frame % 2 ^ offBits ≠ 0 || ph = .bad then .error ⟨pg, false⟩
      else .ok page

/-- The context a side-log entry translates under: a remote one at its target (R216, R273). -/
def LogEntry.tctx (e : LogEntry) : Ctx := ⟨if e.remote then e.peer else coreMod e.core, e.vf, e.ctx, e.l0, e.pl⟩

/-- Does the page table that a table of a module begins, with this many levels, hold a line? Only entries that memory lists can be
valid. -/
def tableHas (s : State) (m line : Nat) : Nat → Nat → Bool
  | 0, _ => false
  | n + 1, table => match physOf s m table with
    | .dram ga =>
      (ga / 128 ≤ line && line < ga / 128 + 64) ||
      (((s.mem.filter fun c => ga ≤ c.1 && c.1 < ga + 8192).map fun c => c.1 / 8).eraseDups).any fun w =>
        let e := memReadLE s.mem (8 * w) 8
        bitsOf e 0 1 = 1 && bitsOf e 1 1 = 0 && tableHas s m line n (bitsOf e 13 39 * 8192)
    | _ => false

/-- Is a line one of page-table entries (R177): of an agent's own context, of a resident team's, or of a root port's? The rule does
not say how a home knows (DESIGN CHOICE, log 105). -/
def tableLine (s : State) (c : Ctx) (line : Nat) : Bool :=
  tableHas s c.m line 4 c.l0 || s.teams.any (fun t => tableHas s (coreMod t.core) line 4 t.l0) ||
  s.modules.any fun x => x.slots.any fun v => v.getLsbD 12 && tableHas s x.num line 4 (bitsOf v.toNat 13 39 * 8192)

/-! ## Sketch regions -/

/-- The first address of the page of `TYPE` 2 and descriptor `skd` that holds an address, if one does. -/
def sketchPage (s : State) (c : Ctx) (skd va : Nat) : Option Nat :=
  match walkFrom s c.m va 4 0 c.l0 with
  | .ok (e, level) => if bitsOf e 11 2 = 2 && bitsOf e 56 8 = skd then some (va - va % 2 ^ (46 - 10 * level)) else none
  | .error _ => none

/-- The start of the region an address lies in: the run of pages of `TYPE` 2 with one `SKD` below it (R190; log 29). -/
def regionStart (s : State) (c : Ctx) (skd : Nat) : Nat → Nat → Nat
  | 0, va => va
  | n + 1, va =>
    match sketchPage s c skd va with
    | none => va
    | some a =>
      if a = 0 then 0
      else match sketchPage s c skd (a - 1) with
        | none => a
        | some _ => regionStart s c skd n (a - 1)

/-- The slot of an address of a sketch region (R190, R209). -/
def sketchSlot (s : State) (c : Ctx) (skd va : Nat) : Nat :=
  let a := va % 2 ^ 56
  (a - regionStart s c skd (2 ^ 24) a) / 4

/-! ## Queue headers as memory -/

/-- `STS` of a queue (Table Queues 2). -/
def Queue.sts (q : Queue) : Nat :=
  min q.wcnt 65535 * 65536 + q.wlost.toNat * 128 + q.wdg.toNat * 64 + q.perr.toNat * 32 + q.frozen.toNat * 2 + q.en.toNat

/-- The 128 bytes of the header line as a little-endian number (Table Queues 1). -/
def Queue.headerNat (q : Queue) : Nat :=
  q.pub % 2 ^ 64 + 2 ^ 64 * (q.rsv % 2 ^ 64) + 2 ^ 128 * (q.tkn % 2 ^ 64) + 2 ^ 192 * (q.fre % 2 ^ 64) +
  2 ^ 352 * (q.logCap + 32 * q.recSize) + 2 ^ 384 * q.sts + 2 ^ 416 * q.wdt + 2 ^ 448 * q.sup

/-- The queue whose header line a global line is. -/
def State.headerQueue? (s : State) (line : Nat) : Option Queue := s.queues.find? fun q => q.header == some line

/-- One byte of global memory as any agent reads it: the queue's own values in a header line (R259), the latest
write elsewhere. -/
def State.byteAt (s : State) (ga : Nat) : Byte :=
  match s.headerQueue? (ga / 128) with
  | some q => BitVec.ofNat 8 (q.headerNat / 2 ^ (8 * (ga % 128)))
  | none => memRead s.mem ga

/-- `n` bytes from a global address, little-endian. -/
def State.readGa (s : State) (ga : Nat) : Nat → Nat
  | 0 => 0
  | n + 1 => (s.byteAt ga).toNat + 256 * State.readGa s (ga + 1) n

end Sys2Proof.Machine
end

