-- ==== Sys2Proof/Machine/Home.lean ====
section
/-!
DEFINITION. The home of a line: L2 tags and deduplicated data (09_memories.md R176 to R182), the directory entry and
the merge of partials and privatised copies (R237, R252, R257, R301), and performing updates at a line.
-/
namespace Sys2Proof.Machine

/-- On whose behalf a tag is allocated: virtual function, dedup domain if any, and the page's `POL` (R177, R252). -/
structure Origin where
  vf : Nat
  domain : Option Nat
  pol : BitVec 2
  deriving DecidableEq, Repr

/-- The origin of hardware state: no domain (R177). -/
def Origin.hw : Origin := ⟨0, none, 1⟩

/-- The origin of an access of a context to a page: a domain at `PL` 0 or 1 on a page with `DD` and `CA`, but for a line of
page-table entries (R177). -/
def originOf (s : State) (c : Ctx) (p : Page) : Origin :=
  let table : Bool := match p.phys with | .dram ga => tableLine s c (ga / 128) | _ => false
  ⟨c.vf, if p.dd && p.ca && c.pl ≤ 1 && p.ty ≠ 2 && !table then some c.vf else none, p.pol⟩

/-- Module of a line's home. -/
def lineMod (line : Nat) : Nat := line / 2 ^ 33
/-- The die of a line's home within its module (R184). -/
def lineDie (line : Nat) : Nat := line / 2 ^ 31 % 4

/-- XOR of the 4-bit groups of a number. -/
def xorNibbles : Nat → Nat → Nat
  | 0, _ => 0
  | n + 1, v => (v % 16) ^^^ xorNibbles n (v / 16)

/-- The slice of a line's home over the fabric: module × 64 + die × 16 + slice (R184). -/
def lineSlice (line : Nat) : Nat := (lineMod line * 4 + lineDie line) * 16 + xorNibbles 8 (line * 128 % 2 ^ 40 / 256)

/-- The vault of its die a line is stored in (R184). -/
def lineVault (line : Nat) : Nat := (line * 128 / 256 % 64) ^^^ (line * 128 / 2 ^ 20 % 64)

/-- The core whose vault holds a line, by global core number: cluster `v / 4`, core `v % 4` of the home's die (R184). -/
def lineVaultCore (line : Nat) : Nat := (lineMod line * 4 + lineDie line) * 64 + lineVault line

/-! ## Counts (Table Memories 4) -/

/-- The greatest value of count `i`: `DTAG`, `DENT` and `DZER` are 32 bits wide, the others 64 (Table Memories 4); a count
that has reached it stays there (R322). -/
def countMax (i : Nat) : Nat := if i < 3 then 0xFFFFFFFF else 0xFFFFFFFFFFFFFFFF

/-- Add to count `i` (0 `DTAG` to 6 `DCOW`) of a virtual function and of the module. -/
def State.count (s : State) (m vf i : Nat) (up : Bool) : State :=
  let step (l : List Nat) : List Nat := l.mapIdx fun j x =>
    if j = i then (if up then min (x + 1) (countMax i) else x - 1) else x
  (s.modMod m fun y => { y with counts := step y.counts }).modVf m vf fun v => { v with counts := step v.counts }

/-! ## Content hash -/

/-- The content hash of a line under a salt (R177). -/
def hashLine (salt : DWord) (c : LineData) : DWord :=
  (List.range 16).foldl (fun h i => fmix64 (h ^^^ c.extractLsb' (64 * i) 64)) salt

/-! ## Data entries -/

/-- The tag of a line. -/
def State.tag? (s : State) (line : Nat) : Option Tag := s.tags.find? fun t => t.line == line
/-- Replace a line's tag by `f` of it. -/
def State.modTag (s : State) (line : Nat) (f : Tag → Tag) : State :=
  { s with tags := mapWhere (fun t => t.line == line) f s.tags }

/-- The data entry at a place. -/
def State.data? (s : State) (slice set way : Nat) : Option DataEntry :=
  s.datas.find? fun d => d.slice == slice && d.set == set && d.way == way

/-- A stamp for least-recently-used order (R180). -/
def State.stamp (s : State) : Nat × State := (s.nextId, { s with nextId := s.nextId + 1 })

/-- Release(t): drop the line's reference to its data entry, and free the entry at count 0 (R178). -/
def releaseData (s : State) (line : Nat) : State :=
  match s.tag? line with
  | none => s
  | some t =>
    match t.data with
    | none => s
    | some (set, way) =>
      let sl := lineSlice line
      let s := s.modTag line fun t => { t with data := none }
      match s.data? sl set way with
      | none => s
      | some d =>
        let here (e : DataEntry) : Bool := e.slice == sl && e.set == set && e.way == way
        if d.count ≤ 1 then
          ({ s with datas := s.datas.filter fun e => !here e } : State).count (lineMod line) d.vf 1 false
        else { s with datas := mapWhere here (fun e => { e with count := e.count - 1 }) s.datas }

/-- The element read-modify-write a held partial stands for, by `COP` (Table Tables 3), as the atomic function. -/
def copFn : Nat → Nat
  | 1 => 0 | 2 => 1 | 3 => 3 | 4 => 5 | 5 => 6 | 6 => 7 | 7 => 8 | 8 => 11 | 9 => 12 | 10 => 13 | _ => 14

/-- `COP` of an atomic function. -/
def fnCop : Nat → Nat
  | 0 => 1 | 1 => 2 | 3 => 3 | 5 => 4 | 6 => 5 | 7 => 6 | 8 => 7 | 11 => 8 | 12 => 9 | 16 => 9 | 13 => 10 | _ => 11

/-- The signed view of a word. -/
def sgn (v : Nat) : Int := signed 32 v

/-- The new value of an atomic (Table Memory Instructions 4): `d` is D (for `addd` the pair), `e` is D+1. Function 16 is the
model's name for one half of an `add2h` (R250). -/
def atomNew (fn m d e : Nat) : Nat :=
  match fn with
  | 0 => (m + d) % 2 ^ 32
  | 1 => (m + d) % 2 ^ 64
  | 2 => m &&& d
  | 3 => m ||| d
  | 4 => m ^^^ d
  | 5 => if sgn d < sgn m then d else m
  | 6 => if sgn m < sgn d then d else m
  | 7 => min m d
  | 8 => max m d
  | 9 => d
  | 10 => if m = d then e else m
  | 11 => (f32Add homeEnv (BitVec.ofNat 32 m) (BitVec.ofNat 32 d)).1.toNat
  | 12 => (bfAdd2 .rne (BitVec.ofNat 32 m) (BitVec.ofNat 32 d)).1.toNat
  | 13 => (f32Pick true homeEnv (BitVec.ofNat 32 m) (BitVec.ofNat 32 d)).1.toNat
  | 14 => (f32Pick false homeEnv (BitVec.ofNat 32 m) (BitVec.ofNat 32 d)).1.toNat
  | 16 => (bfAdd2 .rne (BitVec.ofNat 32 m) (BitVec.ofNat 32 d)).1.toNat % 2 ^ 16
  | _ => if d ≤ m then 0 else m + 1

/-- Bytes an atomic function works on. -/
def atomSize (fn : Nat) : Nat := if fn = 1 then 8 else 4

/-! ## Directory entries -/

/-- The entry of a line whose tag has just been allocated (Table Directory 1, Table Tables 3). -/
def DirEntry.fresh (line : Nat) (pol : BitVec 2) : DirEntry where
  line := line
  st := 0
  wtag := (List.range 32).foldl (fun w i => w ||| (pol.setWidth 64 <<< (2 * i))) 0
  req := 0
  crs := false
  ack := 0
  mv := 0
  shr := 0
  dlv := false
  lts := 0
  mix := 0
  cop := 0
  epo := 0
  ver := 0
  masks := []
  sent := 0

/-- The directory entry of a line; a line with no tag is in state I (R252). -/
def State.dir? (s : State) (line : Nat) : Option DirEntry := s.dir.find? fun d => d.line == line
/-- See `State.dir?`. -/
def State.dirOf (s : State) (line : Nat) : DirEntry := (s.dir? line).getD (DirEntry.fresh line 1)
/-- Put a directory entry. -/
def State.setDir (s : State) (d : DirEntry) : State := { s with dir := upsert (fun x => x.line == d.line) d s.dir }

/-- The pointers of an entry in pointer form. -/
def DirEntry.ptrs (d : DirEntry) : List Nat :=
  (List.range (d.shr.extractLsb' 48 3).toNat).map fun i => (d.shr.extractLsb' (12 * i) 12).toNat
/-- An entry with these pointers, at most four (Table Directory 1). -/
def DirEntry.setPtrs (d : DirEntry) (l : List Nat) : DirEntry :=
  { d with
    crs := false
    mv := 0
    shr := (l.take 4).zipIdx.foldl (fun w p => w ||| (BitVec.ofNat 64 p.1 <<< (12 * p.2)))
      (BitVec.ofNat 64 (min l.length 4) <<< 48) }

/-- Version and epoch after a write performed at the home (R235). -/
def DirEntry.bump (d : DirEntry) : DirEntry :=
  { d with ver := d.ver + 1, epo := if d.ver = 0xFFFF then d.epo + 1 else d.epo }

/-- Set the `WTAG` of the words that bytes [off, off + n) of the line touch (R257). -/
def DirEntry.tagWords (d : DirEntry) (off n : Nat) (pol : BitVec 2) : DirEntry :=
  { d with wtag := (List.range 32).foldl (fun w i =>
      if off < 4 * i + 4 && 4 * i < off + n then
        (w &&& ~~~(3#64 <<< (2 * i))) ||| (pol.setWidth 64 <<< (2 * i)) else w) d.wtag }

/-! ## Evicting and allocating -/

/-- The copies of a line. -/
def State.copiesOf (s : State) (line : Nat) : List L1Line := s.l1.filter fun c => c.line == line
/-- The copy of a line a core holds. -/
def State.l1? (s : State) (core line : Nat) : Option L1Line := s.l1.find? fun c => c.core == core && c.line == line
/-- Drop a core's copy of a line. -/
def State.dropL1 (s : State) (core line : Nat) : State :=
  { s with l1 := s.l1.filter fun c => !(c.core == core && c.line == line) }
/-- Put a core's copy of a line. -/
def State.putL1 (s : State) (c : L1Line) : State :=
  { s with l1 := upsert (fun x => x.core == c.core && x.line == c.line) c s.l1 }

/-- A delivered partial waits at the home under core number 8192 + its core (R237). -/
def deliveredBase : Nat := 8192

/-- Insert into a list sorted by core, delivered partials before held ones of the same core. -/
def insertPart (c : L1Line) : List L1Line → List L1Line
  | [] => [c]
  | x :: xs =>
    if c.core % deliveredBase < x.core % deliveredBase ||
       (c.core % deliveredBase = x.core % deliveredBase && x.core < c.core) then c :: x :: xs
    else x :: insertPart c xs

/-- Is the copy a partial held where no path leads to its home? Such a partial stays until a path returns (R246). -/
def strandedPart (s : State) (c : L1Line) : Bool :=
  match c.kind with
  | .part .. => c.core < deliveredBase && noPath s (coreMod c.core) (lineMod c.line)
  | _ => false

/-- The partials of a line that can reach its home, in ascending global core number (R119). -/
def State.partsOf (s : State) (line : Nat) : List (Nat × List (Nat × DWord)) :=
  (((s.copiesOf line).filter fun c => !strandedPart s c).foldl (fun acc c => match c.kind with | .part .. => insertPart c acc | _ => acc) []).filterMap
    fun c => match c.kind with
    | .part cop vals _ _ => some (cop, vals)
    | _ => none

/-- Fold one partial's elements into memory (R119). -/
def foldPart (line : Nat) (mem : List Host.Cell) (p : Nat × List (Nat × DWord)) : List Host.Cell :=
  let fn := copFn p.1
  p.2.foldl (fun m e =>
    let a := 128 * line + e.1
    memWriteLE m a (atomSize fn) (atomNew fn (memReadLE m a (atomSize fn)) e.2.toNat 0)) mem

/-- Is the line the first of a node-table entry, which holds the credits of its edges (R305)? -/
def creditLine (s : State) (line : Nat) : Bool :=
  let pa := line * 128 % 2 ^ 40
  let base := (s.mod (lineMod line)).nodeBase
  base ≤ pa && pa < base + 512 * 1024 && (pa - base) % 512 = 0

/-- Is the line an entry of a virtual function's sketch descriptor table, whose flags are hardware state (R304)? A table
no hypervisor has placed (`SKDB` 0) has no entries (DESIGN CHOICE, log 76). -/
def descLine (s : State) (line : Nat) : Bool :=
  let pa := line * 128 % 2 ^ 40
  (s.mod (lineMod line)).vfs.any fun v => v.skdb.toNat ≠ 0 && v.skdb.toNat ≤ pa && pa < v.skdb.toNat + 256 * 128

/-- Does the line hold fields that only the hardware writes? -/
def hwLine (s : State) (line : Nat) : Bool := creditLine s line || descLine s line

/-- Stores to the credit fields of a node-table entry are ignored (R305): memory with those bytes as in `old`. -/
def keepCredits (s : State) (line : Nat) (old new : List Host.Cell) : List Host.Cell :=
  if creditLine s line then
    (List.range 8).foldl (fun m i =>
      let a := 128 * line + 66 + 8 * i
      memWrite (memWrite m a (memRead old a)) (a + 1) (memRead old (a + 1))) new
  else new

/-- Stores to the flags of a sketch parameter word and to its reserved bits, [31:20], are ignored (R3, R304). -/
def keepFlags (s : State) (line : Nat) (old new : List Host.Cell) : List Host.Cell :=
  if descLine s line then
    let a := 128 * line
    memWrite (memWrite new (a + 2) ((memRead new (a + 2) &&& 0x0F#8) ||| (memRead old (a + 2) &&& 0xF0#8)))
      (a + 3) (memRead old (a + 3))
  else new

/-- A write of any agent leaves the fields that only the hardware writes (R304, R305). The bytes that a table in memory reserves,
80 to 127 of a sketch descriptor and 368 to 511 of a node entry, are plain memory: R3 speaks of the reserved bits of registers
(DESIGN CHOICE, log 94). -/
def keepHardware (s : State) (line : Nat) (old new : List Host.Cell) : List Host.Cell :=
  keepFlags s line old (keepCredits s line old new)

/-- Whether a copy is a partial or a privatised part. -/
def L1Kind.isMergeable : L1Kind → Bool
  | .priv _ => true
  | .part .. => true
  | _ => false

/-- Memory once the partials of a line are folded into it (R119, R237). -/
def foldParts (s : State) (line : Nat) : List Host.Cell :=
  match s.partsOf line with
  | [] => s.mem
  | parts => keepHardware s line s.mem (parts.foldl (foldPart line) s.mem)

/-- Drop every coherent copy of a line and fold its partials into memory: what the home does before the line's tag
goes. Leased copies stay (R235). -/
def flattenLine (s : State) (line : Nat) : State :=
  { s with
    mem := foldParts s line
    l1 := s.l1.filter fun c => !(c.line == line && !strandedPart s c && match c.kind with | .leased .. => false | _ => true) }

/-- Evict a tag: its copies are recalled (DEDUCED, log 17), its data entry released, its directory entry ends
(R180, R252). -/
def evictTag (s : State) (line : Nat) : State :=
  match s.tag? line with
  | none => s
  | some t =>
    let s := releaseData (flattenLine s line) line
    let s := { s with tags := s.tags.filter fun x => x.line ≠ line, dir := s.dir.filter fun x => x.line ≠ line }
    let s := s.count (lineMod line) t.vf 0 false
    if t.z then s.count (lineMod line) t.vf 2 false else s

/-- The first way below `n` that a mask allows and `used` does not hold. -/
def freeWay (mask used : Nat → Bool) (n : Nat) : Option Nat := (List.range n).find? fun w => mask w && !used w

/-- The element with the least key, the earlier of equals. -/
def leastBy {α : Type} (key : α → Nat) : List α → Option α
  | [] => none
  | x :: xs => match leastBy key xs with
    | none => some x
    | some y => if key y < key x then some y else some x

/-- Make a free data way in a set under a mask and return it (R180). An entry that a line in state B points at is passed
over, and no way is found when every candidate is one: the spec names no such case (DESIGN CHOICE, log 75). -/
def allocData (s : State) (slice set : Nat) (mask : BitVec 16) : Option Nat × State :=
  match freeWay (fun w => mask.getLsbD w) (fun w => (s.data? slice set w).isSome) 16 with
  | some w => (some w, s)
  | none =>
    match leastBy (fun d => d.count * 2 ^ 64 + d.used)
        (s.datas.filter fun d => d.slice == slice && d.set == set && mask.getLsbD d.way && !(s.tags.any fun t =>
            lineSlice t.line == slice && t.data == some (d.set, d.way) && (s.dirOf t.line).st == 3)) with
    | none => (none, s)
    | some v =>
      let victims := s.tags.filter fun t => lineSlice t.line == slice && t.data == some (v.set, v.way)
      (some v.way, victims.foldl (fun s t => evictTag s t.line) s)

/-- Does a line hold a live sync word (R311)? -/
def State.syncLine (s : State) (line : Nat) : Bool := s.sync.any fun w => w.1 / 16 == line

/-- A data entry is used: its stamp is the newest (R180). -/
def touchData (s : State) (slice set way : Nat) : State :=
  let (n, s) := s.stamp
  { s with datas := mapWhere (fun e => e.slice == slice && e.set == set && e.way == way) (fun e => { e with used := n }) s.datas }

/-- Install content `c` into a line's tag (R178). Content of a line that reads poison makes a poisoned entry, which takes
no reference (R181, R336). -/
def installAs (s : State) (line : Nat) (c : LineData) : State :=
  match s.tag? line with
  | none => s
  | some t =>
    let m := lineMod line
    let s := releaseData s line
    let s := if t.z then (s.modTag line fun t => { t with z := false }).count m t.vf 2 false else s
    if c = 0 then (s.modTag line fun t => { t with z := true }).count m t.vf 2 true
    else
      let dom := if s.syncLine line then none else t.domain
      let h := hashLine (match dom with | some v => (s.vf m v).salt | none => 0) c
      let set := h.toNat % 8192
      let sl := lineSlice line
      let cand := match dom with
        | none => []
        | some v => (List.range 16).filterMap fun w => (s.data? sl set w).bind fun d =>
            if d.hash = h ∧ d.domain = some v then some d else none
      let ok (d : DataEntry) : Bool := decide (d.count < 255) && !d.poisoned && d.data == c
      let before := cand.takeWhile fun d => !ok d
      let s := before.foldl (fun s d =>
        if d.data ≠ c then s.count m t.vf 4 true else if d.count = 255 then s.count m t.vf 5 true else s) s
      match cand.find? ok with
      | some d =>
        let here (e : DataEntry) : Bool := e.slice == sl && e.set == set && e.way == d.way
        let s := { s with datas := mapWhere here (fun e => { e with count := e.count + 1 }) s.datas }
        (touchData (s.modTag line fun t => { t with data := some (set, d.way) }) sl set d.way).count m t.vf 3 true
      | none =>
        match allocData s sl set (s.vf m t.vf).dwmask with
        | (none, s) => s
        | (some w, s) =>
          let (n, s) := s.stamp
          let e : DataEntry := ⟨sl, set, w, c, h, dom, 1, t.vf, s.poison.contains line, n⟩
          (State.modTag { s with datas := e :: s.datas } line fun t => { t with data := some (set, w) }).count m t.vf 1 true

/-- Install what memory holds of a line (R178). -/
def installLine (s : State) (line : Nat) : State := installAs s line (memLine s.mem line)

/-- The content of a line last installed at its home, if its tag says what it is (R178). -/
def homeHeld (s : State) (line : Nat) : Option LineData :=
  (s.tag? line).bind fun t =>
    if t.z then some 0 else t.data.bind fun p => (s.data? (lineSlice line) p.1 p.2).map (·.data)

/-- What the home holds of a line whose copies have bytes not yet written back. -/
def homeContent (s : State) (line : Nat) : LineData := (homeHeld s line).getD (memLine s.mem line)

/-- A tag and the data entry it points at are used (R180). -/
def touchTag (s : State) (t : Tag) : State :=
  let (n, s) := s.stamp
  let s := s.modTag t.line fun t => { t with used := n }
  match t.data with
  | some (set, way) => touchData s (lineSlice t.line) set way
  | none => s

/-- Bring a line into the L2: allocate its tag, evicting the least recently used one where no way is free, and install
what DRAM holds (R178, R180). A tag of a line in state B is no victim (DESIGN CHOICE, log 75). -/
def ensureTag (s : State) (o : Origin) (line : Nat) : State :=
  match s.tag? line with
  | some t => touchTag s t
  | none =>
    let m := lineMod line
    let set := Config.tagSet line % 8192
    let sl := lineSlice line
    let here (t : Tag) : Bool := lineSlice t.line == sl && t.set == set
    let mask := (s.vf m o.vf).twmask
    let (way, s) := match freeWay (fun w => mask.getLsbD w) (fun w => s.tags.any fun t => here t && t.way == w) 24 with
      | some w => (some w, s)
      | none => match leastBy (·.used) (s.tags.filter fun t => here t && mask.getLsbD t.way && (s.dirOf t.line).st != 3) with
        | none => (none, s)
        | some v => (some v.way, evictTag s v.line)
    match way with
    | none => s
    | some w =>
      let (n, s) := s.stamp
      let t : Tag := ⟨line, set, w, o.vf, o.domain, false, false, none, n⟩
      let s := (State.setDir { s with tags := t :: s.tags } (DirEntry.fresh line o.pol)).count m o.vf 0 true
      installLine s line

/-- After bytes [off, off + n) of a line were written at the home, which now holds `c`: copy on write is counted, the
version advances, the words take their `WTAG`, the content is installed (R178, R179, R235, R257). -/
def writeDoneAs (s : State) (line off n : Nat) (pol : BitVec 2) (c : LineData) : State :=
  let s := match s.tag? line with
    | some t => match t.data with
      | some (set, way) => match s.data? (lineSlice line) set way with
        | some d => if 1 < d.count then s.count (lineMod line) t.vf 6 true else s
        | none => s
      | none => s
    | none => s
  let s := s.setDir (((s.dirOf line).bump).tagWords off n pol)
  installAs (s.modTag line fun t => { t with dirty := true }) line c

/-- After bytes of a line were written at the home, which now holds what memory does. -/
def writeDone (s : State) (line off n : Nat) (pol : BitVec 2) : State := writeDoneAs s line off n pol (memLine s.mem line)

/-! ## Recall and merge -/

/-- The merge of a line in state P or C: privatised copies go, partials fold in ascending core number; state I, the
words written tagged 01 (R301). Poison on the line stays (R198). -/
def mergeLine (s : State) (line : Nat) : State :=
  let parts := s.partsOf line
  let offs := parts.flatMap fun p => p.2.map fun e => (e.1, atomSize (copFn p.1))
  let privs : List (BitVec 128) := (s.copiesOf line).filterMap fun c => match c.kind with | .priv k => some k | _ => none
  let s := { s with
    mem := foldParts s line
    l1 := s.l1.filter fun c => !(c.line == line && c.kind.isMergeable && !strandedPart s c) }
  let d := s.dirOf line
  let d := offs.foldl (fun d o => d.tagWords o.1 o.2 1) d
  let d := privs.foldl (fun d k => (List.range 128).foldl (fun d b => if k.getLsbD b then d.tagWords b 1 1 else d) d) d
  let s := s.setDir { (d.setPtrs []) with st := 0, dlv := false, mix := 0, cop := 0, masks := [] }
  writeDone s line 0 0 1

/-- Recall the owner's dirty bytes: its copy goes (R302). -/
def recallOwner (s : State) (line : Nat) : State :=
  let owner := (s.copiesOf line).find? fun c => match c.kind with | .owned _ => true | _ => false
  match owner with
  | none => s
  | some c =>
    let dirty : BitVec 128 := match c.kind with | .owned k => k | _ => 0
    let s := s.dropL1 c.core line
    if dirty = 0 then s
    else
      let d := (List.range 128).foldl (fun d b => if dirty.getLsbD b then d.tagWords b 1 0 else d) (s.dirOf line)
      writeDone (s.setDir d) line 0 0 0

/-- The owner of an entry in state O. -/
def DirEntry.owner (d : DirEntry) : Option Nat := d.ptrs.head?

/-! ## Performing updates -/

/-- Perform one lane's part of an access on memory: the new memory and the value before (R200, R206). -/
def performAcc (fn : AccFn) (mem : List Host.Cell) (a : LaneAcc) : List Host.Cell × DWord :=
  let old := memReadLE mem a.ga a.size
  let mem := match fn with
    | .write => memWriteLE mem a.ga a.size a.data.toNat
    | .atomic f => memWriteLE mem a.ga a.size (atomNew f old (a.data.toNat % 2 ^ (8 * a.size)) a.extra.toNat)
    | _ => mem
  (mem, BitVec.ofNat 64 old)

/-- Perform the lanes of an access in order: the new memory and each lane's old value. -/
def performAccs (fn : AccFn) (mem : List Host.Cell) : List LaneAcc → List Host.Cell × List (Nat × DWord)
  | [] => (mem, [])
  | a :: as =>
    let (mem, v) := performAcc fn mem a
    let (mem, vs) := performAccs fn mem as
    (mem, (a.lane, v) :: vs)

/-- Does the function write? -/
def AccFn.writes : AccFn → Bool
  | .read => false
  | .skQry => false
  | _ => true

/-- The mask of the bytes of a line an access touches. -/
def byteMask (accs : List LaneAcc) : BitVec 128 :=
  accs.foldl (fun k a => k ||| ((BitVec.allOnes 128 >>> (128 - a.size)) <<< (a.ga % 128))) 0

/-- The line with its bytes under a mask taken from memory. -/
def patchLine (old : LineData) (mem : List Host.Cell) (line : Nat) (mask : BitVec 128) : LineData :=
  (List.range 128).foldl (fun d b => if mask.getLsbD b then
    (d &&& ~~~(0xFF#1024 <<< (8 * b))) ||| ((memRead mem (128 * line + b)).setWidth 1024 <<< (8 * b)) else d) old

/-- A core's own leased copy of a line takes the bytes the core has just read or written at the home, so that its
reads never move backwards (R201, R233). -/
def refreshLease (s : State) (core line : Nat) (mask : BitVec 128) : State :=
  match s.l1? core line with
  | some c => match c.kind with
    | .leased cls ex rn ver epo data => s.putL1 { c with kind := .leased cls ex rn ver epo (patchLine data s.mem line mask) }
    | _ => s
  | none => s

/-- A full-line overwrite makes a poisoned line good, a narrower one leaves it poisoned (R198, R336). -/
def unpoison (s : State) (line : Nat) (mask : BitVec 128) : State :=
  if mask = BitVec.allOnes 128 then { s with poison := s.poison.filter (· ≠ line) } else s

/-- Does a core that no path reaches own the line or a part of it? Its bytes must be waited for (R245). -/
def holderCut (s : State) (line : Nat) : Bool :=
  let d := s.dirOf line
  (d.st = 2 || d.st = 4) && d.ptrs.any fun c => noPath s (coreMod c) (lineMod line)

/-- Must a write of the line wait for a core that no path reaches: an owner, or the holder of a partial, over which no
write may be folded (R236, R245, R246)? -/
def writeCut (s : State) (line : Nat) : Bool :=
  holderCut s line || (s.copiesOf line).any fun c => strandedPart s c

/-- Has one half of an `add2h` been performed at a line and the other not? Every other update of the line waits, also one that
the order of the halves would allow between them (R250; DESIGN CHOICE, log 95). -/
def halfDone (s : State) (line : Nat) : Bool := s.reqs.any fun r => r.line == line && r.fn == .atomic 16

/-! ## Rounds (R254) -/

/-- Is a core retired (R323, R340)? -/
def retiredCore (s : State) (core : Nat) : Bool :=
  (s.mod (coreMod core)).rcores.getLsbD (core % 256) || (s.mod (coreMod core)).rclu.getLsbD (coreCluster core % 64)

/-- The number an invalidation's target has: a core, or 4096 + n for the fabric unit of module n. -/
def unitTarget (m : Nat) : Nat := 4096 + m

/-- The members an invalidation round is sent to, a requesting core left out (R254). -/
def roundTargets (s : State) (d : DirEntry) (line : Nat) (q : Option Nat) : List Nat :=
  if !d.crs then d.ptrs.filter fun c => q ≠ some c
  else
    let h := lineMod line
    ((List.range 256).filterMap fun c =>
      if d.shr.getLsbD (c / 4) && q ≠ some (h * 256 + c) && !retiredCore s (h * 256 + c) then some (h * 256 + c) else none) ++
    ((List.range 16).filterMap fun n => if d.mv.getLsbD n then some (unitTarget n) else none)

/-- Must other sharers acknowledge before an agent that keeps no copy may write the line (R254, R302)? -/
def sharersHold (s : State) (line : Nat) : Bool :=
  (s.dirOf line).st = 1 && !(roundTargets s (s.dirOf line) line none).isEmpty

/-- The line enters B and the invalidations go out to some targets; `REQ` names the requesting core (R254). -/
def sendRound (s : State) (line : Nat) (ts : List Nat) (req : Nat) : State :=
  let s := s.setDir { s.dirOf line with st := 3, ack := BitVec.ofNat 12 ts.length, req := BitVec.ofNat 12 req, sent := s.cyc }
  { s with msgs := s.msgs ++ ts.map fun t => Msg.inval t line }

/-- An access of an agent has reached the home of a line whose holder no path reaches: the recall is sent (R245). -/
def sendRecall (s : State) (line : Nat) : State :=
  let d := s.dirOf line
  if holderCut s line && s.nopath.any (fun p => p.h == lineMod line && d.sent < p.since && d.ptrs.any fun c => coreMod c == p.m) then
    s.setDir { d with sent := s.cyc }
  else s

/-- A write of an agent that keeps no copy has reached the home of a line: its sharers are told, or a recall goes to a core that
no path reaches (R245, R254, R302). `REQ` is 0, for no core asks (DESIGN CHOICE, log 77). -/
def openRound (s : State) (line : Nat) : State :=
  if sharersHold s line && !halfDone s line then sendRound s line (roundTargets s (s.dirOf line) line none) 0
  else sendRecall s line

/-- The same for each of a list of lines. -/
def openRounds (s : State) (lines : List Nat) : State := lines.foldl openRound s

/-- An agent's access waits at the homes of some lines. -/
def reachHomes (s : State) (write : Bool) (lines : List Nat) : State :=
  if write then openRounds s lines else lines.foldl sendRecall s

/-- Does the home let an access of an agent that keeps no copy wait: its module has no clock (R347), the line is in a round (R256), or a holder cannot be
reached (R245, R246), or sharers have still to acknowledge a write (R302)? -/
def homeHolds (s : State) (line : Nat) (write : Bool) : Bool :=
  !(s.mod (lineMod line)).done || (s.dirOf line).st = 3 || (if write then writeCut s line || sharersHold s line else holderCut s line)

/-- The same, or an `add2h` is half done there (R250). -/
def homeWaits (s : State) (line : Nat) (write : Bool) : Bool := homeHolds s line write || (write && halfDone s line)

/-- Was an access under way, issued before an identifier was given out, translated through an entry in a line? The line's
translation caches acknowledge a write of it only when that access is performed (R187). -/
def tableBusy (s : State) (line before : Nat) : Bool :=
  let through (core slot m va : Nat) : Bool := match (s.group? core slot).bind fun g => s.team? g.team with
    | some t => walksThrough s { t.tctx with m := m } line va
    | none => false
  s.reqs.any (fun q => decide (q.id < before) && match q.agent with
    | .group core slot => q.accs.any fun a => through core slot (coreMod core) a.va
    | .sideLog _ => false) ||
  s.streams.any fun st => st.flight.any fun p => decide (p.born < before) && p.accs.any fun a => through st.core p.slot st.target a.va

/-- Make every coherent copy of a line give way at once, as an engine's access at the home needs: owner recalled,
privatised copies and partials merged; for a write the tracked copies go too. Accesses that can wait do so while
`homeWaits`; one of the hardware's own is ordered before a round still waiting for acknowledgements (DESIGN CHOICE, log
77). -/
def quiesce (s : State) (o : Origin) (line : Nat) (write : Bool) : State :=
  let s := ensureTag s o line
  let d := s.dirOf line
  if d.st = 4 || d.st = 5 then mergeLine s line
  else if d.st = 2 then
    let vf := (d.owner.bind fun q => (s.l1? q line).map (·.vf)).getD o.vf
    let s := recallOwner s line
    if write then s.setDir { ((s.dirOf line).setPtrs []) with st := 0 }
    else match d.owner with
      | some q => (s.putL1 ⟨q, line, vf, L1Kind.tracked⟩).setDir { (s.dirOf line).setPtrs [q] with st := 1 }
      | none => s
  else if write && d.st = 1 then
    State.setDir { s with l1 := s.l1.filter fun c => !(c.line == line && c.kind == L1Kind.tracked) }
      { ((s.dirOf line).setPtrs []) with st := 0 }
  else if write && 0 < d.turn then s.setDir { d with turn := 0 }
  else s

/-- Read `n` bytes at the home for an agent that keeps no copy (R302). -/
def homeRead (s : State) (o : Origin) (ga n : Nat) : Nat × State :=
  let s := quiesce s o (ga / 128) false
  (s.readGa ga n, s)

/-- A line is poisoned at its home (R181, R336). -/
def poisonLine (s : State) (line : Nat) : State :=
  if s.poison.contains line then s else { s with poison := line :: s.poison }

/-- Write bytes within one line at the home under a `WTAG`, for an agent that keeps no copy (R257, R302). `soft` writes leave the
fields that only the hardware writes; `bad` content is poisoned before it is installed (R181). -/
def homePut (soft bad : Bool) (s : State) (o : Origin) (pol : BitVec 2) (ga : Nat) (bs : List Byte) : State :=
  let line := ga / 128
  let s := quiesce s o line true
  let mem := memWriteBytes s.mem ga bs
  let s := { s with mem := if soft then keepHardware s line s.mem mem else mem }
  let s := unpoison s line ((BitVec.allOnes 128 >>> (128 - bs.length)) <<< (ga % 128))
  writeDone (if bad then poisonLine s line else s) line (ga % 128) bs.length pol

/-- A write under a `WTAG`. -/
def homeWriteAs (s : State) (o : Origin) (pol : BitVec 2) (ga : Nat) (bs : List Byte) : State := homePut false false s o pol ga bs

/-- A home write of the hardware's own: `WTAG` 01 (R257). -/
def homeWriteBytes (s : State) (o : Origin) (ga : Nat) (bs : List Byte) : State := homeWriteAs s o 1 ga bs

/-- Perform an access of a core at the home of its line: the values before, the write effects of R178 and R257 with
the given `WTAG`, the core's leased copy refreshed. -/
def performAtHome (s : State) (core line : Nat) (fn : AccFn) (accs : List LaneAcc) (pol : BitVec 2) :
    State × List (Nat × DWord) :=
  match fn with
  | .read => (refreshLease s core line (byteMask accs), accs.map fun a => (a.lane, BitVec.ofNat 64 (s.readGa a.ga a.size)))
  | _ =>
    let (mem, vs) := performAccs fn s.mem accs
    let s := { s with mem := keepHardware s line s.mem mem }
    let s := if fn = .write then unpoison s line (byteMask accs) else s
    let s := accs.foldl (fun s a => s.setDir ((s.dirOf line).tagWords (a.ga % 128) a.size pol)) s
    (refreshLease (writeDone s line 0 0 pol) core line (byteMask accs), vs)

end Sys2Proof.Machine
end

