-- ==== Sys2Proof/Machine/Records.lean ====
section
/-!
DEFINITION. Node-table entries (17_tables.md R305), the slots of a node queue and the publication of records into it
(15_queues.md R258 to R261, R264), and the records the hardware sends to a supervisor (21_faults_and_recovery.md R333
to R335).
-/
namespace Sys2Proof.Machine

/-! ## Node-table entries -/

/-- A node's entry as read (Table Tables 7). -/
structure NodeEntry where
  kva : Nat
  hva : Nat
  qva : Nat
  seed : Nat
  ctx : Nat
  l0 : Nat
  width : Nat
  grid : Bool
  recCode : Nat
  prio : Nat
  part : Nat
  vf : Nat
  pl : Nat
  err : Bool
  edges : Nat
  gw : Nat
  ga : Nat
  gc : Nat
  gs : Nat
  thresh : Nat
  timeout : Nat
  teams : Nat
  lanes : Nat
  deriving DecidableEq, Repr

/-- Global address of byte `off` of node `n`'s entry. -/
def nodeAddr (s : State) (m n off : Nat) : Nat := m * 2 ^ 40 + (s.mod m).nodeBase + 512 * n + off

/-- A doubleword of a node's entry. -/
def nodeWord (s : State) (m n off : Nat) : Nat := memReadLE s.mem (nodeAddr s m n off) 8

/-- Read a node's entry (Table Tables 7). -/
def nodeEntry (s : State) (m n : Nat) : NodeEntry :=
  let ctx := nodeWord s m n 32
  let ctl := nodeWord s m n 40
  let gr := nodeWord s m n 48
  let st := nodeWord s m n 56
  { kva := nodeWord s m n 0, hva := nodeWord s m n 8, qva := nodeWord s m n 16, seed := nodeWord s m n 24
    ctx := bitsOf ctx 0 12, l0 := bitsOf ctx 13 39 * 8192
    width := 8 * 2 ^ bitsOf ctl 0 2, grid := bitsOf ctl 2 1 = 1, recCode := bitsOf ctl 3 2, prio := bitsOf ctl 5 3
    part := bitsOf ctl 8 8, vf := bitsOf ctl 16 5, pl := bitsOf ctl 21 2, err := bitsOf ctl 23 1 = 1
    edges := bitsOf ctl 24 4
    gw := bitsOf gr 0 8, ga := bitsOf gr 8 8, gc := bitsOf gr 16 8, gs := bitsOf gr 24 8
    thresh := bitsOf st 0 12 + 1, timeout := bitsOf st 12 16, teams := bitsOf st 28 2 + 1, lanes := bitsOf st 32 11 + 1 }

/-- Is the node assigned (`KVA` ≠ 0)? -/
def NodeEntry.assigned (e : NodeEntry) : Bool := e.kva ≠ 0

/-- Record size in bytes. -/
def NodeEntry.z (e : NodeEntry) : Nat := 32 * 2 ^ e.recCode

/-- The context a node's hardware accesses use: its own, at the level of the hardware. -/
def NodeEntry.hwCtx (e : NodeEntry) (m : Nat) : Ctx := ⟨m, e.vf, e.ctx, e.l0, 3⟩

/-- Write a byte of a node's entry on the hardware's behalf. -/
def nodePutByte (s : State) (m n off : Nat) (b : Nat) : State :=
  homeWriteBytes s .hw (nodeAddr s m n off) [BitVec.ofNat 8 b]

/-- Set the node's `ERR` flag (R305). -/
def setNodeErr (s : State) (m n : Nat) : State :=
  nodePutByte s m n 42 ((memRead s.mem (nodeAddr s m n 42)).toNat ||| 0x80)

/-- Credits of edge `i` (Table Tables 7). -/
def edgeCredits (s : State) (m n i : Nat) : Nat := bitsOf (nodeWord s m n (64 + 8 * i)) 16 16
/-- Set the credits of edge `i`. -/
def setCredits (s : State) (m n i c : Nat) : State :=
  homeWriteBytes s .hw (nodeAddr s m n (66 + 8 * i)) [BitVec.ofNat 8 c, BitVec.ofNat 8 (c / 256)]

/-! ## Queues -/

/-- `CAP`. -/
def Queue.cap (q : Queue) : Nat := 2 ^ q.logCap
/-- Record size in bytes. -/
def Queue.z (q : Queue) : Nat := 32 * 2 ^ q.recSize

/-- Advance `PUB` over the run of indices marked done (R260), noting the tick of each (R262). -/
def Queue.advance (tick : Nat) : Nat → Queue → Queue
  | 0, q => q
  | n + 1, q =>
    if q.done.contains q.pub then
      Queue.advance tick n
        { q with pub := q.pub + 1, done := q.done.filter (· ≠ q.pub), pubTicks := q.pubTicks ++ [(q.pub, tick)] }
    else q

/-- Mark an index done and publish what that allows. -/
def Queue.markDone (q : Queue) (tick i : Nat) : Queue :=
  let q := { q with done := i :: q.done }
  q.advance tick q.done.length

/-- Advance `FRE` over the launches that have completed in order (R262): `completed` holds (first index, count). -/
def Queue.freeRun : Nat → Queue → Queue
  | 0, q => q
  | n + 1, q =>
    match q.completed.find? fun p => p.1 = q.fre && 0 < p.2 with
    | some p => Queue.freeRun n { q with fre := q.fre + p.2, completed := q.completed.filter (· ≠ p), wcount := 0 }
    | none => q

/-- Write up to 32 bytes that lie in one line at a virtual address, if it translates to memory; a tag is allocated as for an
access at level `pl` (R177). -/
def writeVirt (s : State) (c : Ctx) (pl va : Nat) (bs : List Byte) : State :=
  match translate s c .write va with
  | .ok p => match p.phys with
    | .dram ga => homeWriteBytes s (originOf s { c with pl := pl } p) ga bs
    | _ => s
  | .error _ => s

/-- Write bytes at a virtual address, 32 at a time (records are multiples of 32, R258). -/
def writeVirtAll (s : State) (c : Ctx) (pl va : Nat) : Nat → List Byte → State
  | 0, _ => s
  | n + 1, bs => if bs.isEmpty then s else writeVirtAll (writeVirt s c pl va (bs.take 32)) c pl (va + 32) n (bs.drop 32)

/-- The virtual address of the slot of a record index. -/
def slotAt (e : NodeEntry) (q : Queue) (i : Nat) : Nat := e.qva + 128 + i % q.cap * q.z

/-- The lines of the next `n` slots of a queue whose homes let a write wait (R256). -/
def slotsHeld (s : State) (m node n : Nat) : List Nat :=
  let e := nodeEntry s m node
  let q := s.queue m node
  ((List.range n).filterMap fun i => match translate s (e.hwCtx m) .write (slotAt e q (q.rsv + i)) with
    | .ok p => match p.phys with
      | .dram ga => some (ga / 128)
      | _ => none
    | .error _ => none).filter fun l => homeWaits s l true

/-- Append records to a queue that has room, on behalf of an agent of level `pl`: reserve, write the slots, mark done; the first
index (R264). -/
def appendRecordsAs (pl : Nat) (s : State) (m node : Nat) (recs : List (List Byte)) : State × Nat :=
  let e := nodeEntry s m node
  let q := s.queue m node
  let i := q.rsv
  let s := s.modQueue m node fun q => { q with rsv := q.rsv + recs.length }
  let s := recs.zipIdx.foldl (fun s r => writeVirtAll s (e.hwCtx m) pl (slotAt e q (i + r.2)) 4 r.1) s
  (s.modQueue m node fun q =>
    let q := { q with done := (List.range recs.length).map (· + i) ++ q.done }
    q.advance s.ltick q.done.length, i)

/-- The hardware's own records. -/
def appendRecords : State → Nat → Nat → List (List Byte) → State × Nat := appendRecordsAs 3

/-- Zero-extend a record to the record size of a queue. -/
def padRecord (q : Queue) (bs : List Byte) : List Byte := (bs ++ List.replicate 128 0).take q.z

/-- The 32 bytes of a supervisor record: common fields and three doublewords (R333). -/
def recordBytes (kind node part vf w1 w2 w3 : Nat) : List Byte :=
  leBytes 2 kind ++ leBytes 2 node ++ leBytes 1 part ++ leBytes 1 vf ++ leBytes 2 0 ++
  leBytes 8 w1 ++ leBytes 8 w2 ++ leBytes 8 w3

/-- Can a record be delivered to a supervisor node for a node of virtual function `vf` (R265, R334)? -/
def canDeliver (s : State) (m sup vf : Nat) : Bool :=
  let e := nodeEntry s m sup
  sup < 0x3FF && e.assigned && e.vf = vf && (s.queue m sup).enAt s.cyc

/-- Deliver a record to a supervisor's queue: at once, or waiting while the queue is full or the home of its slot lets it wait
(R256, R265). -/
def deliverRecord (s : State) (m sup fromNode : Nat) (bs : List Byte) : State :=
  let q := s.queue m sup
  if q.rsv - q.freAt s.cyc < q.cap && q.waiting.isEmpty && (slotsHeld s m sup 1).isEmpty then (appendRecords s m sup [padRecord q bs]).1
  else s.modQueue m sup fun q => { q with waiting := q.waiting ++ [⟨m, fromNode, bs⟩] }

/-- Send a record about a node to its supervisor; false when it could not be delivered, and then `WLOST` is set
(R333). -/
def superRecord (s : State) (m node kind w1 w2 w3 : Nat) : State × Bool :=
  let e := nodeEntry s m node
  let sup := (s.queue m node).sup
  if canDeliver s m sup e.vf then
    (deliverRecord s m sup node (recordBytes kind node e.part e.vf w1 w2 w3), true)
  else (s.modQueue m node fun q => { q with wlost := true }, false)

/-- Report a loss (Table Faults 4): address, side-log sequence, cause, core, lanes or words. -/
def lossRecord (s : State) (m node va seq cause core n : Nat) : State :=
  (superRecord s m node 4 va (seq % 2 ^ 32 + cause * 2 ^ 32) (core % 4096 + n * 65536)).1

/-- A page fault that the module's supervisor must resolve: one record per pair (R334). `bits` is bits 0 to 4 of its
third doubleword. True when the fault is resolved at once as unmappable because no record can be delivered. -/
def raisePageFault (s : State) (c : Ctx) (home node : Nat) (f : PageFault) (bits core slot : Nat) : State × Bool :=
  let pr : Pair := ⟨home, c.vf, c.ctx, f.page⟩
  if s.pairs.contains pr then (s, false)
  else
    let (s, ok) := superRecord s home node 2 (f.page * 65536)
      (c.ctx + core % 4096 * 65536 + slot * 2 ^ 32) (bits + f.poisoned.toNat * 16)
    if ok then ({ s with pairs := s.pairs ++ [pr] }, false) else (s, true)

end Sys2Proof.Machine
end

