-- ==== Sys2Proof/Machine/Ops.lean ====
section
/-!
DEFINITION. The shared operations of the instructions: what is complete at a scope, releases and acquires; waiting;
finishing an instruction with its window position, split merges and safe point; the operand checks every instruction
makes; a group's leaving; taking a trap (21_faults_and_recovery.md R329 to R332, 08 R165) and returning from one.
-/
namespace Sys2Proof.Machine

/-- How a meaning ends: a precise trap; a wait at the instruction that is a group switch (R127), one that leaves
something behind, one whose effect has begun (R216, R315); a wait that is no group switch; or the instruction done. -/
inductive Res where
  | trap (i : TrapInfo)
  | wait
  | held (s : State)
  | began (s : State)
  | pause (s : State)
  | done (s : State)
  deriving DecidableEq, Repr

/-! ## Scopes, completion, release and acquire -/

/-- A scope capped by `VFSTAT.CAP`, with `SCAP` set when it was capped (R161, R239). -/
def capScope (s : State) (x : Issue) (scope : Nat) : Nat × State :=
  let cap := (s.vf x.m x.t.vf).cap.toNat
  if cap < scope then (cap, s.modVf x.m x.t.vf fun v => { v with scap := true }) else (scope, s)

/-- Has the group a side-log entry (R188)? -/
def hasLog (s : State) (core slot : Nat) : Bool := s.log.any fun e => e.core == core && e.slot == slot

/-- Has the group an access across a bank row with a step still to take (R227)? -/
def hasRest (s : State) (g : Group) : Bool := s.rests.any fun r => r.core == g.core && r.slot == g.slot

/-- Has the group an access under way: a request, a value not yet returned, a remote packet, a step of an access
across a bank row (R219, R227)? -/
def hasFlight (s : State) (g : Group) : Bool :=
  !g.txns.isEmpty || hasRest s g || s.reqs.any (fun r => r.agent == .group g.core g.slot) ||
  s.streams.any fun st => st.core == g.core && (st.buffer ++ st.flight).any fun p => p.slot == g.slot

/-- The partials a core holds that have updates of a group (R237). -/
def partialsOf (s : State) (core slot : Nat) : List L1Line :=
  s.l1.filter fun c => c.core == core && match c.kind with | .part _ _ slots _ => slots.contains slot | _ => false

/-- Deliver a core's partial of a line: it waits at the home, `DLV` is set, the holder is removed (R237, R302). It stands
behind what the core delivered before, each element a term of its own in the fold (DESIGN CHOICE, log 78). -/
def deliverPartial (s : State) (core line : Nat) : State :=
  match s.l1? core line with
  | some c => match c.kind with
    | .part cop vals _ pg =>
      let old := match s.l1? (deliveredBase + core) line with
        | some c => match c.kind with | .part _ v _ _ => v | _ => []
        | none => []
      let s := (s.dropL1 core line).putL1 ⟨deliveredBase + core, line, c.vf, .part cop (old ++ vals) [] pg⟩
      let d := s.dirOf line
      s.setDir { d.setPtrs (d.ptrs.filter (· ≠ core)) with dlv := true }
    | _ => s
  | none => s

/-- May the partials that hold a group's updates be delivered now (R246)? -/
def canDeliverAll (s : State) (core slot : Nat) : Bool :=
  (partialsOf s core slot).all fun c => !noPath s (coreMod core) (lineMod c.line)

/-- Deliver the partials that hold a group's updates (R237). -/
def deliverAll (s : State) (core slot : Nat) : State :=
  (partialsOf s core slot).foldl (fun s c => deliverPartial s core c.line) s

/-- Is every access of the group complete at a scope, as a fence or the exit release needs it, once the partials with its
updates are delivered (Table Far Ordering 2, R161, R163, R237)? At group scope a write is complete when issued, a load when its
value is bound. Copies are not waited for (R161, R163). -/
def fenceReady (s : State) (g : Group) (scope : Nat) : Bool :=
  !hasLog s g.core g.slot && (if scope = 0 then g.txns.isEmpty else !hasFlight s g) &&
  (scope < 2 || canDeliverAll s g.core g.slot)

/-- Has the group started a copy into the windows of several teams that has not landed in all (R299)? -/
def multicastOpen (s : State) (g : Group) : Bool :=
  s.copies.any fun c => c.core == g.core && c.slot == g.slot && c.team == g.team && 1 < c.dests.length

/-- Is every access of the group complete at a scope, as a release of an access or of a sync word needs it? At cluster scope or
wider its multicast copies have landed too (Table Far Ordering 2; log 79). -/
def releaseReady (s : State) (g : Group) (scope : Nat) : Bool :=
  fenceReady s g scope && (scope < 2 || !multicastOpen s g)

/-- Is every load, atomic, sketch and remote instruction of the group complete, as an acquire fence needs it (R161)?
Plain stores are not waited for. -/
def acquireReady (s : State) (g : Group) : Bool :=
  g.txns.isEmpty && !(s.reqs.any fun r => r.agent == .group g.core g.slot && r.fn != .write) &&
  !(s.streams.any fun st => st.core == g.core && (st.buffer ++ st.flight).any fun p => p.slot == g.slot) &&
  !s.log.any fun e => e.core == g.core && e.slot == g.slot && (e.remote || e.fn != .write)

/-- What a release leaves: at cluster scope or wider the partials with the group's updates are delivered (R237). -/
def releaseDo (s : State) (core slot scope : Nat) : State := if 2 ≤ scope then deliverAll s core slot else s

/-- What an acquire leaves: at cluster scope or wider the core discards its self-invalidated lines of the virtual
function (R161). -/
def acquireDo (s : State) (core vf scope : Nat) : State :=
  if scope < 2 then s
  else { s with l1 := s.l1.filter fun c => !(c.core == core && c.vf == vf && match c.kind with | .leased .. => true | _ => false) }

/-! ## R region: allocation and spill (R122) -/

/-- Resident blocks of a group. -/
def residentBlocks (g : Group) : Nat :=
  (g.arch.blocks.filter fun b => match b with | .resident _ => true | _ => false).length

/-- Will an access under way write a block that is still unallocated? Its room is kept (R122; log 40). -/
def blockReserved (g : Group) (b : Nat) : Bool :=
  nth g.arch.blocks b .unallocated == .unallocated && g.txns.any fun t => match t.dest with
    | .lanes d n => !t.noWrite && decide (d / 8 ≤ b) && decide (b ≤ (d + n - 1) / 8)
    | .scalar _ => false

/-- Bytes of a core's R region in use: a 1 KiB area per group, its resident blocks, and those under way (R121). -/
def rUsed (s : State) (core : Nat) : Nat :=
  (s.groups.filter fun g => g.core == core).foldl (fun n g =>
    n + 1024 + 32 * g.width * (residentBlocks g + ((List.range 15).filter (blockReserved g)).length)) 0

/-- Bytes of the R region. -/
def rSize (s : State) (core : Nat) : Nat := (s.corePart core).rKiB * 1024

/-- Is the group stopped or parked, so that no split of it can be ready? -/
def Group.parkedNow (g : Group) : Bool :=
  match g.preempt with
  | .parked _ => true
  | .stopped => true
  | _ => false

/-- May a group be spilled: no split of it issued or ready in this clock (R122)? It is not ready where none of its splits was as
the clock began, or where each has been tried in this clock and waits. -/
def spillable (s : State) (g : Group) : Bool :=
  g.issuedAt != some s.cyc && 0 < residentBlocks g &&
  (g.parkedNow || !g.heldPages.isEmpty || g.idle || g.arch.splits.all fun p => p.stalled || p.held)

/-- Spill the lowest resident block. -/
def spillLowest : List Block → List Block
  | [] => []
  | .resident vs :: bs => .spilled vs :: bs
  | b :: bs => b :: spillLowest bs

/-- Make room for `need` bytes in a core's R region by spilling (R122); none when no group can be spilled. The group that needs
the room is never the one spilled (DESIGN CHOICE, log 93). -/
def makeRoom (need core slot : Nat) : Nat → State → Option State
  | 0, _ => none
  | n + 1, s =>
    if rUsed s core + need ≤ rSize s core then some s
    else
      match leastBy (fun g => (g.issuedAt.map (· + 1)).getD 0 * 64 + g.slot)
          (s.groups.filter fun g => g.core == core && g.slot != slot && spillable s g) with
      | none => none
      | some v => makeRoom need core slot n
          (s.modGroup core v.slot fun g => { g with arch := { g.arch with blocks := spillLowest g.arch.blocks } })

/-- The blocks of a list of lane registers that are unallocated and have no room kept, each once. -/
def newBlocks (g : Group) (regs : List Nat) : List Nat :=
  (List.range 15).filter fun b => regs.any (fun r => r / 8 = b) && nth g.arch.blocks b .unallocated = .unallocated &&
    !blockReserved g b

/-- Room for the registers an instruction is about to write. -/
def ensureRoom (s : State) (g : Group) (regs : List Nat) : Option State :=
  match newBlocks g regs with
  | [] => some s
  | bs => makeRoom (32 * g.width * bs.length) g.core g.slot 1024 s

/-- Is a register in a spilled block? -/
def isSpilled (g : Group) (r : Nat) : Bool :=
  match nth g.arch.blocks (r / 8) .unallocated with
  | .spilled _ => r < 120
  | _ => false

/-! ## Waiting -/

/-- The split waits without a group switch. -/
def Group.pause (g : Group) (slot : Nat) : Group :=
  { g with arch := { g.arch with
      splits := mapWhere (fun p => p.slot == slot) (fun p => { p with stalled := true }) g.arch.splits } }

/-- Has the group no split left that could issue in this clock: one holds the whole group, or each waits or is held (R127,
R314)? -/
def Group.switches (g : Group) : Bool :=
  g.arch.splits.any (·.holds) || g.arch.parked.any (·.holds) || g.arch.splits.all fun p => p.stalled || p.held

/-- The latches of a group that is left for another are lost (R127). -/
def Group.lose (g : Group) : Group := { g with arch := { g.arch with window := loseLatches g.arch.window } }

/-- The split waits; where the group has no other split to go on with that is a group switch, and every latch is lost: issuing
another split of the group is none (R127). -/
def Group.stall (g : Group) (slot : Nat) : Group :=
  let g := g.pause slot
  if g.switches then g.lose else g

/-! ## Splits -/

/-- Is the split at the start of its instruction, not between the passes of a remote one or at an `emit` that has issued? -/
def Split.fresh (p : Split) : Bool := p.resume = 0 && p.passTxn.isNone && p.got.isEmpty && p.emitRecs.isNone
/-- See `Split.fresh`. -/
def Parked.fresh (p : Parked) : Bool := p.resume = 0 && p.passTxn.isNone && p.got.isEmpty && p.emitRecs.isNone

/-- Add a running split to the list, merging into one at the same program counter, which keeps its lower slot (R30); a
split between the passes of a remote instruction has not reached its next instruction and does not merge (log 19). Merged
with a split that is held, the split is held; with the handler's, it is the handler's (DESIGN CHOICE, log 80). -/
def mergeInto (p : Split) : List Split → List Split
  | [] => [p]
  | q :: qs =>
    if q.pc = p.pc && q.fresh && p.fresh then
      { q with mask := q.mask ||| p.mask, handler := q.handler || p.handler, held := q.held || p.held, stalled := false } :: qs
    else q :: mergeInto p qs

/-- Insert by slot. -/
def insertSplit (p : Split) : List Split → List Split
  | [] => [p]
  | q :: qs => if p.slot < q.slot then p :: q :: qs else q :: insertSplit p qs

/-- Merge running splits with equal program counters (R30). -/
def mergeRunning (l : List Split) : List Split :=
  (l.foldl (fun acc p => insertSplit p acc) []).foldl (fun acc p => mergeInto p acc) []

/-- Merge parked splits into running ones at the same program counter (R30). -/
def mergeParked (run : List Split) : List Parked → List Split × List Parked
  | [] => (run, [])
  | k :: ks =>
    let same (p : Split) : Bool := p.pc = k.pc && p.fresh && k.fresh
    if run.any same then
      let run := mapWhere same (fun p =>
        { p with mask := p.mask ||| k.mask, handler := p.handler || k.handler, held := p.held || k.held }) run
      mergeParked run ks
    else
      let (run, ks) := mergeParked run ks
      (run, k :: ks)

/-- The lowest running slot not in use. -/
def freeSlot (l : List Split) : Option Nat := (List.range 4).find? fun i => !l.any fun p => p.slot = i

/-- A parked split in a running slot; its last issue stays what it was (R31). -/
def Parked.toSplit (k : Parked) (i : Nat) : Split :=
  { slot := i, pc := k.pc, mask := k.mask, handler := k.handler, held := k.held, issuedAt := k.issuedAt, stalled := false,
    resume := k.resume, passTxn := k.passTxn, got := k.got, waitOn := k.waitOn, killed := k.killed, emitAt := k.emitAt,
    rem := k.rem, emitRecs := k.emitRecs, emitTo := k.emitTo, heldAt := k.heldAt, holds := k.holds }

/-- A running split as it parks at a clock (R29). -/
def Split.toParked (p : Split) (since : Nat) : Parked :=
  { pc := p.pc, mask := p.mask, handler := p.handler, held := p.held, since := since, issuedAt := p.issuedAt,
    resume := p.resume, passTxn := p.passTxn, got := p.got, waitOn := p.waitOn, killed := p.killed, emitAt := p.emitAt,
    rem := p.rem, emitRecs := p.emitRecs, emitTo := p.emitTo, heldAt := p.heldAt, holds := p.holds }

/-- Merge, and let parked splits take free running slots; each such exchange loses the latches (R30, R31, R127). -/
def settle : Nat → Arch → Arch
  | 0, a => a
  | n + 1, a =>
    let run := mergeRunning a.splits
    let (run, parked) := mergeParked run a.parked
    match freeSlot run, parked with
    | some i, k :: ks =>
      settle n { a with
        splits := k.toSplit i :: run
        parked := ks
        window := loseLatches a.window }
    | _, _ => { a with splits := run, parked := parked }

/-- Settle a group's splits. -/
def Group.settle (g : Group) : Group := { g with arch := Machine.settle 64 g.arch }

/-! ## Matrix reservations -/

/-- A free entry of the reservation table (Table Matrix 5). -/
def MEntry.free : MEntry := ⟨0, 0, false, 0, 0, 0, 0, 0, 0, 0, 0, 0, [], none, 0, 0, [], false, 0, 0, 0⟩

/-- The engine of a cluster; one not listed is idle with an empty table (R276; log 9). -/
def Engine.reset (c : Nat) : Engine := ⟨c, none, none, List.replicate 16 MEntry.free, 0, none⟩
/-- The engine of a cluster. -/
def State.engine (s : State) (c : Nat) : Engine := (s.engines.find? fun e => e.cluster == c).getD (Engine.reset c)
/-- Replace an engine by `f` of it. -/
def State.modEngine (s : State) (c : Nat) (f : Engine → Engine) : State :=
  { s with engines := upsert (fun e => e.cluster == c) (f (s.engine c)) s.engines }
/-- Entry `i` of an engine's table. -/
def Engine.entry (e : Engine) (i : Nat) : MEntry := nth e.entries i MEntry.free
/-- Replace entry `i`. -/
def Engine.modEntry (e : Engine) (i : Nat) (f : MEntry → MEntry) : Engine :=
  { e with entries := e.entries.mapIdx fun j x => if j = i then f x else x }

/-- Members of a gang register value (Table Matrix 4): (team, group). -/
def gangMembers (v : DWord) : List (Nat × Nat) :=
  (List.range (v.extractLsb' 48 4).toNat).map fun i => ((v.extractLsb' (8 * i + 5) 2).toNat, (v.extractLsb' (8 * i) 5).toNat)

/-- A member's index in a gang. -/
def gangIndex (v : DWord) (team grp : Nat) : Nat := (gangMembers v).idxOf (team, grp)

/-- Operations of the group that are not complete. -/
def Group.openOps (g : Group) : Nat := (g.mposts.filter fun p => p.status.isNone).length

/-- The bit of a group in its gang's masks. -/
def memberBit (s : State) (g : Group) (gang : DWord) : BitVec 6 :=
  match s.team? g.team with
  | some t => 1#6 <<< gangIndex gang t.num g.num
  | none => 0

/-- The members of an entry's gang whose group is gone: they have released (R163, R296). -/
def goneMembers (s : State) (e : MEntry) (t : Team) : BitVec 6 :=
  (gangMembers e.gang).zipIdx.foldl (fun (b : BitVec 6) m =>
    if s.groups.any fun h => h.num == m.1.2 && match s.team? h.team with
      | some u => u.m == t.m && u.node == t.node && u.act == t.act && u.band == t.band && u.num == m.1.1
      | none => false
    then b else b ||| (1#6 <<< m.2)) 0

/-- The reservation a forced stop released is posted again, once the operations posted under it are complete: a gang's in the
entry its members still hold or have posted again, else in the lowest free entry (R50, R296; log 18); none while it must
wait. -/
def repost (s : State) (g : Group) (e : MEntry) : Option State :=
  let cl := coreCluster g.core
  let same (x : MEntry) : Bool := e.gang ≠ 0 && x.st ≠ 0 && x.gang = e.gang && x.pseq = e.pseq && x.team = e.team
  let put (i : Nat) (f : MEntry → MEntry) : State :=
    (s.modEngine cl fun y => y.modEntry i f).modGroup g.core g.slot fun g => { g with mentry := some i, savedRes := none }
  if 0 < g.openOps then none
  else if e.gang = 0 then
    ((List.range 16).find? fun i => ((s.engine cl).entry i).st = 0).map fun i => put i fun _ => e
  else
    let gone := match s.team? g.team with | some t => goneMembers s e t | none => 0
    match (List.range 16).find? fun i => same ((s.engine cl).entry i) with
    | some i => some (put i fun x => { x with away := x.away &&& ~~~memberBit s g e.gang, rel := x.rel ||| gone })
    | none => ((List.range 16).find? fun i => ((s.engine cl).entry i).st = 0).map fun i =>
        put i fun _ => { e with away := ~~~memberBit s g e.gang, rel := e.rel ||| gone }

/-- Free entry `i`: `LOWN` is cleared if it names it (R294). -/
def Engine.freeEntry (e : Engine) (i : Nat) : Engine :=
  { e.modEntry i fun _ => MEntry.free with lown := if e.lown = some i then none else e.lown }

/-- Free an entry that every holder has released, or a forced stop has, and whose operations are done (R50, R294). -/
def Engine.reap (e : Engine) (i : Nat) : Engine :=
  let x := e.entry i
  let all := if x.gang = 0 then x.exited else
    (List.range (gangMembers x.gang).length).all fun k => (x.rel ||| x.away).getLsbD k
  if x.st ≠ 0 && all && x.posted.isEmpty && (e.running.map (·.1)) ≠ some i then e.freeEntry i else e

/-- The group gives up its reservation; the entry is freed once its operations are done (R163, R294, R296). -/
def dropReservation (s : State) (core slot : Nat) : State :=
  match s.group? core slot with
  | none => s
  | some g => match g.mentry, s.team? g.team with
    | some i, some t =>
      let s := s.modEngine (coreCluster core) fun e =>
        (e.modEntry i fun x =>
          if x.gang = 0 then { x with exited := true }
          else
            let bit := 1#6 <<< gangIndex x.gang t.num g.num
            { x with rel := x.rel ||| bit, arr := if x.st = 1 then x.arr else x.arr &&& ~~~bit, go := x.go &&& ~~~bit }).reap i
      s.modGroup core slot fun g => { g with mentry := none }
    | _, _ => s

/-- A member held at the rendezvous latch that is stopped withdraws its arrival (R296). -/
def withdrawArrival (s : State) (core slot : Nat) : State :=
  match s.group? core slot with
  | none => s
  | some g => match g.mentry, s.team? g.team with
    | some i, some t => s.modEngine (coreCluster core) fun e => e.modEntry i fun x =>
        if x.st = 1 then x else { x with arr := x.arr &&& ~~~(1#6 <<< gangIndex x.gang t.num g.num) }
    | _, _ => s

/-! ## Pre-emption stops -/

/-- Park a group at a safe point, under its mask word (R48, R49). An access under way is not waited for: its value lands later, in a
block the mask called dead too, which it allocates anew (R120; DESIGN CHOICE, log 98). -/
def parkAt (s : State) (core slot : Nat) (mask : BitVec 32) : State :=
  let s := s.modGroup core slot fun g =>
    { g with
      preempt := .parked false
      pending := if mask.getLsbD 14 then g.pending else []
      badBlocks := g.badBlocks.filter fun b => mask.getLsbD (17 + b)
      arch := { g.arch with
        window := loseLatches g.arch.window
        blocks := g.arch.blocks.mapIdx fun b x => if mask.getLsbD (17 + b) then x else .unallocated
        aregs := if mask.getLsbD 13 then g.arch.aregs else g.arch.aregs.map fun a => { a with base := 0, limit := 0 } } }
  if mask.getLsbD 15 then withdrawArrival s core slot else dropReservation s core slot

/-! ## Finishing an instruction -/

/-- Note the issue of the group's split (R45). -/
def Group.issued (g : Group) (cyc slot : Nat) : Group :=
  { g with age := 0, waited := 0, issuedAt := some cyc, lastSlot := slot }

/-- A split that has executed, now at `pc`. -/
def Split.advance (pc : VAddr) (cyc : Nat) (p : Split) : Split :=
  { p with
    pc := pc, issuedAt := cyc, stalled := false, resume := 0, passTxn := none, got := [], waitOn := none, killed := false
    emitAt := none, rem := none, emitRecs := none, emitTo := none, heldAt := 0, holds := false }

/-- A split that enters the handler (R165). -/
def Split.toHandler (hva : VAddr) (cyc : Nat) (p : Split) : Split := { p.advance hva cyc with handler := true }

/-- The next place in the group's held-trap queue (R275). -/
def Group.holdNext (g : Group) : Nat :=
  (g.arch.splits.map (·.heldAt) ++ g.arch.parked.map (·.heldAt)).foldl max 0 + 1

/-- A split held before its instruction while the handler runs, at a place of the held-trap queue (R165, R275). -/
def Split.hold (n : Nat) (p : Split) : Split := { p with held := true, stalled := true, heldAt := n }

/-- The group after its split has executed: the window takes the latch, the split goes to `pc`, splits merge; a safe
point loses the latches (R80, R91, R127). -/
def Group.retire (g : Group) (cyc slot : Nat) (sp : Sp) (l : Latch) (pc : VAddr) : Group :=
  let w := pushLatch g.arch.window l
  let arch := { g.arch with
    window := if sp.isSome then loseLatches w else w
    splits := mapWhere (fun p => p.slot == slot) (Split.advance pc cyc) g.arch.splits }
  let g := ({ g with arch := arch }.issued cyc slot).settle
  let g := if g.faultSplit = slot then { g with failedPages := [], retried := [] } else g
  { g with
    twi := g.twi.map fun t => { t with younger := t.younger + 1 } }

/-- A requested pre-emption takes the safe point whose instruction has executed (R48). -/
def takeSafePoint (s : State) (x : Issue) (sp : Sp) (g : Group) : State :=
  match sp, g.preempt with
  | some mask, .asked _ => parkAt s x.cur.core x.cur.slot mask
  | _, _ => s

/-- The instruction is done: the group is put back and a requested pre-emption takes a safe point (R48). -/
def finishAt (s : State) (x : Issue) (sp : Sp) (g : Group) (l : Latch) (pc : VAddr) : State :=
  takeSafePoint (s.setGroup (g.retire s.cyc x.cur.split sp l pc)) x sp g

/-- Done, at the fall-through address. -/
def finish (s : State) (x : Issue) (sp : Sp) (g : Group) (l : Latch) : State := finishAt s x sp g l x.cur.next

/-- Replace the issuing split by `f` of it. -/
def modSplit (s : State) (x : Issue) (f : Split → Split) : State :=
  s.modGroup x.cur.core x.cur.slot fun g => { g with arch := { g.arch with
    splits := mapWhere (fun p => p.slot == x.cur.split) f g.arch.splits } }

/-- The split waits at an instruction that holds its whole group until a home has replied (R168, R314, R345). -/
def holdGroup (s : State) (x : Issue) : State := modSplit s x fun p => { p with holds := true }

/-- An instruction that has held its group until a home replied is done: that wait was a group switch (R127, R314, R345). -/
def homeReplied (s : State) (x : Issue) : State := s.modGroup x.cur.core x.cur.slot Group.lose

/-- Done, with no lane result. -/
def finishPlain (s : State) (x : Issue) (sp : Sp) (g : Group) : State := finish s x sp g Latch.zero

/-! ## Barriers that a group leaves (R53, R316, R317) -/

/-- Write a sync word at its home. The flags of a sketch descriptor and the credits of a node entry, which only the hardware
writes, stay as they are where the word lies on them (R4, R304, R305; DESIGN CHOICE, log 96). -/
def putWord8 (o : Origin) (s : State) (ga : Nat) (v : Nat) : State := homePut true false s o 1 ga (leBytes 8 v)

/-- The phase of a barrier word completes: `ARR` 0, the next `PH`, and an arrival is sent to its parent (R316). -/
def completePhase (o : Origin) (s : State) (ga : Nat) (va : VAddr) (c : Ctx) (depth : Nat) (w : Nat) : State :=
  let ph := (bitsOf w 32 8 + 1) % 256
  let s := putWord8 o s ga (bitsOf w 40 24 * 2 ^ 40 + ph * 2 ^ 32 + bitsOf w 0 16)
  let s := { s with teams := s.teams.map fun t =>
    { t with bars := mapWhere (fun b => b.word == ga) (fun b => { b with arrived := 0 }) t.bars } }
  if bitsOf w 40 24 = 0 then s
  else
    let off := BitVec.ofInt 56 (8 * signed 24 (bitsOf w 40 24))
    { s with parents := s.parents ++ [⟨va + off, c.m, c.vf, c.ctx, c.l0, c.pl, depth⟩] }

/-- Arrive(x, depth) at a live barrier (R316). -/
def arrive (o : Origin) (s : State) (ga : Nat) (va : VAddr) (c : Ctx) (depth : Nat) : State :=
  let w := memReadLE s.mem ga 8
  let arr := bitsOf w 16 16 + 1
  if bitsOf w 0 16 ≤ arr then completePhase o s ga va c depth w
  else putWord8 o s ga (w - bitsOf w 16 16 * 2 ^ 16 + arr % 2 ^ 16 * 2 ^ 16)

/-- The origin of the hardware's own write of a virtual address: that of its page, if it translates still (R177, R252). -/
def originAt (s : State) (c : Ctx) (va : Nat) : Origin :=
  match translate s c .read va with
  | .ok p => originOf s c p
  | .error _ => ⟨c.vf, none, 1⟩

/-- A group leaves one team barrier of its team (R317). -/
def leaveBarrier (grp : Nat) (c : Ctx) (uid : Nat) (s : State) (b : TeamBar) : State :=
  if !b.members.getLsbD grp then s
  else
    let gone (x : TeamBar) : TeamBar := { x with members := x.members &&& ~~~(1#32 <<< grp) }
    let s := s.modTeam uid fun t => { t with bars := mapWhere (fun x => x.word == b.word) gone t.bars }
    let w := memReadLE s.mem b.word 8
    let ex := bitsOf w 0 16 - 1
    let arr := if b.arrived.getLsbD grp then bitsOf w 16 16 - 1 else bitsOf w 16 16
    let w := w - w % 2 ^ 32 + arr * 2 ^ 16 + ex
    let o := originAt s c b.va.toNat
    if 0 < ex && arr = ex then completePhase o s b.word b.va c 1 w else putWord8 o s b.word w

/-! ## A group leaves its core -/

/-- The group's blocks, latches, gang register and slot are gone; it has left every team barrier and its reservation
(R163). -/
def leaveCore (s : State) (core slot : Nat) : State :=
  match s.group? core slot with
  | none => s
  | some g =>
    let s := dropReservation s core slot
    let s := match s.team? g.team with
      | some t => t.bars.foldl (leaveBarrier g.num t.tctx t.uid) s
      | none => s
    { s with groups := s.groups.filter fun h => !(h.core == core && h.slot == slot) }

/-- Has every group of a team exited? -/
def Team.allExited (t : Team) : Bool := (List.range t.groups).all fun g => t.exited.getLsbD g

/-- The activation a team belongs to. -/
def State.modAct (s : State) (m node act : Nat) (f : Activation → Activation) : State :=
  { s with acts := mapWhere (fun a => a.m == m && a.node == node && a.act == act) f s.acts }

/-- The last group of a team has exited: the team exits and its granules are free, unless a copy still reads one of
its sealed windows (R27, R300). -/
def exitTeam (s : State) (uid : Nat) : State :=
  match s.team? uid with
  | none => s
  | some t =>
    if !t.allExited then s
    else
      let s := s.modAct t.m t.node t.act fun a => { a with teamsLeft := a.teamsLeft - 1 }
      if t.regions.any fun r => r.sealed && 0 < r.rcnt then s.modTeam uid fun t => { t with exitDone := true, bars := [] }
      else { s with teams := s.teams.filter fun x => x.uid ≠ uid }

/-- The group exits (R27, R163). -/
def exitGroup (s : State) (core slot : Nat) : State :=
  match s.group? core slot with
  | none => s
  | some g =>
    let s := leaveCore s core slot
    exitTeam (s.modTeam g.team fun t => { t with exited := t.exited ||| (1#32 <<< g.num) }) g.team

/-! ## Traps -/

/-- `KIND` (Table Faults 1). -/
def TrapKind.code : TrapKind → Nat
  | .fetch => 1 | .illins => 2 | .illmask => 3 | .illopnd => 4 | .priv => 5 | .latchlost => 6 | .pcalign => 7
  | .perm => 8 | .attr => 9 | .bounds => 10 | .align => 11 | .page => 12 | .poison => 13 | .sketch => 14
  | .peer => 15 | .queue => 16 | .matrix => 17 | .sync => 18 | .unreach => 19 | .trap => 20 | .regpsn => 21
  | .retire => 22

/-- TCAUSE (Table Faults 2). -/
def TrapInfo.cause (i : TrapInfo) (dbl : Bool) : DWord :=
  let lane := match i.lane with | none => 2 ^ 22 | some l => l % 64 * 2 ^ 16
  BitVec.ofNat 64 (i.write.toNat * 2 ^ 29 + i.zo.toNat * 2 ^ 28 + i.peer % 16 * 2 ^ 24 + i.fetch.toNat * 2 ^ 23 + lane +
    dbl.toNat * 2 ^ 15 + i.code % 128 * 2 ^ 8 + i.kind.code)

/-- A trap of the whole split. -/
def trapAll (k : TrapKind) : TrapInfo := { kind := k }

/-- Trap state as entry writes it (R331). -/
def TrapState.enter (t : TrapState) (x : Issue) (i : TrapInfo) (dbl : Bool) : TrapState :=
  { t with
    tcause := i.cause dbl
    tpc := x.cur.pc.setWidth 64
    taddr := BitVec.ofNat 64 i.addr
    tinsn := x.cur.word.setWidth 64
    tmask := x.sp.mask
    pass := i.pass }

/-- A faulted group whose accesses are complete leaves the core; its node's `ERR` is set and its supervisor is told
(R332). -/
def faultLeave (s : State) (core slot : Nat) : State :=
  match s.group? core slot with
  | none => s
  | some g => match s.team? g.team with
    | none => s
    | some t =>
      let s := leaveCore s core slot
      let s := s.modAct t.m t.node t.act fun a => { a with faulted := true }
      let s := setNodeErr s t.m t.node
      (superRecord s t.m t.node 3 g.trap.tcause.toNat g.trap.tpc.toNat (core % 4096 + slot * 65536)).1

/-- A group fault (R332). -/
def groupFault (s : State) (x : Issue) (i : TrapInfo) (dbl : Bool) : State :=
  let s := s.modGroup x.cur.core x.cur.slot fun g =>
    ({ g with trap := g.trap.enter x i dbl, faulted := true } : Group).stall x.cur.split
  if !hasFlight s x.g && !hasLog s x.cur.core x.cur.slot then faultLeave s x.cur.core x.cur.slot else s

/-- The group in handler mode: trap state written, latches saved, the handler's window empty, its split at the handler
address (R165). -/
def Group.enterHandler (g : Group) (cyc : Nat) (x : Issue) (i : TrapInfo) (hva : VAddr) : Group :=
  let g := { g with
    trap := { g.trap.enter x i false with handler := true, savedWindow := g.arch.window }
    failedPages := []
    retried := []
    arch := { g.arch with
      window := []
      splits := mapWhere (fun p => p.slot == x.cur.split) (Split.toHandler hva cyc) g.arch.splits } }
  (g.issued cyc x.cur.split).settle

/-- Take a trap (R165, R275, R332). A trap behind an unconfirmed load waits for the reply (R226); one of another split
while the handler runs is held; one of the handler itself, REGPSN, or one of a node with no handler is a group fault. -/
def takeTrap (s : State) (x : Issue) (i : TrapInfo) : State :=
  if x.g.twi.isSome then s.modGroup x.cur.core x.cur.slot fun g => g.pause x.cur.split
  else if i.kind = .regpsn then groupFault s x i x.sp.handler
  else if x.sp.handler then groupFault s x i true
  else if x.g.trap.handler then
    s.modGroup x.cur.core x.cur.slot fun g => { g with arch := { g.arch with
      splits := mapWhere (fun p => p.slot == x.cur.split) (Split.hold g.holdNext) g.arch.splits } }
  else if x.t.hva = 0 then groupFault s x i false
  else s.modGroup x.cur.core x.cur.slot fun g => g.enterHandler s.cyc x i x.t.hva

/-- A split after `rfe` of the split in `slot`; its place in the held-trap queue marks that it issues again (R166, R275). -/
def Split.afterRfe (pc : VAddr) (cyc slot resume : Nat) (p : Split) : Split :=
  if p.slot == slot then { p.advance pc cyc with handler := false, held := false, resume := resume }
  else { p with handler := false, held := false, stalled := false }

/-- A parked split after `rfe`. -/
def Parked.free (p : Parked) : Parked := { p with handler := false, held := false }

/-- The group after `rfe`: handler mode ends, the saved latches are back, the splits held go on (R166, R275). -/
def Group.leaveHandler (g : Group) (cyc slot resume : Nat) (pc : VAddr) : Group :=
  let g := { g with
    trap := { g.trap with handler := false, savedWindow := [] }
    arch := { g.arch with
      window := g.trap.savedWindow
      splits := g.arch.splits.map (Split.afterRfe pc cyc slot resume)
      parked := g.arch.parked.map Parked.free } }
  (g.issued cyc slot).settle

/-- Take a trap for the issuing instruction named by `cur`: one that its encoding alone decides, before every other check
(R94). -/
def trapHere (s : State) (i : TrapInfo) : Out := withIssue s fun x => .next (takeTrap s x i)

/-! ## Operands -/

/-- What an instruction reads and writes: selectors, lane and scalar registers, the privilege it needs, and whether it
may issue behind an unconfirmed load (Table Near Ordering 1). -/
structure Use where
  sels : List (BitVec 8) := []
  lr : List Nat := []
  lw : List Nat := []
  sr : List Nat := []
  sw : List Nat := []
  pl : Nat := 0
  twi : Bool := false
  /-- the word names an operand there is none of -/
  bad : Bool := false
  deriving DecidableEq, Repr

/-- Bits [12:0] of a mask word are 0x1FFD and bit 16 is 0 (R90). -/
def maskOk (sp : Sp) : Bool :=
  match sp with
  | none => true
  | some m => m.extractLsb' 0 13 == 0x1FFD#13 && !m.getLsbD 16

/-- Selector 0x88 to 0x8F, or a register that may not be read or written (R78, R82, R133). -/
def Use.illegal (u : Use) : Bool :=
  u.bad || u.sels.any (fun a => 0x88 ≤ a.toNat && a.toNat ≤ 0x8F) || u.lr.any (fun r => 128 ≤ r) || u.lw.any (fun r => 120 ≤ r) ||
  u.sw.any fun r => 48 ≤ r

/-- The latches the selectors read. -/
def Use.latches (u : Use) (g : Group) : List Latch :=
  u.sels.filterMap fun a => if 0x80 ≤ a.toNat && a.toNat ≤ 0x87 then some (latchOf g (a.toNat - 0x7F)) else none

/-- The lane registers that are read, by selector, through a lost latch, or by name. -/
def Use.laneReads (u : Use) (g : Group) : List Nat :=
  u.lr ++ (u.sels.filterMap fun a => if a.toNat < 0x80 then some a.toNat else none) ++
  (u.latches g).filterMap fun l => if l.lost && l.vals.isSome then some l.d else none

/-- The scalar registers that are read. -/
def Use.scalReads (u : Use) : List Nat :=
  u.sr ++ u.sels.filterMap fun a => if 0x90 ≤ a.toNat && a.toNat < 0xC0 then some (a.toNat - 0x90) else none

/-- Is a value read that an access has not yet returned (R127, R200)? -/
def Use.pending (u : Use) (g : Group) : Bool :=
  (u.latches g).any (fun l => l.pending g) ||
  g.txns.any fun t => match t.dest with
    | .lanes d n => !t.noWrite && (u.laneReads g).any fun r => d ≤ r && r < d + n
    | .scalar d => u.scalReads.contains d

/-- Does an unconfirmed load keep the instruction from issuing (Table Near Ordering 1)? -/
def Use.twiBlocked (u : Use) (g : Group) (sp : Sp) : Bool :=
  match g.twi with
  | none => false
  | some t => !u.twi || sp.isSome || 7 ≤ t.younger

/-- Is a register block read that failed error correction (R336)? -/
def Use.badRead (u : Use) (g : Group) : Bool :=
  (u.laneReads g).any fun r => r < 120 && g.badBlocks.contains (r / 8)

/-- Does the issue meet REGPSN: it reads a bad block, or the group's area is bad (R336)? An instruction with passes behind
it reads no register again (R153, R216). -/
def Use.badIssue (u : Use) (x : Issue) : Bool := (x.sp.rem.isNone && u.badRead x.g) || x.g.badArea || x.g.badResume

/-- Which storage failed (Table Faults 1): the save slot, the group's area, a block. -/
def Group.badCode (g : Group) : Nat := if g.badResume then 4 else if g.badArea then 3 else 2

/-- Is a status register read that an `emit` of another split, which has issued, has still to write (R264)? -/
def Use.emitPending (u : Use) (x : Issue) : Bool :=
  x.g.arch.splits.any (fun p => p.slot != x.cur.split && p.emitTo.any u.scalReads.contains) ||
  x.g.arch.parked.any fun p => p.emitTo.any u.scalReads.contains

/-- Must an operand be waited for: a value under way, a spilled block (R122, R127)? A remote instruction with passes behind
it reads no register again (R153). -/
def Use.waits (u : Use) (x : Issue) : Bool :=
  x.sp.rem.isNone && (u.pending x.g || u.emitPending x || (u.laneReads x.g ++ u.lw).any (isSpilled x.g))

/-- The checks of R94 that follow the encoding's, then the waits for operands and room (R122, R127). A wait for room is no
group switch: R127 does not list it. -/
def useCheck (s : State) (x : Issue) (sp : Sp) (u : Use) : Res :=
  if !maskOk sp then .trap (trapAll .illmask)
  else if u.illegal then .trap (trapAll .illopnd)
  else if x.t.pl < u.pl then .trap (trapAll .priv)
  else if (u.latches x.g).any Latch.raisesLost then .trap (trapAll .latchlost)
  else if u.twiBlocked x.g sp || u.waits x then .wait
  else match ensureRoom s x.g u.lw with
    | none => .pause s
    | some s => .done s

/-- What a result makes of the state: a trap is taken in the state before the instruction (R94). -/
def conclude (s : State) (x : Issue) (bad : Bool) (r : Res) : State :=
  match r with
  | .trap i => takeTrap s x i
  | .wait => s.modGroup x.cur.core x.cur.slot fun g => g.stall x.cur.split
  | .held s' => s'.modGroup x.cur.core x.cur.slot fun g => g.stall x.cur.split
  | .began s' => if bad then takeTrap s x { kind := .regpsn, code := x.g.badCode }
      else s'.modGroup x.cur.core x.cur.slot fun g => g.stall x.cur.split
  | .pause s' => s'.modGroup x.cur.core x.cur.slot fun g => g.pause x.cur.split
  | .done s' => if bad then takeTrap s x { kind := .regpsn, code := x.g.badCode } else s'

/-- Run an instruction: checks, waits, its own effect, and REGPSN last (R94, R330). -/
def withOps (s : State) (sp : Sp) (u : Use) (k : State → Issue → Res) : Out :=
  withIssue s fun x =>
    .next (match useCheck s x sp u with
      | .done s' => conclude s x (u.badIssue x) (k s' x)
      | r => conclude s x false r)

end Sys2Proof.Machine
end

