-- ==== Sys2Proof/Machine/Operands.lean ====
section
/-!
DEFINITION. Operand selectors and how they are read (04_formats_and_opcode_map.md R78, R79), and the common end of a
lane operation (07_lane_and_scalar_instructions.md R135).
-/
namespace Sys2Proof.Machine

/-- How an immediate is read (Table Formats 5). -/
inductive Reading where
  | bits
  | fp32
  | bf16
  deriving DecidableEq, Repr

/-- The immediate `k` of a selector under a reading. -/
def immediate (rd : Reading) (k : BitVec 6) : Word :=
  match rd with
  | .bits => k.signExtend 32
  | .fp32 => immF32 k.toInt
  | .bf16 => immBf16 k.toInt

/-- The value a selector delivers to lane `L` (Table Formats 4). -/
def opVal (rd : Reading) (x : Issue) (sel : BitVec 8) (L : Nat) : Word :=
  let a := sel.toNat
  if a < 0x80 then laneReg x.t x.g a L
  else if a < 0x88 then (latchOf x.g (a - 0x7F)).read x.t x.g L
  else if a < 0x90 then 0
  else if a < 0xC0 then (nth x.g.arch.sregs (a - 0x90) 0).setWidth 32
  else immediate rd (sel.extractLsb' 0 6)

/-- The values of a latch: the results in the active lanes; in the others what D holds after the instruction, or zero
when D was not written (R80). -/
def latchVals (x : Issue) (n : Bool) (d : Nat) (r : Nat → Word) : List Word :=
  (List.range x.g.width).map fun L =>
    if x.active.getLsbD L then r L else if n then 0 else laneReg x.t x.g d L

/-- The flags of all active lanes (R108). -/
def allFlags (x : Issue) (r : Nat → Word × Flags) : Flags := x.lanes.foldl (fun f L => f ||| (r L).2) 0

/-- The end of a lane operation: D written unless `N` = 1, flags ORed, latch pushed (R135). -/
def laneDone (s : State) (x : Issue) (sp : Sp) (n : Bool) (d : Nat) (r : Nat → Word × Flags) : State :=
  let vals := latchVals x n d fun L => (r L).1
  let g := if n then x.g else x.g.putLane d x.active fun L => nth vals L 0
  finish s x sp (g.orFlags (allFlags x r)) ⟨some vals, d, n, false, none, if n then [] else owedOf x.g d (~~~x.active)⟩

/-- Registers a lane operation writes. -/
def laneWrites (n : Bool) (d : BitVec 7) : List Nat := if n then [] else [d.toNat]

/-- A lane operation of format V: `op` gets the group's rounding environment, a, b and d (R135). `useD` says whether
it reads D (R139). -/
def vOp (rd : Reading) (useD : Bool) (op : FpEnv → Word → Word → Word → Word × Flags) (f : VForm) (s : State) : Out :=
  withOps s f.sp { sels := [f.a, f.b], lr := if useD then [f.d.toNat] else [], lw := laneWrites f.n f.d, twi := true }
    fun s x => .done (laneDone s x f.sp f.n f.d.toNat fun L =>
      op (fpEnv x.g) (opVal rd x f.a L) (opVal rd x f.b L) (if useD then laneReg x.t x.g f.d.toNat L else 0))

/-- A lane operation of format X with one operand, and D where it reads it (R87). -/
def xOp (rd : Reading) (useD : Bool) (sp : Sp) (n : Bool) (d : BitVec 7) (a : BitVec 8)
    (op : FpEnv → Word → Word → Word × Flags) (s : State) : Out :=
  withOps s sp { sels := [a], lr := if useD then [d.toNat] else [], lw := laneWrites n d, twi := true }
    fun s x => .done (laneDone s x sp n d.toNat fun L =>
      op (fpEnv x.g) (opVal rd x a L) (if useD then laneReg x.t x.g d.toNat L else 0))

/-- A quad or group operation: `op` sees the issue and the lane (R158, R159). It waits for an unconfirmed load. -/
def groupOp (rd : Reading) (useD : Bool) (sp : Sp) (n : Bool) (d : BitVec 7) (a : BitVec 8)
    (op : Issue → (Nat → Word) → Nat → Word × Flags) (s : State) : Out :=
  withOps s sp { sels := [a], lr := if useD then [d.toNat] else [], lw := laneWrites n d }
    fun s x => .done (laneDone s x sp n d.toNat (op x (opVal rd x a)))

/-- The selector a short `A` stands for (R76). -/
def shortSel (imm : Bool) (a : BitVec 5) : BitVec 8 :=
  if imm then 0xC0 + (a.signExtend 6).setWidth 8
  else if a.toNat < 24 then a.setWidth 8 else 0x80 + (a.setWidth 8 - 24)

/-- The 32-bit equivalent of a 16-bit form (R76). -/
def shortV (f : ShortForm) : VForm := ⟨none, false, f.d.setWidth 7, f.d.setWidth 8, shortSel f.imm f.a⟩

/-- The 32-bit equivalent of `mov`: both selectors are the short `A` (R76). -/
def shortMov (f : ShortForm) : VForm :=
  ⟨none, false, f.d.setWidth 7, shortSel f.imm f.a, shortSel f.imm f.a⟩

end Sys2Proof.Machine
end

