-- ==== Sys2Proof/Machine/LaneInt.lean ====
section
/-!
DEFINITION. The V-format integer lane operations and their 16-bit forms (07_lane_and_scalar_instructions.md R137 to R139).
-/
namespace Sys2Proof.Machine

/-- A result with no flag. -/
def plain (w : Word) : Word × Flags := (w, 0)

/-- A shift count is B[7:0] unsigned (R138). -/
def shiftCount (b : Word) : Nat := (b.extractLsb' 0 8).toNat

/-- `shl` (Table Lane 1). -/
def shlWord (a b : Word) : Word := a <<< shiftCount b
/-- `shrl` (Table Lane 1). -/
def shrlWord (a b : Word) : Word := a >>> shiftCount b
/-- `shra` (Table Lane 1). -/
def shraWord (a b : Word) : Word := a.sshiftRight (shiftCount b)
/-- `imulh`: bits [63:32] of the signed product. -/
def mulhWord (a b : Word) : Word := BitVec.ofInt 32 (a.toInt * b.toInt / 2 ^ 32)
/-- `imulhu`: bits [63:32] of the unsigned product. -/
def mulhuWord (a b : Word) : Word := BitVec.ofNat 32 (a.toNat * b.toNat / 2 ^ 32)
/-- Signed minimum. -/
def minWord (a b : Word) : Word := if b.slt a then b else a
/-- Signed maximum. -/
def maxWord (a b : Word) : Word := if a.slt b then b else a
/-- Unsigned minimum. -/
def uminWord (a b : Word) : Word := if b.ult a then b else a
/-- Unsigned maximum. -/
def umaxWord (a b : Word) : Word := if a.ult b then b else a

/-- `iadd` (Table Lane 1). -/
def execIadd (f : VForm) (s : State) : Out :=
  vOp .bits false (fun _ a b _ => plain (a + b)) f s

/-- `isub` (Table Lane 1). -/
def execIsub (f : VForm) (s : State) : Out :=
  vOp .bits false (fun _ a b _ => plain (a - b)) f s

/-- `imul` (Table Lane 1). -/
def execImul (f : VForm) (s : State) : Out :=
  vOp .bits false (fun _ a b _ => plain (a * b)) f s

/-- `imulh` (Table Lane 1). -/
def execImulh (f : VForm) (s : State) : Out :=
  vOp .bits false (fun _ a b _ => plain (mulhWord a b)) f s

/-- `imulhu` (Table Lane 1). -/
def execImulhu (f : VForm) (s : State) : Out :=
  vOp .bits false (fun _ a b _ => plain (mulhuWord a b)) f s

/-- `imad` (Table Lane 1). -/
def execImad (f : VForm) (s : State) : Out :=
  vOp .bits true (fun _ a b d => plain (a * b + d)) f s

/-- `imin` (Table Lane 1). -/
def execImin (f : VForm) (s : State) : Out :=
  vOp .bits false (fun _ a b _ => plain (minWord a b)) f s

/-- `imax` (Table Lane 1). -/
def execImax (f : VForm) (s : State) : Out :=
  vOp .bits false (fun _ a b _ => plain (maxWord a b)) f s

/-- `umin` (Table Lane 1). -/
def execUmin (f : VForm) (s : State) : Out :=
  vOp .bits false (fun _ a b _ => plain (uminWord a b)) f s

/-- `umax` (Table Lane 1). -/
def execUmax (f : VForm) (s : State) : Out :=
  vOp .bits false (fun _ a b _ => plain (umaxWord a b)) f s

/-- `and` (Table Lane 1). -/
def execAnd (f : VForm) (s : State) : Out :=
  vOp .bits false (fun _ a b _ => plain (a &&& b)) f s

/-- `or` (Table Lane 1). -/
def execOr (f : VForm) (s : State) : Out :=
  vOp .bits false (fun _ a b _ => plain (a ||| b)) f s

/-- `xor` (Table Lane 1). -/
def execXor (f : VForm) (s : State) : Out :=
  vOp .bits false (fun _ a b _ => plain (a ^^^ b)) f s

/-- `andn` (Table Lane 1). -/
def execAndn (f : VForm) (s : State) : Out :=
  vOp .bits false (fun _ a b _ => plain (a &&& ~~~b)) f s

/-- `shl` (Table Lane 1). -/
def execShl (f : VForm) (s : State) : Out :=
  vOp .bits false (fun _ a b _ => plain (shlWord a b)) f s

/-- `shrl` (Table Lane 1). -/
def execShrl (f : VForm) (s : State) : Out :=
  vOp .bits false (fun _ a b _ => plain (shrlWord a b)) f s

/-- `shra` (Table Lane 1). -/
def execShra (f : VForm) (s : State) : Out :=
  vOp .bits false (fun _ a b _ => plain (shraWord a b)) f s

/-- `seteq` (Table Lane 1). -/
def execSeteq (f : VForm) (s : State) : Out :=
  vOp .bits false (fun _ a b _ => plain (boolWord (a == b))) f s

/-- `setlt` (Table Lane 1). -/
def execSetlt (f : VForm) (s : State) : Out :=
  vOp .bits false (fun _ a b _ => plain (boolWord (a.slt b))) f s

/-- `sel` (Table Lane 1). -/
def execSel (f : VForm) (s : State) : Out :=
  vOp .bits true (fun _ a b d => plain (if d != 0 then a else b)) f s

/-- 16-bit `iadd`: that of its 32-bit equivalent (R76). -/
def execIadd16 (f : ShortForm) (s : State) : Out :=
  vOp .bits false (fun _ a b _ => plain (a + b)) (shortV f) s

/-- 16-bit `isub`: that of its 32-bit equivalent (R76). -/
def execIsub16 (f : ShortForm) (s : State) : Out :=
  vOp .bits false (fun _ a b _ => plain (a - b)) (shortV f) s

/-- 16-bit `and`: that of its 32-bit equivalent (R76). -/
def execAnd16 (f : ShortForm) (s : State) : Out :=
  vOp .bits false (fun _ a b _ => plain (a &&& b)) (shortV f) s

/-- 16-bit `or`: that of its 32-bit equivalent (R76). -/
def execOr16 (f : ShortForm) (s : State) : Out :=
  vOp .bits false (fun _ a b _ => plain (a ||| b)) (shortV f) s

/-- 16-bit `xor`: that of its 32-bit equivalent (R76). -/
def execXor16 (f : ShortForm) (s : State) : Out :=
  vOp .bits false (fun _ a b _ => plain (a ^^^ b)) (shortV f) s

/-- 16-bit `shl`: that of its 32-bit equivalent (R76). -/
def execShl16 (f : ShortForm) (s : State) : Out :=
  vOp .bits false (fun _ a b _ => plain (shlWord a b)) (shortV f) s

/-- 16-bit `shrl`: that of its 32-bit equivalent (R76). -/
def execShrl16 (f : ShortForm) (s : State) : Out :=
  vOp .bits false (fun _ a b _ => plain (shrlWord a b)) (shortV f) s

/-- 16-bit `shra`: that of its 32-bit equivalent (R76). -/
def execShra16 (f : ShortForm) (s : State) : Out :=
  vOp .bits false (fun _ a b _ => plain (shraWord a b)) (shortV f) s

/-- 16-bit `imax`: that of its 32-bit equivalent (R76). -/
def execImax16 (f : ShortForm) (s : State) : Out :=
  vOp .bits false (fun _ a b _ => plain (maxWord a b)) (shortV f) s

/-- `mov`: `or D, A, A` (R76). -/
def execMov (f : ShortForm) (s : State) : Out :=
  vOp .bits false (fun _ a b _ => plain (a ||| b)) (shortMov f) s

end Sys2Proof.Machine
end

