-- ==== Sys2Proof/Machine/LaneFloat.lean ====
section
/-!
DEFINITION. The V-format FP32 and BF16 lane operations, their 16-bit forms, and the X-format float unary family (07_lane_and_scalar_instructions.md R138 to R143).
-/
namespace Sys2Proof.Machine

/-- a ≤ b, false for a NaN. -/
def leVal (a b : FVal) : Bool := ltVal a b || eqVal a b

/-- `fadd` (Table Lane 1). -/
def execFadd (f : VForm) (s : State) : Out :=
  vOp .fp32 false (fun env a b _ => f32Add env a b) f s

/-- `fsub` (Table Lane 1). -/
def execFsub (f : VForm) (s : State) : Out :=
  vOp .fp32 false (fun env a b _ => f32Sub env a b) f s

/-- `fmul` (Table Lane 1). -/
def execFmul (f : VForm) (s : State) : Out :=
  vOp .fp32 false (fun env a b _ => f32Mul env a b) f s

/-- `ffma` (Table Lane 1). -/
def execFfma (f : VForm) (s : State) : Out :=
  vOp .fp32 true (fun env a b d => f32Fma env a b d) f s

/-- `fmin` (Table Lane 1). -/
def execFmin (f : VForm) (s : State) : Out :=
  vOp .fp32 false (fun env a b _ => f32Pick false env a b) f s

/-- `fmax` (Table Lane 1). -/
def execFmax (f : VForm) (s : State) : Out :=
  vOp .fp32 false (fun env a b _ => f32Pick true env a b) f s

/-- `fseteq` (Table Lane 1). -/
def execFseteq (f : VForm) (s : State) : Out :=
  vOp .fp32 false (fun env a b _ => f32Cmp eqVal env a b) f s

/-- `fsetlt` (Table Lane 1). -/
def execFsetlt (f : VForm) (s : State) : Out :=
  vOp .fp32 false (fun env a b _ => f32Cmp ltVal env a b) f s

/-- `fsetle` (Table Lane 1). -/
def execFsetle (f : VForm) (s : State) : Out :=
  vOp .fp32 false (fun env a b _ => f32Cmp leVal env a b) f s

/-- `hadd2` (Table Lane 1). -/
def execHadd2 (f : VForm) (s : State) : Out :=
  vOp .bf16 false (fun env a b _ => bfAdd2 env.rnd a b) f s

/-- `hmul2` (Table Lane 1). -/
def execHmul2 (f : VForm) (s : State) : Out :=
  vOp .bf16 false (fun env a b _ => bfMul2 env.rnd a b) f s

/-- `hfma2` (Table Lane 1). -/
def execHfma2 (f : VForm) (s : State) : Out :=
  vOp .bf16 true (fun env a b d => bfFma2 env.rnd a b d) f s

/-- 16-bit `fadd`: that of its 32-bit equivalent (R76). -/
def execFadd16 (f : ShortForm) (s : State) : Out :=
  vOp .fp32 false (fun env a b _ => f32Add env a b) (shortV f) s

/-- 16-bit `fmul`: that of its 32-bit equivalent (R76). -/
def execFmul16 (f : ShortForm) (s : State) : Out :=
  vOp .fp32 false (fun env a b _ => f32Mul env a b) (shortV f) s

/-- 16-bit `fmin`: that of its 32-bit equivalent (R76). -/
def execFmin16 (f : ShortForm) (s : State) : Out :=
  vOp .fp32 false (fun env a b _ => f32Pick false env a b) (shortV f) s

/-- 16-bit `fmax`: that of its 32-bit equivalent (R76). -/
def execFmax16 (f : ShortForm) (s : State) : Out :=
  vOp .fp32 false (fun env a b _ => f32Pick true env a b) (shortV f) s

/-- 16-bit `hadd2`: that of its 32-bit equivalent (R76). -/
def execHadd216 (f : ShortForm) (s : State) : Out :=
  vOp .bf16 false (fun env a b _ => bfAdd2 env.rnd a b) (shortV f) s

/-- 16-bit `hmul2`: that of its 32-bit equivalent (R76). -/
def execHmul216 (f : ShortForm) (s : State) : Out :=
  vOp .bf16 false (fun env a b _ => bfMul2 env.rnd a b) (shortV f) s

/-- `fneg` (Table Lane 3). -/
def execFneg (f : XForm) (s : State) : Out :=
  xOp .fp32 false f.sp f.n f.d f.a (fun env a _ => f32Neg env a) s

/-- `fabs` (Table Lane 3). -/
def execFabs (f : XForm) (s : State) : Out :=
  xOp .fp32 false f.sp f.n f.d f.a (fun env a _ => f32Abs env a) s

/-- `fsqrt` (Table Lane 3). -/
def execFsqrt (f : XForm) (s : State) : Out :=
  xOp .fp32 false f.sp f.n f.d f.a (fun env a _ => f32Sqrt env a) s

/-- `frsq` (Table Lane 3). -/
def execFrsq (f : XForm) (s : State) : Out :=
  xOp .fp32 false f.sp f.n f.d f.a (fun env a _ => f32Rsqrt env a) s

/-- `frcp` (Table Lane 3). -/
def execFrcp (f : XForm) (s : State) : Out :=
  xOp .fp32 false f.sp f.n f.d f.a (fun env a _ => f32Recip env a) s

/-- `fexp2` (Table Lane 3). -/
def execFexp2 (f : XForm) (s : State) : Out :=
  xOp .fp32 false f.sp f.n f.d f.a (fun env a _ => f32Exp2 env a) s

/-- `flog2` (Table Lane 3). -/
def execFlog2 (f : XForm) (s : State) : Out :=
  xOp .fp32 false f.sp f.n f.d f.a (fun env a _ => f32Log2 env a) s

/-- `fsin` (Table Lane 3). -/
def execFsin (f : XForm) (s : State) : Out :=
  xOp .fp32 false f.sp f.n f.d f.a (fun env a _ => f32Sin env a) s

/-- `fcos` (Table Lane 3). -/
def execFcos (f : XForm) (s : State) : Out :=
  xOp .fp32 false f.sp f.n f.d f.a (fun env a _ => f32Cos env a) s

/-- `ffloor` (Table Lane 3). -/
def execFfloor (f : XForm) (s : State) : Out :=
  xOp .fp32 false f.sp f.n f.d f.a (fun env a _ => f32Round .rd false env a) s

/-- `fceil` (Table Lane 3). -/
def execFceil (f : XForm) (s : State) : Out :=
  xOp .fp32 false f.sp f.n f.d f.a (fun env a _ => f32Round .ru false env a) s

/-- `ftrunc` (Table Lane 3). -/
def execFtrunc (f : XForm) (s : State) : Out :=
  xOp .fp32 false f.sp f.n f.d f.a (fun env a _ => f32Round .rz false env a) s

/-- `frint` (Table Lane 3). -/
def execFrint (f : XForm) (s : State) : Out :=
  xOp .fp32 false f.sp f.n f.d f.a (fun env a _ => f32Round env.rnd true env a) s

end Sys2Proof.Machine
end

