-- ==== Sys2Proof/Machine/LaneX.lean ====
section
/-!
DEFINITION. The X-format integer unary, pack and unpack, two-address compare and conversion families (07_lane_and_scalar_instructions.md R142, R144 to R148).
-/
namespace Sys2Proof.Machine

/-- Leading zeros of a word, 32 for 0 (Table Lane 2). -/
def clzWord (a : Word) : Nat := 32 - bitLength a.toNat
/-- Trailing zeros of a word, 32 for 0 (Table Lane 2). -/
def ctzWord (a : Word) : Nat := ((List.range 32).find? fun i => a.getLsbD i).getD 32
/-- Bit i of the result is bit 31 - i of a. -/
def brevWord (a : Word) : Word := a.reverse
/-- A field of `w` bits at bit `lo`, zero-extended. -/
def fieldZ (a : Word) (lo w : Nat) : Word := (a >>> lo) &&& (BitVec.allOnes 32 >>> (32 - w))
/-- A field of `w` bits at bit `lo`, sign-extended. -/
def fieldS (a : Word) (lo w : Nat) : Word := (a <<< (32 - w - lo)).sshiftRight (32 - w)
/-- `d` with the field of `w` bits at `lo` replaced by the low bits of `a` (Table Lane 4). -/
def insertField (d a : Word) (lo w : Nat) : Word :=
  let k : Word := (BitVec.allOnes 32 >>> (32 - w)) <<< lo
  (d &&& ~~~k) ||| ((a <<< lo) &&& k)
/-- The class of an FP32 pattern (Table Lane 6). -/
def classOf (a : Word) : Nat :=
  let neg := a.getLsbD 31
  let e := (a.extractLsb' 23 8).toNat
  let m := (a.extractLsb' 0 23).toNat
  if e = 255 then (if m = 0 then (if neg then 2 else 9) else if a.getLsbD 22 then 1 else 0)
  else if e = 0 then (if m = 0 then (if neg then 5 else 6) else if neg then 4 else 7)
  else if neg then 3 else 8
/-- d ≠ a, or either is NaN. -/
def neVal (d a : FVal) : Bool := !eqVal d a
/-- Either is NaN. -/
def unVal (d a : FVal) : Bool := d.isNan || a.isNan

/-- `ineg` (Table Lane 2). -/
def execIneg (f : XForm) (s : State) : Out :=
  xOp .bits false f.sp f.n f.d f.a (fun _ a _ => plain (-a)) s

/-- `iabs` (Table Lane 2). -/
def execIabs (f : XForm) (s : State) : Out :=
  xOp .bits false f.sp f.n f.d f.a (fun _ a _ => plain (if a.msb then -a else a)) s

/-- `popc` (Table Lane 2). -/
def execPopc (f : XForm) (s : State) : Out :=
  xOp .bits false f.sp f.n f.d f.a (fun _ a _ => plain (BitVec.ofNat 32 (popCount a.toNat 32))) s

/-- `clz` (Table Lane 2). -/
def execClz (f : XForm) (s : State) : Out :=
  xOp .bits false f.sp f.n f.d f.a (fun _ a _ => plain (BitVec.ofNat 32 (clzWord a))) s

/-- `ctz` (Table Lane 2). -/
def execCtz (f : XForm) (s : State) : Out :=
  xOp .bits false f.sp f.n f.d f.a (fun _ a _ => plain (BitVec.ofNat 32 (ctzWord a))) s

/-- `brev` (Table Lane 2). -/
def execBrev (f : XForm) (s : State) : Out :=
  xOp .bits false f.sp f.n f.d f.a (fun _ a _ => plain (brevWord a)) s

/-- `not` (Table Lane 2). -/
def execNot (f : XForm) (s : State) : Out :=
  xOp .bits false f.sp f.n f.d f.a (fun _ a _ => plain (~~~a)) s

/-- `sext` (Table Lane 2). -/
def execSext (f : XmForm) (s : State) : Out :=
  xOp .bits false f.sp f.n f.d f.a (fun _ a _ => plain (fieldS a 0 (if f.m = 0 then 8 else 16))) s

/-- `zext` (Table Lane 2). -/
def execZext (f : XmForm) (s : State) : Out :=
  xOp .bits false f.sp f.n f.d f.a (fun _ a _ => plain (fieldZ a 0 (if f.m = 0 then 8 else 16))) s

/-- `pkb` (Table Lane 4). -/
def execPkb (f : XmForm) (s : State) : Out :=
  xOp .bits true f.sp f.n f.d f.a (fun _ a d => plain (insertField d a (8 * f.m.toNat) 8)) s

/-- `pkh` (Table Lane 4). -/
def execPkh (f : XmForm) (s : State) : Out :=
  xOp .bits true f.sp f.n f.d f.a (fun _ a d => plain (insertField d a (16 * f.m.toNat) 16)) s

/-- `pkn` (Table Lane 4). -/
def execPkn (f : XmForm) (s : State) : Out :=
  xOp .bits true f.sp f.n f.d f.a (fun _ a d => plain (insertField d a (4 * f.m.toNat) 4)) s

/-- `upb` (Table Lane 4). -/
def execUpb (f : XmForm) (s : State) : Out :=
  xOp .bits false f.sp f.n f.d f.a (fun _ a _ => plain (fieldZ a (8 * f.m.toNat) 8)) s

/-- `upbs` (Table Lane 4). -/
def execUpbs (f : XmForm) (s : State) : Out :=
  xOp .bits false f.sp f.n f.d f.a (fun _ a _ => plain (fieldS a (8 * f.m.toNat) 8)) s

/-- `uph` (Table Lane 4). -/
def execUph (f : XmForm) (s : State) : Out :=
  xOp .bits false f.sp f.n f.d f.a (fun _ a _ => plain (fieldZ a (16 * f.m.toNat) 16)) s

/-- `uphs` (Table Lane 4). -/
def execUphs (f : XmForm) (s : State) : Out :=
  xOp .bits false f.sp f.n f.d f.a (fun _ a _ => plain (fieldS a (16 * f.m.toNat) 16)) s

/-- `upn` (Table Lane 4). -/
def execUpn (f : XmForm) (s : State) : Out :=
  xOp .bits false f.sp f.n f.d f.a (fun _ a _ => plain (fieldZ a (4 * f.m.toNat) 4)) s

/-- `upns` (Table Lane 4). -/
def execUpns (f : XmForm) (s : State) : Out :=
  xOp .bits false f.sp f.n f.d f.a (fun _ a _ => plain (fieldS a (4 * f.m.toNat) 4)) s

/-- `setltu` (Table Lane 5, R147, R148). -/
def execSetltu (f : XForm) (s : State) : Out :=
  xOp .bits true f.sp f.n f.d f.a (fun _ a d => plain (boolWord (d.ult a))) s

/-- `setle` (Table Lane 5, R147, R148). -/
def execSetle (f : XForm) (s : State) : Out :=
  xOp .bits true f.sp f.n f.d f.a (fun _ a d => plain (boolWord (d.sle a))) s

/-- `setleu` (Table Lane 5, R147, R148). -/
def execSetleu (f : XForm) (s : State) : Out :=
  xOp .bits true f.sp f.n f.d f.a (fun _ a d => plain (boolWord (d.ule a))) s

/-- `setne` (Table Lane 5, R147, R148). -/
def execSetne (f : XForm) (s : State) : Out :=
  xOp .bits true f.sp f.n f.d f.a (fun _ a d => plain (boolWord (d != a))) s

/-- `fsetne` (Table Lane 5, R147, R148). -/
def execFsetne (f : XForm) (s : State) : Out :=
  xOp .fp32 true f.sp f.n f.d f.a (fun env a d => f32Cmp neVal env d a) s

/-- `fsetun` (Table Lane 5, R147, R148). -/
def execFsetun (f : XForm) (s : State) : Out :=
  xOp .fp32 true f.sp f.n f.d f.a (fun env a d => f32Cmp unVal env d a) s

/-- `fclass` (Table Lane 5, R147, R148). -/
def execFclass (f : XForm) (s : State) : Out :=
  xOp .fp32 true f.sp f.n f.d f.a (fun _ a d => plain (boolWord (d.getLsbD (classOf a)))) s

/-- `cvt` (R110 to R113, R144, R145). -/
def execCvt (f : CvtForm) (s : State) : Out :=
  xOp .bits false f.sp f.n f.d f.a (fun env a _ => convert .cvt env f.src.toNat f.dst.toNat a) s

/-- `cvts` (R110 to R113, R144, R145). -/
def execCvts (f : CvtForm) (s : State) : Out :=
  xOp .bits false f.sp f.n f.d f.a (fun env a _ => convert .cvts env f.src.toNat f.dst.toNat a) s

/-- `cvtsr`: `SRSEED` advances once, then each lane rounds stochastically with its own 16 bits (R114). It waits for an
unconfirmed load (Table Near Ordering 1). -/
def execCvtsr (f : CvtForm) (s : State) : Out :=
  withOps s f.sp { sels := [f.a], lw := laneWrites f.n f.d } fun s x =>
    let seed := x.g.arch.srseed + 0x9E3779B97F4A7C15#64
    let y := { x with g := { x.g with arch := { x.g.arch with srseed := seed } } }
    .done (laneDone s y f.sp f.n f.d.toNat fun L =>
      convert (.cvtsr ((fmix64 (seed ^^^ BitVec.ofNat 64 L)).extractLsb' 0 16)) (fpEnv x.g) f.src.toNat f.dst.toNat
        (opVal .bits x f.a L))

end Sys2Proof.Machine
end

