-- ==== Sys2Proof/Machine/GroupOps.lean ====
section
/-!
DEFINITION. Quad exchanges and reductions, group shuffles, votes and reductions (08_control_group_and_system_instructions.md R158 to R160; 05 R118).
-/
namespace Sys2Proof.Machine

/-- Combine two children of the reduction tree: an absent one passes its sibling through unchanged (R118), a NaN too: with
its payload and without NV, where R102 keeps payloads out of results (DESIGN CHOICE, log 91). -/
def joinVals (op : Word → Word → Word × Flags) (a b : Option Word × Flags) : Option Word × Flags :=
  match a.1, b.1 with
  | none, _ => (b.1, a.2 ||| b.2)
  | some _, none => (a.1, a.2 ||| b.2)
  | some u, some v => let r := op u v; (some r.1, a.2 ||| b.2 ||| r.2)

/-- Reduce(lo, 2^k) over the lanes present (R118). -/
def reduceTree (op : Word → Word → Word × Flags) (get : Nat → Option Word) : Nat → Nat → Option Word × Flags
  | lo, 0 => (get lo, 0)
  | lo, k + 1 => joinVals op (reduceTree op get lo k) (reduceTree op get (lo + 2 ^ k) k)

/-- Levels of the tree for a group of `w` lanes. -/
def levels (w : Nat) : Nat := bitLength w - 1

/-- A contribution under `FZ`: a subnormal is read as a zero of its sign (R118). -/
def flushIn (env : FpEnv) (w : Word) : Word :=
  if env.fz && (w.extractLsb' 23 8) == 0#8 then w &&& 0x80000000#32 else w

/-- Reduce an FP32 value over lanes, with what an empty reduction gives. -/
def reduceF (x : Issue) (op : FpEnv → Word → Word → Word × Flags) (empty : Word) (present : Nat → Bool) (get : Nat → Word)
    (lo k : Nat) : Word × Flags :=
  let env := fpEnv x.g
  let r := reduceTree (op env) (fun L => if present L then some (flushIn env (get L)) else none) lo k
  (r.1.getD empty, r.2)

/-- Reduce 32-bit sums over lanes. -/
def reduceI (present : Nat → Bool) (get : Nat → Word) (lo k : Nat) : Word × Flags :=
  let r := reduceTree (fun a b => (a + b, 0)) (fun L => if present L then some (get L) else none) lo k
  (r.1.getD 0, r.2)

/-- Exchange within the quad: a source outside the split delivers 0 (R158). -/
def quadFrom (x : Issue) (get : Nat → Word) (src : Nat) : Word × Flags :=
  plain (if x.active.getLsbD src then get src else 0)

/-- Shuffle: a source outside the split delivers the reader's own value (R160). -/
def shuffleFrom (x : Issue) (get : Nat → Word) (L p : Nat) : Word × Flags :=
  plain (if x.active.getLsbD p then get p else get L)

/-- The lane's shuffle index: D, or v0 with `N` = 1 (R159). -/
def shuffleD (x : Issue) (d : BitVec 7) (L : Nat) : Nat := (laneReg x.t x.g d.toNat L).toNat

/-- −∞. -/
def negInf : Word := 0xFF800000#32

/-- The ballot mask: participants whose value is not zero (Table Control 3). -/
def ballotMask (x : Issue) (get : Nat → Word) : Mask := maskOf (x.liveLanes.filter fun k => get k != 0)

/-- `qswx` (Table Control 2). -/
def execQswx (f : XForm) (s : State) : Out :=
  groupOp .bits false f.sp f.n f.d f.a (fun x get L => quadFrom x get (L ^^^ 1)) s

/-- `qswy` (Table Control 2). -/
def execQswy (f : XForm) (s : State) : Out :=
  groupOp .bits false f.sp f.n f.d f.a (fun x get L => quadFrom x get (L ^^^ 2)) s

/-- `qswd` (Table Control 2). -/
def execQswd (f : XForm) (s : State) : Out :=
  groupOp .bits false f.sp f.n f.d f.a (fun x get L => quadFrom x get (L ^^^ 3)) s

/-- `qbc` (Table Control 2). -/
def execQbc (f : XmForm) (s : State) : Out :=
  groupOp .bits false f.sp f.n f.d f.a (fun x get L => quadFrom x get (L - L % 4 + f.m.toNat)) s

/-- `qaddf` (Table Control 2). -/
def execQaddf (f : XForm) (s : State) : Out :=
  groupOp .fp32 false f.sp f.n f.d f.a (fun x get L => reduceF x f32Add 0 x.active.getLsbD get (L - L % 4) 2) s

/-- `qaddi` (Table Control 2). -/
def execQaddi (f : XForm) (s : State) : Out :=
  groupOp .bits false f.sp f.n f.d f.a (fun x get L => reduceI x.active.getLsbD get (L - L % 4) 2) s

/-- `qmaxf` (Table Control 2). -/
def execQmaxf (f : XForm) (s : State) : Out :=
  groupOp .fp32 false f.sp f.n f.d f.a (fun x get L => reduceF x (f32Pick true) negInf x.active.getLsbD get (L - L % 4) 2) s

/-- `shfl` (Table Control 3, R160). -/
def execShfl (f : XForm) (s : State) : Out :=
  groupOp .bits true f.sp f.n f.d f.a (fun x get L => shuffleFrom x get L (shuffleD x f.d L % x.g.width)) s

/-- `shflup` (Table Control 3, R160). -/
def execShflup (f : XForm) (s : State) : Out :=
  groupOp .bits true f.sp f.n f.d f.a (fun x get L => if shuffleD x f.d L ≤ L then shuffleFrom x get L (L - shuffleD x f.d L) else plain (get L)) s

/-- `shfldn` (Table Control 3, R160). -/
def execShfldn (f : XForm) (s : State) : Out :=
  groupOp .bits true f.sp f.n f.d f.a (fun x get L => if L + shuffleD x f.d L < x.g.width then shuffleFrom x get L (L + shuffleD x f.d L) else plain (get L)) s

/-- `shflx` (Table Control 3, R160). -/
def execShflx (f : XForm) (s : State) : Out :=
  groupOp .bits true f.sp f.n f.d f.a (fun x get L => shuffleFrom x get L (L ^^^ (shuffleD x f.d L % x.g.width))) s

/-- `vany` (Table Control 3, R160). -/
def execVany (f : XForm) (s : State) : Out :=
  groupOp .bits false f.sp f.n f.d f.a (fun x get _ => plain (boolWord (x.liveLanes.any fun k => get k != 0))) s

/-- `vall` (Table Control 3, R160). -/
def execVall (f : XForm) (s : State) : Out :=
  groupOp .bits false f.sp f.n f.d f.a (fun x get _ => plain (boolWord (x.liveLanes.all fun k => get k != 0))) s

/-- `ballot` (Table Control 3, R160). -/
def execBallot (f : XForm) (s : State) : Out :=
  groupOp .bits false f.sp f.n f.d f.a (fun x get L => plain ((ballotMask x get).extractLsb' (if x.g.width = 64 then 32 * (L % 2) else 0) 32)) s

/-- `gaddi` (Table Control 3, R160). -/
def execGaddi (f : XForm) (s : State) : Out :=
  groupOp .bits false f.sp f.n f.d f.a (fun x get _ => reduceI x.live.getLsbD get 0 (levels x.g.width)) s

/-- `gaddf` (Table Control 3, R160). -/
def execGaddf (f : XForm) (s : State) : Out :=
  groupOp .fp32 false f.sp f.n f.d f.a (fun x get _ => reduceF x f32Add 0 x.live.getLsbD get 0 (levels x.g.width)) s

/-- `gmaxf` (Table Control 3, R160). -/
def execGmaxf (f : XForm) (s : State) : Out :=
  groupOp .fp32 false f.sp f.n f.d f.a (fun x get _ => reduceF x (f32Pick true) negInf x.live.getLsbD get 0 (levels x.g.width)) s

end Sys2Proof.Machine
end

