-- ==== Sys2Proof/Machine/Scalar.lean ====
section
/-!
DEFINITION. The scalar and address-register instructions (07_lane_and_scalar_instructions.md R149 to R154) and the
register-state instructions other than `csrr` and `csrw` (06_register_state.md R134).
-/
namespace Sys2Proof.Machine

/-- A scalar function: `op` gets sA, sB and the old sD, which it reads when `useD` (R149). -/
def srOp (useD : Bool) (op : DWord → DWord → DWord → DWord) (f : SrForm) (s : State) : Out :=
  let d := f.d.toNat
  withOps s f.sp { sr := [f.a.toNat, f.b.toNat] ++ (if useD then [d] else []), sw := [d] } fun s x =>
    .done (finishPlain s x f.sp (x.g.putScalar d
      (op (scalarReg s x f.a.toNat) (scalarReg s x f.b.toNat) (scalarReg s x d))))

/-- A scalar shift count is sB[7:0] unsigned (R149). -/
def shiftCount64 (b : DWord) : Nat := (b.extractLsb' 0 8).toNat

/-- `sadd` (Table Lane 7). -/
def execSadd (f : SrForm) (s : State) : Out :=
  srOp false (fun a b _ => a + b) f s

/-- `ssub` (Table Lane 7). -/
def execSsub (f : SrForm) (s : State) : Out :=
  srOp false (fun a b _ => a - b) f s

/-- `smul` (Table Lane 7). -/
def execSmul (f : SrForm) (s : State) : Out :=
  srOp false (fun a b _ => a * b) f s

/-- `smulh` (Table Lane 7). -/
def execSmulh (f : SrForm) (s : State) : Out :=
  srOp false (fun a b _ => BitVec.ofInt 64 (a.toInt * b.toInt / 2 ^ 64)) f s

/-- `sand` (Table Lane 7). -/
def execSand (f : SrForm) (s : State) : Out :=
  srOp false (fun a b _ => a &&& b) f s

/-- `sor` (Table Lane 7). -/
def execSor (f : SrForm) (s : State) : Out :=
  srOp false (fun a b _ => a ||| b) f s

/-- `sxor` (Table Lane 7). -/
def execSxor (f : SrForm) (s : State) : Out :=
  srOp false (fun a b _ => a ^^^ b) f s

/-- `sandn` (Table Lane 7). -/
def execSandn (f : SrForm) (s : State) : Out :=
  srOp false (fun a b _ => a &&& ~~~b) f s

/-- `sshl` (Table Lane 7). -/
def execSshl (f : SrForm) (s : State) : Out :=
  srOp false (fun a b _ => a <<< shiftCount64 b) f s

/-- `sshrl` (Table Lane 7). -/
def execSshrl (f : SrForm) (s : State) : Out :=
  srOp false (fun a b _ => a >>> shiftCount64 b) f s

/-- `sshra` (Table Lane 7). -/
def execSshra (f : SrForm) (s : State) : Out :=
  srOp false (fun a b _ => a.sshiftRight (shiftCount64 b)) f s

/-- `smin` (Table Lane 7). -/
def execSmin (f : SrForm) (s : State) : Out :=
  srOp false (fun a b _ => if b.slt a then b else a) f s

/-- `smax` (Table Lane 7). -/
def execSmax (f : SrForm) (s : State) : Out :=
  srOp false (fun a b _ => if a.slt b then b else a) f s

/-- `sumin` (Table Lane 7). -/
def execSumin (f : SrForm) (s : State) : Out :=
  srOp false (fun a b _ => if b.ult a then b else a) f s

/-- `sumax` (Table Lane 7). -/
def execSumax (f : SrForm) (s : State) : Out :=
  srOp false (fun a b _ => if a.ult b then b else a) f s

/-- `sseteq` (Table Lane 7). -/
def execSseteq (f : SrForm) (s : State) : Out :=
  srOp false (fun a b _ => boolDWord (a == b)) f s

/-- `ssetlt` (Table Lane 7). -/
def execSsetlt (f : SrForm) (s : State) : Out :=
  srOp false (fun a b _ => boolDWord (a.slt b)) f s

/-- `ssetltu` (Table Lane 7). -/
def execSsetltu (f : SrForm) (s : State) : Out :=
  srOp false (fun a b _ => boolDWord (a.ult b)) f s

/-- `ssel` (Table Lane 7). -/
def execSsel (f : SrForm) (s : State) : Out :=
  srOp true (fun a b d => if d != 0 then a else b) f s

/-- `smov` (Table Lane 7). -/
def execSmov (f : SmovForm) (s : State) : Out :=
  withOps s f.sp { sr := [f.a.toNat], sw := [f.d.toNat] } fun s x =>
    .done (finishPlain s x f.sp (x.g.putScalar f.d.toNat (scalarReg s x f.a.toNat)))

/-- `saddi` (R152). -/
def execSaddi (f : SiForm) (s : State) : Out :=
  withOps s f.sp { sr := [f.a.toNat], sw := [f.d.toNat] } fun s x =>
    .done (finishPlain s x f.sp (x.g.putScalar f.d.toNat (scalarReg s x f.a.toNat + f.imm.signExtend 64)))

/-- `sldi` (R134). -/
def execSldi (f : EpqkForm) (s : State) : Out :=
  withOps s f.sp { sw := [f.p.toNat] } fun s x =>
    .done (finishPlain s x f.sp (x.g.putScalar f.p.toNat ((f.q ++ f.k : BitVec 13).signExtend 64)))

/-- `sldhi` (R134). -/
def execSldhi (f : EpqkForm) (s : State) : Out :=
  withOps s f.sp { sr := [f.p.toNat], sw := [f.p.toNat] } fun s x =>
    .done (finishPlain s x f.sp (x.g.putScalar f.p.toNat
      ((scalarReg s x f.p.toNat <<< 13) ||| (f.q ++ f.k : BitVec 13).setWidth 64)))

/-- Has an access a register of blocks `lo` to `hi` still to write? -/
def blocksPending (g : Group) (lo hi : Nat) : Bool :=
  g.txns.any fun t => match t.dest with
    | .lanes d n => !t.noWrite && (List.range n).any fun i => lo ≤ (d + i) / 8 && (d + i) / 8 ≤ hi
    | .scalar _ => false

/-- `rfree`: blocks `P` to `Q` become unallocated, once every earlier write of them has landed (R134). Blocks there are none of
are no instruction, which is seen before the mask word (R94). -/
def execRfree (f : EpqForm) (s : State) : Out :=
  let lo := f.p.toNat
  let hi := f.q.toNat
  if 14 < lo || 14 < hi || hi < lo then trapHere s (trapAll .illins)
  else withOps s f.sp {} fun s x =>
    if blocksPending x.g lo hi then .wait
    else
      let g := { x.g with
        badBlocks := x.g.badBlocks.filter fun b => !(lo ≤ b && b ≤ hi)
        arch := { x.g.arch with
          blocks := x.g.arch.blocks.mapIdx fun b v => if lo ≤ b && b ≤ hi then .unallocated else v } }
      .done (finishPlain s x f.sp g)

/-- `aadd`: the pointer moves, within base and limit (R153). -/
def execAadd (f : AaddForm) (s : State) : Out :=
  withOps s f.sp { sr := [f.p.toNat] } fun s x =>
    let a := addrReg x.g f.ar.toNat
    let p : DWord := a.ptr.setWidth 64 + scalarReg s x f.p.toNat + (f.k.signExtend 64 <<< 7)
    if p.ult (a.base.setWidth 64) || (a.limit.setWidth 64).ult p then .trap { kind := .bounds, addr := p.toNat }
    else .done (finishPlain s x f.sp (x.g.putAddr f.ar.toNat { a with ptr := p.setWidth 56 }))

/-- `aset`: bounds and permissions narrow (R153, R154). -/
def execAset (f : AsetForm) (s : State) : Out :=
  withOps s f.sp { sr := if f.p = 63 then [] else [f.p.toNat, f.p.toNat + 1] } fun s x =>
    if f.p = 63 then .trap (trapAll .illopnd)
    else
      let a := addrReg x.g f.ar.toNat
      let nb : VAddr := (scalarReg s x f.p.toNat).setWidth 56
      let nl : VAddr := (scalarReg s x (f.p.toNat + 1)).setWidth 56
      if nb.ult a.base || a.limit.ult nl || nl.ult nb then .trap { kind := .bounds, addr := nb.toNat }
      else .done (finishPlain s x f.sp (x.g.putAddr f.ar.toNat
        ⟨nb, nb, nl, a.perm &&& ((0b111#3 ++ f.k : BitVec 8))⟩))

/-- `amov`: all four fields; a register with region code R is copied nowhere else (R153, R154). -/
def execAmov (f : CtxForm) (s : State) : Out :=
  withOps s f.sp {} fun s x =>
    let a := addrReg x.g f.p.toNat
    if a.rgn = 5 && f.p != f.ar then .trap (trapAll .illopnd)
    else .done (finishPlain s x f.sp (x.g.putAddr f.ar.toNat a))

/-- A field of an address register, zero-extended (R153). -/
def AReg.field (a : AReg) (k : BitVec 2) : DWord :=
  if k = 0 then a.ptr.setWidth 64 else if k = 1 then a.base.setWidth 64
  else if k = 2 then a.limit.setWidth 64 else a.perm.setWidth 64

/-- `aget` (R153). -/
def execAget (f : AgetForm) (s : State) : Out :=
  withOps s f.sp { sw := [f.p.toNat] } fun s x =>
    .done (finishPlain s x f.sp (x.g.putScalar f.p.toNat ((addrReg x.g f.ar.toNat).field f.k)))

end Sys2Proof.Machine
end

