-- ==== Sys2Proof/Machine/Control.lean ====
section
/-!
DEFINITION. Branches, jumps and calls, fence, exit, trap, yield and the return from a trap
(08_control_group_and_system_instructions.md R155 to R166).
-/
namespace Sys2Proof.Machine

/-- A branch condition on the signed value (R86). -/
def branchCond (c : BitVec 3) (a : Word) : Bool :=
  match c.toNat with
  | 0 => a == 0
  | 1 => a != 0
  | 2 => a.msb
  | 3 => !a.msb
  | 4 => a.msb || a == 0
  | _ => !a.msb && a != 0

/-- Divide the issuing split: the taken lanes keep its slot, the others take the lowest free slot at `other` or are
parked there (R28, R29). -/
def divide (g : Group) (x : Issue) (cyc : Nat) (taken : Mask) (other : VAddr) : Group :=
  let rest := x.active &&& ~~~taken
  let keep := mapWhere (fun p => p.slot == x.cur.split) (fun (p : Split) => { p with mask := taken }) g.arch.splits
  match freeSlot g.arch.splits with
  | some i =>
    let new : Split := { slot := i, pc := other, mask := rest, handler := x.sp.handler, held := false, issuedAt := cyc, stalled := false }
    { g with arch := { g.arch with splits := keep ++ [new] } }
  | none =>
    let k : Parked := { pc := other, mask := rest, handler := x.sp.handler, held := false, since := cyc, issuedAt := cyc }
    { g with arch := { g.arch with splits := keep, parked := g.arch.parked ++ [k] } }

/-- The lanes of the issuing split whose value meets the condition. -/
def takenLanes (x : Issue) (f : BrForm) : Mask := maskOf (x.lanes.filter fun L => branchCond f.cond (opVal .bits x f.a L))

/-- A relative target: the branch's address plus twice the offset (R86). -/
def relTarget (x : Issue) (off : VAddr) : VAddr := x.cur.pc + (off <<< 1)

/-- `brc` (R155). -/
def execBrc (f : BrForm) (s : State) : Out :=
  withOps s f.sp { sels := [f.a] } fun s x =>
    let t := relTarget x (f.off.signExtend 56)
    let k := takenLanes x f
    if k = x.active then .done (finishAt s x f.sp x.g Latch.zero t)
    else if k = 0 then .done (finishPlain s x f.sp x.g)
    else .done (finishAt s x f.sp (divide x.g x s.cyc k x.cur.next) Latch.zero t)

/-- lk, which calls write. -/
def lk : Nat := 47

/-- `jmp` (R155). -/
def execJmp (f : JForm) (s : State) : Out :=
  withOps s f.sp {} fun s x => .done (finishAt s x f.sp x.g Latch.zero (relTarget x (f.off.signExtend 56)))

/-- `call` (R155, R156). -/
def execCall (f : JForm) (s : State) : Out :=
  withOps s f.sp {} fun s x =>
    .done (finishAt s x f.sp (x.g.putScalar lk (x.cur.next.setWidth 64)) Latch.zero (relTarget x (f.off.signExtend 56)))

/-- Is a 64-bit value no program counter (R157)? -/
def badTarget (t : DWord) : Bool := t.getLsbD 0 || t.extractLsb' 56 8 != 0

/-- `jmpi` (R157). -/
def execJmpi (f : EpForm) (s : State) : Out :=
  withOps s f.sp { sr := [f.p.toNat] } fun s x =>
    let t := scalarReg s x f.p.toNat
    if badTarget t then .trap { kind := .pcalign, addr := t.toNat }
    else .done (finishAt s x f.sp x.g Latch.zero (t.setWidth 56))

/-- `jmpi` with link: the target is read before lk is written (R157). -/
def execJmpiLink (f : EpForm) (s : State) : Out :=
  withOps s f.sp { sr := [f.p.toNat] } fun s x =>
    let t := scalarReg s x f.p.toNat
    if badTarget t then .trap { kind := .pcalign, addr := t.toNat }
    else .done (finishAt s x f.sp (x.g.putScalar lk (x.cur.next.setWidth 64)) Latch.zero (t.setWidth 56))

/-- `fence` (R161). A kind or scope there is none of is no instruction, which is seen before the mask word (R94). -/
def execFence (f : FenceForm) (s : State) : Out :=
  if f.kind = 0 || 5 < f.scope.toNat then trapHere s (trapAll .illins)
  else withOps s f.sp {} fun s x =>
    let (sc, s) := capScope s x f.scope.toNat
    let acq := f.kind.getLsbD 0
    let rel := f.kind.getLsbD 1
    if (rel && !fenceReady s x.g sc) || (acq && !acquireReady s x.g) then .held s
    else
      let s := if rel then releaseDo s x.cur.core x.cur.slot sc else s
      let s := if acq then acquireDo s x.cur.core x.t.vf sc else s
      .done (finishPlain s x f.sp x.g)

/-- Lanes of the quads all of whose four lanes are in a mask. -/
def wholeQuads (k : Mask) (w : Nat) : Mask :=
  maskOf ((List.range w).filter fun L => (List.range 4).all fun i => k.getLsbD (L - L % 4 + i))

/-- The group after the lanes of the issuing split have executed `exit`: whole quads retire from every mask, the other
lanes become helpers (R25, R163). -/
def exitLanes (g : Group) (active : Mask) : Group :=
  let once := g.exitedOnce ||| active
  let gone := wholeQuads once g.width
  let splits := g.arch.splits.filterMap fun (p : Split) =>
    if p.mask &&& ~~~gone = 0 then none else some { p with mask := p.mask &&& ~~~gone }
  let parked := g.arch.parked.filterMap fun (p : Parked) =>
    if p.mask &&& ~~~gone = 0 then none else some { p with mask := p.mask &&& ~~~gone }
  { g with
    exitedOnce := once
    arch := { g.arch with
      splits := splits, parked := parked
      retired := g.arch.retired ||| gone
      helpers := (g.arch.helpers ||| active) &&& ~~~gone } }

/-- `exit` (R25, R163). The last `exit` of a group waits for the exit release at device scope. -/
def execExit (f : EsForm) (s : State) : Out :=
  withOps s f.sp {} fun s x =>
    let g := exitLanes x.g x.active
    if g.arch.splits.isEmpty && g.arch.parked.isEmpty then
      let (sc, s) := capScope s x 4
      if fenceReady s x.g sc then .done (exitGroup (releaseDo s x.cur.core x.cur.slot sc) x.cur.core x.cur.slot)
      else .held s
    else .done (finishPlain s x f.sp g)

/-- `trap k` (R164). -/
def execTrap (f : EkForm) (s : State) : Out :=
  withOps s f.sp {} fun _ _ => .trap { kind := .trap, code := f.k.toNat }

/-- `yield`: no split of the group is ready for the rest of the clock; a group switch (R164). -/
def execYield (f : EsForm) (s : State) : Out :=
  withOps s f.sp {} fun s x =>
    let s := finishPlain s x f.sp x.g
    .done (s.modGroup x.cur.core x.cur.slot fun g => ({ g with arch := { g.arch with
      splits := g.arch.splits.map fun (p : Split) => { p with stalled := true } } } : Group).lose)

/-- Length in bytes of the trapped instruction, its mask word included (R166). -/
def trappedLength (tinsn : DWord) : Nat := if !tinsn.getLsbD 0 then 2 else if tinsn.getLsbD 1 then 8 else 4

/-- Leave handler mode at an address (R166). An `rfe` that is a safe point is one as any instruction is (R91). -/
def rfeTo (s : State) (x : Issue) (sp : Sp) (resume : Nat) (pc : VAddr) : Res :=
  if x.g.badSave then .trap { kind := .regpsn, code := 4 }
  else
    let g := x.g.leaveHandler s.cyc x.cur.split resume pc
    let g := if sp.isSome then g.lose else g
    .done (takeSafePoint (s.setGroup g) x sp g)

/-- `rfe retry`: back at the trapped instruction; a remote one resumes from the failing peer (R166, R216). -/
def execRfeRetry (f : EsForm) (s : State) : Out :=
  withOps s f.sp {} fun s x =>
    if !x.g.trap.handler then .trap (trapAll .illins)
    else rfeTo s x f.sp x.g.trap.pass (x.g.trap.tpc.setWidth 56)

/-- `rfe skip` (R166). -/
def execRfeSkip (f : EsForm) (s : State) : Out :=
  withOps s f.sp {} fun s x =>
    if !x.g.trap.handler then .trap (trapAll .illins)
    else rfeTo s x f.sp 0 (x.g.trap.tpc.setWidth 56 + BitVec.ofNat 56 (trappedLength x.g.trap.tinsn))

/-- `rfe sA` (R166). -/
def execRfeReg (f : EpForm) (s : State) : Out :=
  withOps s f.sp { sr := [f.p.toNat] } fun s x =>
    let t := scalarReg s x f.p.toNat
    if !x.g.trap.handler then .trap (trapAll .illins)
    else if badTarget t then .trap { kind := .pcalign, addr := t.toNat }
    else rfeTo s x f.sp 0 (t.setWidth 56)

end Sys2Proof.Machine
end

