-- ==== Sys2Proof/Machine/Access.lean ====
section
/-!
DEFINITION. What every memory instruction shares: the local-store windows of a team, the address checks
(10_memory_instructions.md R195 to R197), page faults held or logged (R198, R188, R334), and how a line of a global
access is served at once in the L1 or sent to its home (R201, R202, R207).
-/
namespace Sys2Proof.Machine

/-! ## Local store -/

/-- Bytes of a local store. -/
def localBytes : Nat := 2 ^ 21
/-- Key of a local address of a core in the local memory. -/
def localKey (core a : Nat) : Nat := core * localBytes + a

/-- Offset of region `code` (1 W, 2 A, 3 C, 4 S) in a team's allocation (R171). -/
def regionOff (t : Team) (code : Nat) : Nat :=
  Config.granule * (match code with
    | 1 => 0
    | 2 => t.wGran
    | 3 => t.wGran + t.aGran
    | _ => t.wGran + t.aGran + t.cGran)

/-- Size of region `code` of a team in bytes. -/
def regionSize (t : Team) (code : Nat) : Nat :=
  Config.granule * (match code with | 1 => t.wGran | 2 => t.aGran | 3 => t.cGran | _ => t.sGran)

/-- Local address of byte 0 of a region of a team. -/
def regionBase (t : Team) (code : Nat) : Nat := t.lsOff + regionOff t code

/-- State of a local line, by key / 128; none is empty (R173). -/
def State.lineState (s : State) (k : Nat) : Option LineState := lookupNat k s.lines
/-- Set the state of a local line. -/
def State.setLine (s : State) (k : Nat) (v : LineState) : State := { s with lines := insertNat k v s.lines }
/-- Make a local line empty. -/
def State.emptyLine (s : State) (k : Nat) : State := { s with lines := eraseNat k s.lines }

/-- A local line that is overwritten in full is good again (R336). -/
def localHeal (s : State) (key n : Nat) : State :=
  if key % 128 = 0 && n = 128 then { s with lpoison := s.lpoison.filter fun k => k ≠ key / 128 } else s

/-- Write whole bytes of a full or empty local line; an empty line's other bytes become zero and the line full
(R173). The caller has seen that it is not pending. -/
def localWrite (s : State) (key n : Nat) (v : Nat) : State :=
  let line := key / 128
  let mem := if s.lineState line = some .full then s.lmem else memWriteLE s.lmem (128 * line) 128 0
  localHeal ({ s with lmem := memWriteLE mem key n v }.setLine line .full) key n

/-! ## Kinds of access -/

/-- What a memory instruction asks for: bytes per lane, the permission and regions of Table Memory Instructions 1,
the page types, whether it writes, whether it must be aligned by address, whether it returns a value. -/
structure Kind where
  size : Nat
  perm : AReg → Bool
  regions : List Nat
  types : List Nat
  write : Bool
  aligned : Bool
  returns : Bool

/-- One lane of a memory instruction: its 64-bit address and its data. -/
structure LaneOp where
  lane : Nat
  ea : Nat
  data : DWord
  extra : DWord
  deriving DecidableEq, Repr

/-- Where a lane's bytes lie. -/
inductive Place where
  /-- local store, by key -/
  | loc (key : Nat)
  /-- the group's own registers, by byte offset (R123) -/
  | reg (off : Nat)
  /-- a byte of global memory on a page -/
  | glob (ga : Nat) (p : Page)
  /-- the application-die window -/
  | window (p : Page)
  /-- a sketch page -/
  | sketch (va : Nat) (p : Page)
  deriving DecidableEq, Repr

/-- A piece of a lane's access: place, size, first byte of the lane's value. -/
structure Piece where
  place : Place
  size : Nat
  off : Nat
  deriving DecidableEq, Repr

/-- A lane with its pieces. -/
structure LaneAt where
  op : LaneOp
  pieces : List Piece
  deriving DecidableEq, Repr

/-! ## Checks by address (R197) -/

/-- Bounds of a lane's address (R197). -/
def outOfBounds (x : Issue) (a : AReg) (size ea : Nat) : Bool :=
  ea < a.base.toNat || a.limit.toNat < ea + size ||
  (match a.rgn with
    | 0 => false | 6 => false | 7 => false
    | 5 => 480 * x.g.width < ea + size
    | c => regionSize x.t c < ea + size)

/-- The first of the checks by address that a lane fails, as (order, kind). -/
def addrCheck (x : Issue) (a : AReg) (k : Kind) (ea : Nat) : Option (Nat × TrapKind) :=
  if !k.perm a then some (0, .perm)
  else if !k.regions.contains a.rgn then some (1, .attr)
  else if outOfBounds x a k.size ea then some (2, .bounds)
  else if (k.aligned || a.rgn = 7) && ea % k.size != 0 then some (3, .align)
  else none

/-- The pieces of `size` bytes from an address, cut where a unit of `u` bytes ends: (address, size, offset). -/
def cutAt (u addr size : Nat) : List (Nat × Nat × Nat) :=
  let n := min size (u - addr % u)
  if n = size then [(addr, size, 0)] else [(addr, n, 0), (addr + n, size - n, n)]

/-- The pieces of an access to global memory, cut at line boundaries (R189). -/
def cutLines (addr size : Nat) : List (Nat × Nat × Nat) := cutAt 128 addr size
/-- The pieces of an access to local store, cut at the boundaries of bank rows (R189). -/
def cutRows (addr size : Nat) : List (Nat × Nat × Nat) := cutAt 32 addr size

/-- The attributes two pages must share (Table Memories 7). -/
def samePage (p q : Page) : Bool := p.ty == q.ty && p.pol == q.pol && p.ca == q.ca && p.dd == q.dd && p.perm == q.perm

/-- Where the bytes of a virtual address on a page lie. -/
def placeOf (va : Nat) (p : Page) : Place :=
  if p.ty = 2 then .sketch va p
  else match p.phys with
    | .dram ga => .glob ga p
    | _ => .window p

/-- Translate for the issuing group. A returning access that was held on a page raises PAGE if `PFRES` called the page
unmappable, whatever its entry says now: the translation counts as faulting (R334). -/
def translateFor (s : State) (x : Issue) (returns : Bool) (need : Need) (va : Nat) : Except PageFault Page :=
  if returns && x.cur.split == x.g.faultSplit && x.g.failedPages.contains (va / 65536) then .error ⟨va / 65536, false⟩
  else translate s x.t.tctx need va

/-- Find a lane's bytes: its page or pages, or the page fault (R185, R189). The second component is a failed check of
the pages: alignment by page type, then attribute (R197). -/
def locate (s : State) (x : Issue) (a : AReg) (k : Kind) (ea : Nat) :
    Except PageFault (List Piece × Option (Nat × TrapKind × Nat)) :=
  if 1 ≤ a.rgn && a.rgn ≤ 4 then
    let key := localKey x.g.core (regionBase x.t a.rgn + ea)
    .ok ((cutRows key k.size).map fun c => ⟨.loc c.1, c.2.1, c.2.2⟩, none)
  else if a.rgn = 5 then .ok ([⟨.reg ea, k.size, 0⟩], none)
  else
    let need := if k.write then Need.write else Need.read
    let va := ea % 2 ^ 56
    let cut := cutLines va k.size
    match translateFor s x k.returns need va with
    | .error f => .error f
    | .ok p =>
      let bad (p : Page) : Option (Nat × TrapKind × Nat) :=
        if p.ty = 2 && ea % k.size != 0 then some (4, .align, 0)
        else if !k.types.contains p.ty then some (5, .attr, 0) else none
      match cut with
      | [c] => .ok ([⟨placeOf va p, c.2.1, 0⟩], bad p)
      | _ =>
        let va2 := va - va % 128 + 128
        match translateFor s x k.returns need va2 with
        | .error f => .error f
        | .ok q =>
          let n := 128 - va % 128
          .ok ([⟨placeOf va p, n, 0⟩, ⟨placeOf va2 q, k.size - n, n⟩],
            match bad p with
            | some e => some e
            | none => if !samePage p q then some (5, .attr, 1) else bad q)

/-- The trap of the failing lane with the earliest check, the lowest lane first among equals. -/
def firstFailure (write : Bool) : List (Nat × LaneOp × TrapKind × Nat) → Option TrapInfo
  | l =>
    match leastBy (fun e => e.1 * 64 + e.2.1.lane) l with
    | none => none
    | some e => some { kind := e.2.2.1, code := e.2.2.2, lane := some e.2.1.lane, addr := e.2.1.ea, write := write }

/-- What the checks of R197 leave: lanes found, lanes whose translation faulted, helper lanes that read zero. -/
structure Found where
  ok : List LaneAt
  faults : List (LaneOp × PageFault)
  zero : List Nat
  deriving DecidableEq, Repr

/-- The checks of R197 over the lanes; a helper that fails one reads zero (R26). -/
def checkLanes (s : State) (x : Issue) (a : AReg) (k : Kind) (ops : List LaneOp) : Except TrapInfo Found :=
  let helper (o : LaneOp) : Bool := x.g.arch.helpers.getLsbD o.lane
  let failed := ops.filterMap fun o => (addrCheck x a k o.ea).map fun e => (e.1, o, e.2, 0)
  match firstFailure k.write (failed.filter fun e => !helper e.2.1) with
  | some t => .error t
  | none =>
    let good := ops.filter fun o => (addrCheck x a k o.ea).isNone
    let looked := good.map fun o => (o, locate s x a k o.ea)
    let pageFail := looked.filterMap fun e => match e.2 with
      | .ok (_, some f) => some (f.1, e.1, f.2.1, f.2.2)
      | _ => none
    match firstFailure k.write (pageFail.filter fun e => !helper e.2.1) with
    | some t => .error t
    | none =>
      let ok := looked.filterMap fun e => match e.2 with | .ok (ps, none) => some ⟨e.1, ps⟩ | _ => none
      let faults := looked.filterMap fun e => match e.2 with
        | .error f => if helper e.1 then none else some (e.1, f)
        | _ => none
      let seen := ok.map (·.op.lane) ++ faults.map (·.1.lane)
      .ok ⟨ok, faults, (ops.map (·.lane)).filter fun l => !seen.contains l⟩

/-! ## Own checks on the bytes found -/

/-- Bytes of a queue header that may be written: a plain 8-byte store to `PDN`, an `addd` with `C` = 0 on `RSV`
(R259). -/
def headerWriteOk (fn : AccFn) (comm : Bool) (ga size : Nat) : Bool :=
  match fn with
  | .write => size = 8 && ga % 128 = 32
  | .atomic f => f = 1 && !comm && ga % 128 = 8
  | _ => false

/-- Is a byte of the range part of a live sync word (R311)? -/
def hitsSync (s : State) (ga size : Nat) : Bool := s.sync.any fun w => ga < 8 * w.1 + 8 && 8 * w.1 < ga + size

/-- Bits of a row of `n` elements of a format (R104). -/
def rowBits (fmt n : Nat) : Nat := fmtWidth fmt * n
/-- Lines of a row of `n` elements of a format (R278). -/
def rowLines (fmt n : Nat) : Nat := ceilDiv (rowBits fmt n) 1024

/-- Fields of a region entry's image (Table Tables 1). -/
def Region.src (r : Region) : Nat := (r.w2.extractLsb' 29 2).toNat
/-- See `Region.src`. -/
def Region.mc (r : Region) : BitVec 4 := r.w2.extractLsb' 25 4
/-- See `Region.src`. -/
def Region.lst (r : Region) : Nat := (r.w2.extractLsb' 17 8).toNat
/-- See `Region.src`. -/
def Region.wrg (r : Region) : Nat := (r.w2.extractLsb' 14 3).toNat
/-- See `Region.src`. -/
def Region.woff (r : Region) : Nat := (r.w2.extractLsb' 0 14).toNat
/-- See `Region.src`. -/
def Region.fmt (r : Region) : Nat := (r.w1.extractLsb' 60 4).toNat
/-- See `Region.src`. -/
def Region.rows (r : Region) : Nat := (r.w1.extractLsb' 48 12).toNat + 1
/-- See `Region.src`. -/
def Region.elems (r : Region) : Nat := (r.w1.extractLsb' 32 16).toNat + 1
/-- See `Region.src`. -/
def Region.gst (r : Region) : BitVec 32 := r.w1.extractLsb' 0 32
/-- See `Region.src`. -/
def Region.gva (r : Region) : VAddr := r.w0.extractLsb' 0 56
/-- Lines of one row of the window. -/
def Region.perRow (r : Region) : Nat := rowLines r.fmt r.elems
/-- Stride between rows in lines: `LST`, or the packed stride (R278, R297). -/
def Region.stride (r : Region) : Nat := if r.lst = 0 then r.perRow else r.lst
/-- The lines of the window within its region: row r, line j lies at `WOFF` + r × stride + j. -/
def Region.lines (r : Region) : List Nat :=
  (List.range r.rows).flatMap fun i => (List.range r.perRow).map fun j => r.woff + i * r.stride + j
/-- First line of the region a team's window lies in, by local line. -/
def regionLine (t : Team) (code : Nat) : Nat := regionBase t code / 128
/-- The keys of the local lines of an entry's window on the team's core. -/
def Region.keys (r : Region) (t : Team) : List Nat :=
  r.lines.map fun l => localKey t.core 0 / 128 + regionLine t r.wrg + l

/-- Is a local line part of a sealed window of a team of its core (R300)? -/
def sealedLine (s : State) (core k : Nat) : Bool :=
  s.teams.any fun t => t.core == core && t.regions.any fun r => r.sealed && (r.keys t).contains k

/-- The trap a writing lane meets at its bytes: sealed window, queue header, live sync word (R259, R300, R311). -/
def writeCheck (s : State) (core : Nat) (fn : AccFn) (comm : Bool) (l : LaneAt) : Option TrapInfo :=
  let info (k : TrapKind) (code : Nat) : TrapInfo := { kind := k, code := code, lane := some l.op.lane, addr := l.op.ea, write := true }
  l.pieces.findSome? fun p => match p.place with
    | .loc key => if sealedLine s core (key / 128) then some (info .attr 3) else none
    | .glob ga _ =>
      if (s.headerQueue? (ga / 128)).isSome && !headerWriteOk fn comm ga p.size then some (info .attr 2)
      else if hitsSync s ga p.size then some (info .sync 0) else none
    | _ => none

/-- The trap a reading lane meets: poisoned bytes (R198); `write` of an access that also writes (R331). -/
def poisonCheck (s : State) (write : Bool) (l : LaneAt) : Option TrapInfo :=
  let info (code : Nat) : TrapInfo :=
    { kind := .poison, code := code, lane := some l.op.lane, addr := l.op.ea, write := write }
  l.pieces.findSome? fun p => match p.place with
    | .loc key => if s.lpoison.contains (key / 128) then some (info 1) else none
    | .glob ga _ => if s.poison.contains (ga / 128) then some (info 0) else none
    | _ => none

/-- After 200 µs without a path, a returning access to a home raises UNREACH (R245). -/
def cutOff (s : State) (m h : Nat) : Bool :=
  s.nopath.any fun p => p.m == m && p.h == h && p.applied

/-- A lane whose home has been lost (R245). -/
def unreachable (s : State) (m : Nat) (l : LaneAt) : Option Nat :=
  l.pieces.findSome? fun p => match p.place with
    | .glob ga _ => if cutOff s m (lineMod (ga / 128)) then some (lineMod (ga / 128)) else none
    | _ => none

/-! ## Order with what is under way -/

/-- Does a lane of an entry cover a byte of [va, va + n)? A lane of a remote entry covers bytes of its target, so the
addresses that both translate to are compared (R223). -/
def laneCovers (s : State) (e : LogEntry) (va n : Nat) (l : LogLane) : Bool :=
  if !e.remote then decide (va < l.va.toNat + e.size) && decide (l.va.toNat < va + n)
  else match translate s e.tctx .write l.va.toNat, translate s { e.tctx with m := coreMod e.core } .read (va % 2 ^ 56) with
    | .ok p, .ok q => match p.phys, q.phys with
      | .dram a, .dram b => decide (b < a + e.size) && decide (a < b + n)
      | _, _ => false
    | _, _ => false

/-- Do the bytes [va, va + n) of the group meet a pending side-log entry of its own that a test holds of (R188, R223)? -/
def meetsLogBy (f : LogEntry → Bool) (s : State) (core slot va n : Nat) : Bool :=
  s.log.any fun e => f e && e.core == core && e.slot == slot && !e.loss && e.lanes.any (laneCovers s e va n)

/-- Do they meet any (R188, R223)? -/
def meetsLog : State → Nat → Nat → Nat → Nat → Bool := meetsLogBy fun _ => true

/-- Is an entry the access of an atomic, a sketch or a remote instruction, whose completion is waited for in a group switch
(R127)? -/
def LogEntry.switches (e : LogEntry) : Bool := e.remote || e.fn != .write

/-- Does a line meet a remote packet of the group that a test holds of (R221)? -/
def meetsPacketBy (f : Packet → Bool) (s : State) (core slot line : Nat) : Bool :=
  s.streams.any fun st => st.core == core && (st.buffer ++ st.flight).any fun p =>
    f p && p.slot == slot && p.accs.any fun a => a.ga / 128 == line
/-- Does it meet any (R221)? -/
def meetsPacket : State → Nat → Nat → Nat → Bool := meetsPacketBy fun _ => true

/-- Must the access wait: an acquire of the group under way (R202), bytes of a pending log entry that `f` holds of, a remote
packet on a line, an empty or pending local line it reads, a pending one it writes, a spilled register it reaches (R122,
R173)? -/
def waitsBehind (f : LogEntry → Bool) (s : State) (x : Issue) (a : AReg) (k : Kind) (ok : List LaneAt) : Bool :=
  x.g.txns.any (fun t => t.acquire.isSome) ||
  ok.any fun l =>
    ((a.rgn = 0 || 6 ≤ a.rgn) && meetsLogBy f s x.g.core x.g.slot l.op.ea k.size) ||
    l.pieces.any fun p => match p.place with
      | .loc key =>
        if k.returns then s.lineState (key / 128) != some .full else s.lineState (key / 128) == some .pending
      | .reg off => (List.range p.size).any fun b =>
          let r := (off + b) / 4 / x.g.width
          isSpilled x.g r || x.g.txns.any fun t => match t.dest with
            | .lanes d n => !t.noWrite && d ≤ r && r < d + n
            | .scalar _ => false
      | .glob ga _ => meetsPacket s x.g.core x.g.slot (ga / 128)
      | _ => false

/-- Must the access wait at all? An atomic at an empty local line waits as a load does, with `C` = 1 too (Table Memories 3 has no
column for it: DESIGN CHOICE, log 101). -/
def mustWait : State → Issue → AReg → Kind → List LaneAt → Bool := waitsBehind fun _ => true
/-- Must it wait in a group switch? A wait for a plain store's entry of the side log is none that R127 lists. -/
def accessStalls : State → Issue → AReg → Kind → List LaneAt → Bool := waitsBehind LogEntry.switches

/-- Has the group's last local access a bank row still to reach? Then its next one stands behind it (R222, R227). -/
def rowWaits (s : State) (x : Issue) (a : AReg) : Bool := 1 ≤ a.rgn && a.rgn ≤ 4 && hasRest s x.g

/-- Has the group an earlier request for the line? Then the new access follows it to the home (R221). -/
def earlierReq (s : State) (x : Issue) (line : Nat) : Bool :=
  s.reqs.any fun r => r.agent == .group x.g.core x.g.slot && r.line == line

/-! ## Local pieces -/

/-- Read a register-window byte range (R123). -/
def regWindowRead (x : Issue) (off n : Nat) : Nat :=
  ofBytes ((List.range n).map fun b =>
    let i := (off + b) / 4
    (laneReg x.t x.g (i / x.g.width) (i % x.g.width)).extractLsb' (8 * ((off + b) % 4)) 8)

/-- Write one byte of the register window (R123). -/
def regWindowPut (t : Team) (g : Group) (off : Nat) (b : Byte) : Group :=
  let i := off / 4
  let r := i / g.width
  let L := i % g.width
  let sh := 8 * (off % 4)
  let old := laneReg t g r L
  g.putLane r (1#64 <<< L) fun _ => (old &&& ~~~(0xFF#32 <<< sh)) ||| (b.setWidth 32 <<< sh)

/-! ## Requests -/

/-- The tag origin of an access of a group to a page (R177). -/
def reqDomain (s : State) (x : Issue) (p : Page) : Option Nat := (originOf s x.t.tctx p).domain

/-- Add a request for a line. -/
def addReq (s : State) (x : Issue) (line : Nat) (p : Page) (kind : ReqKind) (fn : AccFn) (accs : List LaneAcc)
    (txn : Option Nat) (sc : Bool) (pol : BitVec 2) : State :=
  let r : Req := ⟨s.nextId, .group x.g.core x.g.slot, x.g.core, x.t.vf, line, kind, fn, accs, txn, sc, pol,
    reqDomain s x p, p.pol, false, none⟩
  { s with reqs := s.reqs ++ [r], nextId := s.nextId + 1 }

/-- OR a returned value into a lane of an access under way. -/
def Txn.give (t : Txn) (lane off : Nat) (v : DWord) : Txn :=
  { t with lanes := mapWhere (fun l => l.1 == lane) (fun l => (l.1, l.2 ||| (v <<< (8 * off)))) t.lanes }

/-- Replace an access under way of a group. -/
def State.modTxn (s : State) (core slot id : Nat) (f : Txn → Txn) : State :=
  s.modGroup core slot fun g => { g with txns := mapWhere (fun t => t.id == id) f g.txns }

/-- The pieces of the lanes on one line, in lane order. -/
def accsOn (line : Nat) (ok : List LaneAt) : List LaneAcc :=
  ok.flatMap fun l => l.pieces.filterMap fun p => match p.place with
    | .glob ga _ => if ga / 128 = line then
        some ⟨l.op.lane, ga, p.size, p.off, (l.op.data >>> (8 * p.off)), l.op.extra, l.op.ea + p.off⟩ else none
    | _ => none

/-- The lines the lanes touch with their pages, each once, in order of first touch. -/
def linesOf (ok : List LaneAt) : List (Nat × Page) :=
  (ok.flatMap fun l => l.pieces.filterMap fun p => match p.place with
    | .glob ga pg => some (ga / 128, pg)
    | _ => none).foldl (fun acc e => if acc.any fun q => q.1 = e.1 then acc else acc ++ [e]) []

/-! ## Side log (R188, R198, R272) -/

/-- Entries a side log has room for. -/
def logRoom (s : State) (core : Nat) : Nat := 256 - (s.log.filter fun e => e.core == core && !e.loss).length

/-- The distinct pages of a list of faults, in lane order. -/
def faultPages (fs : List (LaneOp × PageFault)) : List PageFault :=
  (fs.map (·.2)).foldl (fun acc f => if acc.any fun g => g.page = f.page then acc else acc ++ [f]) []

/-- Where the payload of a core's entry lies in its partition's side-log area, and its bytes: 24 for each lane, in lane
order (R272). Each core has 256 places of 1,536 bytes there, taken in turn (DESIGN CHOICE, log 10). -/
def logPay (s : State) (core seq : Nat) : Nat :=
  coreMod core * 2 ^ 40 + (s.corePart core).sideLog + (core % 256 * 256 + seq % 256) * 1536

/-- The bytes of a lane's payload. -/
def LogLane.bytes (l : LogLane) : List Byte := leBytes 8 l.va.toNat ++ leBytes 16 l.data.toNat

/-- Write bytes of the hardware's own to global memory, a line at a time. -/
def hwWrite (o : Origin) : Nat → State → Nat → List Byte → State
  | 0, s, _, _ => s
  | n + 1, s, ga, bs =>
    if bs.isEmpty then s
    else
      let k := 128 - ga % 128
      hwWrite o n (homeWriteBytes s o ga (bs.take k)) (ga + k) (bs.drop k)

/-- Log the lanes on one faulting page: one entry with its payload, one record per pair (R198, R272, R334). `st` is 1 for
a page, 3 for a lost target; an entry whose fault cannot be reported is discarded and reported lost at once (R334, R335).
-/
def logEntry (s : State) (x : Issue) (size : Nat) (fn : AccFn) (osc : Nat) (peer : Nat) (remote zo : Bool) (st : BitVec 2)
    (epo : BitVec 16) (page : Nat) (lanes : List LogLane) : State :=
  let seq := (s.core x.g.core).logSeq
  let pay := logPay s x.g.core seq
  let e : LogEntry := ⟨x.g.core, seq, x.cur.word, peer, page, min osc (s.vf x.m x.t.vf).cap.toNat, x.t.ctx, x.t.l0, x.t.vf,
    x.t.pl, x.g.slot, false, zo, st, remote, epo, fn, size, none, pay, s.nextId, lanes⟩
  let s := hwWrite ⟨x.t.vf, none, 1⟩ 13 s pay (lanes.flatMap LogLane.bytes)
  { s with log := s.log ++ [e] }.modCore x.g.core fun c => { c with logSeq := seq + 1 }

/-- The lanes of the faults on a page as log lanes. -/
def logLanes (fs : List (LaneOp × PageFault)) (page : Nat) : List LogLane :=
  (fs.filter fun f => f.2.page = page).map fun f =>
    ⟨f.1.lane, BitVec.ofNat 56 f.1.ea, (f.1.extra ++ f.1.data : BitVec 128)⟩

/-- Enter every faulting page of an instruction that returns nothing into the side log (R198). -/
def logFaults (s : State) (x : Issue) (k : Kind) (fn : AccFn) (osc : Nat) (fs : List (LaneOp × PageFault)) : State :=
  (faultPages fs).foldl (fun s f =>
    let (s, dead) := raisePageFault s x.t.tctx (coreMod x.g.core) x.t.node f (1 + 4) x.g.core x.g.slot
    let ls := logLanes fs f.page
    if dead then lossRecord s (coreMod x.g.core) x.t.node (f.page * 65536) 0 1 x.g.core ls.length
    else logEntry s x k.size fn osc 0 false false 1 0 f.page ls) s

/-- A returning access meets page faults: PAGE for a page resolved unmappable, else the group is held and the faults
reported (R198, R334). -/
def holdFaults (s : State) (x : Issue) (write : Bool) (fs : List (LaneOp × PageFault)) : Res :=
  let dead (p : Nat) : Bool := x.g.failedPages.contains p ||
    (x.g.retried.contains p && !s.pairs.contains ⟨x.m, x.t.vf, x.t.ctx, p⟩)
  match fs.find? fun f => dead f.2.page with
  | some f => .trap { kind := .page, lane := some f.1.lane, addr := f.1.ea, write := write }
  | none =>
    let (s, dead) := (faultPages fs).foldl (fun (acc : State × List Nat) f =>
      let (s, d) := raisePageFault acc.1 x.t.tctx (coreMod x.g.core) x.t.node f
        (2 + if write then 4 else 0) x.g.core x.g.slot
      (s, if d then f.page :: acc.2 else acc.2)) (s, [])
    .held (s.modGroup x.g.core x.g.slot fun g => { g with
      failedPages := dead ++ g.failedPages
      faultSplit := x.cur.split
      faultFetch := false
      heldPages := if dead.isEmpty then (faultPages fs).map (·.page) else g.heldPages })

end Sys2Proof.Machine
end

