-- ==== Sys2Proof/Machine/Launch.lean ====
section
/-!
DEFINITION. Nodes, activations, placement (02_execution_model.md R22 to R44): coalescing and taking records (15_queues.md
R262), credits, triggers and completion, and the state a group is launched with (06_register_state.md R120 to R132).
-/
namespace Sys2Proof.Machine

/-! ## The launch state of a group -/

/-- Lanes of group `g` below the lane count (R24). -/
def liveAt (n w g : Nat) : Mask := maskOf ((List.range w).filter fun L => g * w + L < n)
/-- Lanes that are helpers from the start (R24). -/
def helperAt (n w g : Nat) : Mask := maskOf ((List.range w).filter fun L => n ≤ g * w + L && g * w + L < ceilDiv n 4 * 4)

/-- An entry of a region table set to zero (R44, R297). -/
def Region.zero : Region := ⟨0, 0, 0, 0, false, 0, 0⟩

/-- A permission byte (Table Registers 4). -/
def permOf (rgn bits : Nat) : BitVec 8 := BitVec.ofNat 8 (rgn * 32 + bits)

/-- The address registers a launch grants: the records, the four windows, the register window, the node's grants
(R126). -/
def launchAregs (t : Team) (recBase recLimit : Nat) (grants : List AReg) : List AReg :=
  [⟨t.rbase, BitVec.ofNat 56 recBase, BitVec.ofNat 56 recLimit, permOf 6 1⟩] ++
  ([1, 2, 3, 4].map fun c => ⟨0, 0, BitVec.ofNat 56 (regionSize t c), permOf c 7⟩) ++
  [⟨0, 0, BitVec.ofNat 56 (480 * t.width), permOf 5 3⟩] ++
  (grants ++ List.replicate 10 AReg.none).take 10

/-- The architected state of group `g` of a team at launch (R120, R125, R130 to R132). -/
def launchArch (t : Team) (g : Nat) (kva : VAddr) (aregs : List AReg) (cyc : Nat) : Arch where
  blocks := List.replicate 15 .unallocated
  sregs := List.replicate 48 0
  aregs := aregs
  window := []
  gang := 0
  fpcr := 0x20
  srseed := fmix64 (t.seed ^^^ BitVec.ofNat 64 (t.band * 128 + t.num * 32 + g))
  msc := 0
  splits := [{ slot := 0, pc := kva, mask := liveAt t.lanes t.width g ||| helperAt t.lanes t.width g, handler := false
               held := false, issuedAt := cyc, stalled := false }]
  parked := []
  helpers := helperAt t.lanes t.width g
  retired := 0

/-- The trap state at launch (R331). -/
def TrapState.reset : TrapState := ⟨false, [], 0, 0, 0, 0, 0, 0⟩

/-- Group `g` of a team at launch, in a slot of the team's core. -/
def launchGroup (t : Team) (g slot : Nat) (kva : VAddr) (aregs : List AReg) (cyc : Nat) : Group where
  core := t.core
  slot := slot
  team := t.uid
  num := g
  width := t.width
  arch := launchArch t g kva aregs cyc
  trap := TrapState.reset
  txns := []
  twi := none
  age := 0
  waited := 0
  issuedAt := none
  lastSlot := 3
  placedAt := cyc
  triggered := none
  exitedOnce := 0
  faulted := false
  preempt := .running
  heldPages := []
  failedPages := []
  retried := []
  faultSplit := 0
  pending := []
  bseq := 0
  batches := []
  mseq := 0
  mposts := []
  mentry := none
  savedRes := none
  cseq := 0
  cruns := []
  badBlocks := []
  badArea := false
  badSave := false

/-! ## Records and credits -/


/-- The launch threshold of a stream node, or one record of a grid node (R34, R35). -/
def NodeEntry.need (e : NodeEntry) : Nat := if e.grid then 1 else e.thresh

/-- Has the timeout of a stream node run (R262)? -/
def timedOut (s : State) (e : NodeEntry) (q : Queue) : Bool :=
  match q.pubTicks.find? fun p => p.1 = q.tkn with
  | some p => max p.2 q.enableTick + e.timeout ≤ s.ltick
  | none => false

/-- Does every edge of the node hold a credit (R37)? -/
def creditsReady (s : State) (m n : Nat) (e : NodeEntry) : Bool :=
  (List.range (min e.edges 8)).all fun i => 0 < edgeCredits s m n i

/-- The records an activation of the node would take now, if it is ready: by the threshold, or, when `byTime`, by the
timeout (R34, R35, R37, R262). -/
def readyCount (s : State) (m n : Nat) (byTime : Bool) : Option Nat :=
  let e := nodeEntry s m n
  let q := s.queue m n
  let have_ := q.pub - q.tkn
  if !e.assigned || !(q.en || q.enAt s.cyc) || (q.frozen && !q.enAt s.cyc) || have_ = 0 || !creditsReady s m n e then none
  else if e.need ≤ have_ then some e.need
  else if byTime && !e.grid && timedOut s e q then some have_
  else none

/-- Edges (node, edge) of the module that name a predecessor with a mode (R37). -/
def successors (s : State) (m node : Nat) (trigger : Bool) : List (Nat × Nat) :=
  (List.range 1024).flatMap fun n =>
    let e := nodeEntry s m n
    if !e.assigned then []
    else (List.range (min e.edges 8)).filterMap fun i =>
      let w := nodeWord s m n (64 + 8 * i)
      if bitsOf w 0 10 = node && (bitsOf w 12 1 = 1) = trigger then some (n, i) else none

/-- Add one credit to an edge (node, edge); the signal is held while the edge is full (R37). -/
def addCredit (s : State) (m : Nat) (p : Nat × Nat) : State :=
  if edgeCredits s m p.1 p.2 < 65535 then setCredits s m p.1 p.2 (edgeCredits s m p.1 p.2 + 1)
  else { s with owed := s.owed ++ [(m, p.1, p.2)] }

/-- Add one credit to each edge. -/
def addCredits (s : State) (m : Nat) (es : List (Nat × Nat)) : State := es.foldl (fun s p => addCredit s m p) s

/-- Take one credit of an edge: a signal held for it is then given (R37). -/
def takeCredit (m n : Nat) (s : State) (i : Nat) : State :=
  if s.owed.contains (m, n, i) then { s with owed := s.owed.erase (m, n, i) }
  else setCredits s m n i (edgeCredits s m n i - 1)

/-! ## Becoming ready -/

/-- Shape of a launch: bands, teams and lanes; none sets the node's error flag (R24, R35, R171, R305, R352). -/
def launchShape (s : State) (m n first : Nat) : Option (Nat × Nat × Nat) :=
  let e := nodeEntry s m n
  let q := s.queue m n
  let shape : Option (Nat × Nat × Nat) :=
    if !e.grid then some (1, e.teams, e.lanes)
    else
      let va := slotAt e q first
      let w (o : Nat) : Nat := match translate s (e.hwCtx m) .read (va + o) with
        | .ok p => match p.phys with | .dram ga => s.readGa ga 8 | _ => 0
        | .error _ => 0
      let w0 := w 0
      let w1 := w 8
      if bitsOf w0 40 24 ≠ 0 || bitsOf w1 16 48 ≠ 0 then none
      else some (bitsOf w0 0 32, bitsOf w0 32 8, bitsOf w1 0 16)
  match shape with
  | none => none
  | some (b, t, l) =>
    let p := (s.partition? m e.part).getD Partition.reset
    let area := 2 ^ 21 - (p.l1KiB + p.rKiB) * 1024
    if t < 1 || 4 < t || l < 1 || 2048 < l || 32 < ceilDiv l e.width || e.recCode = 3 || 16 ≤ e.part ||
       !(s.vf m e.vf).parts.getLsbD e.part || area < (e.gw + e.ga + e.gc + e.gs) * Config.granule then none
    else some (b, t, l)

/-- Free the records of a launch that has completed (R36, R262). -/
def freeRecords (s : State) (m n first count : Nat) : State :=
  s.modQueue m n fun q =>
    let q := { q with completed := q.completed ++ [(first, count)] }
    let r := q.freeRun q.completed.length
    if r.fre = q.fre then r else { r with freWas := some (s.cyc, q.freAt s.cyc) }

/-- An activation of the node becomes ready with `c` records: it takes a credit of every edge and advances `TKN`. One
whose shape is in error, or with no band, completes and triggers at once (R37, R40, R262). The nodes whose credits rose
are returned. -/
def makeReady (s : State) (m n c : Nat) : State × List Nat :=
  let e := nodeEntry s m n
  let q := s.queue m n
  let first := q.tkn
  let shape := launchShape s m n first
  let s := (List.range (min e.edges 8)).foldl (takeCredit m n) s
  let s := s.modQueue m n fun q => { q with
    tkn := q.tkn + c, nextAct := q.nextAct + 1, pubTicks := q.pubTicks.filter fun p => first + c ≤ p.1 }
  let s := if shape.isNone then setNodeErr s m n else s
  let (b, t, l) := shape.getD (0, 0, 0)
  if b = 0 then
    let es := successors s m n true ++ successors s m n false
    (freeRecords (addCredits s m es) m n first c, es.map (·.1))
  else
    let a : Activation := ⟨m, n, q.nextAct, e.prio, e.part, first, c, b, 0, t, l, s.cyc, none, none, false, b * t, b * t, false, false, false, false⟩
    ({ s with acts := s.acts ++ [a] }, [])

/-- Let the nodes of a list become ready as often as they can, and those whose credits that raises. -/
def gather (m : Nat) (byTime : Bool) : Nat → List Nat → State → State
  | 0, _, s => s
  | _, [], s => s
  | fuel + 1, n :: ns, s =>
    match readyCount s m n byTime with
    | none => gather m byTime fuel ns s
    | some c =>
      let (s, more) := makeReady s m n c
      gather m byTime fuel (n :: ns ++ more) s

/-- Steps `gather` may take. -/
def gatherFuel : Nat := 4096

/-- COALESCE_TIMEOUT (R34, R37, R262): the coalescer of node `b` of module `a` judges its threshold and its timeout. -/
def execCoalesceTimeout (s : State) : Out :=
  .next (gather s.ev.a true gatherFuel [s.ev.b] s)

/-! ## Triggers and completion -/

/-- The partials that held updates of a group when it was marked, and still hold some (R237, R320). -/
def markedParts (s : State) (g : Group) : List L1Line := (partialsOf s g.core g.slot).filter fun c => g.trigParts.contains c.line

/-- Is every access a group issued before its `trig` complete at the trigger's scope, its partials of then ready to be delivered
(Table Far Ordering 2, R320)? The second half of an `add2h` counts as issued before. -/
def trigComplete (s : State) (g : Group) (before : Nat) : Bool :=
  s.log.all (fun e => !(e.core == g.core && e.slot == g.slot) || before ≤ e.born) && g.txns.all (fun t => before ≤ t.id) &&
  (g.trigScope = 0 || (
    s.reqs.all (fun r => r.agent != .group g.core g.slot || (before ≤ r.id && r.fn != .atomic 16)) &&
    s.rests.all (fun r => !(r.core == g.core && r.slot == g.slot) || before ≤ r.born) &&
    s.streams.all (fun st => st.core != g.core || (st.buffer ++ st.flight).all fun p => p.slot != g.slot || before ≤ p.born))) &&
  (g.trigScope < 2 || (
    (markedParts s g).all (fun c => !noPath s (coreMod c.core) (lineMod c.line)) &&
    s.copies.all fun c => !(c.core == g.core && c.slot == g.slot && c.team == g.team && 1 < c.dests.length) || before ≤ c.id))

/-- Has a team triggered (R38)? -/
def teamTriggered (s : State) (t : Team) : Bool :=
  (List.range t.groups).all fun i => t.exited.getLsbD i ||
    (s.groups.any fun g => g.team == t.uid && g.num == i && match g.triggered with
      | some k => trigComplete s g k
      | none => false)

/-- The teams of an activation that are still there. -/
def teamsOf (s : State) (a : Activation) : List Team :=
  s.teams.filter fun t => t.m == a.m && t.node == a.node && t.act == a.act

/-- The activation named by an event. -/
def State.act? (s : State) (m node act : Nat) : Option Activation :=
  s.acts.find? fun a => a.m == m && a.node == node && a.act == act

/-- Is the activation's trigger due (R38)? -/
def triggerDue (s : State) (a : Activation) : Bool :=
  !a.triggered && !a.abandoned && !a.faulted && a.nextBand = a.bands && 0 < a.bands &&
  (teamsOf s a).all (teamTriggered s)

/-- The release a trigger carries: the partials that held updates of its teams' groups when they were marked are delivered, at
cluster scope or wider (R38, R237). -/
def deliverTeams (s : State) (a : Activation) : State :=
  (s.groups.filter fun g => 2 ≤ g.trigScope && (teamsOf s a).any fun t => t.uid == g.team).foldl (fun s g =>
    (markedParts s g).foldl (fun s c => deliverPartial s g.core c.line) s) s

/-- GRID_TRIGGER (R38): activation `c` of node `b` of module `a` has triggered; its trigger edges gain a credit. -/
def execGridTrigger (s : State) : Out :=
  match s.act? s.ev.a s.ev.b s.ev.c with
  | none => .next s
  | some a =>
    if triggerDue s a then
      let es := successors s a.m a.node true
      let s := (deliverTeams s a).modAct a.m a.node a.act fun a => { a with triggered := true }
      .next (gather a.m true gatherFuel (es.map (·.1)) (addCredits s a.m es))
    else .next s

/-- Is the activation complete (R39)? -/
def completeDue (a : Activation) : Bool :=
  !a.completed && !a.abandoned && !a.faulted && a.nextBand = a.bands && a.teamsLeft = 0

/-- The activation is over: its records are freed and it is forgotten (R36, R262). -/
def endAct (s : State) (a : Activation) : State :=
  freeRecords { s with acts := s.acts.filter fun x => !(x.m == a.m && x.node == a.node && x.act == a.act) }
    a.m a.node a.first a.count

/-- GRID_COMPLETE (R39): activation `c` of node `b` of module `a` completes; a grid that has not triggered triggers at
the same moment (R38). -/
def execGridComplete (s : State) : Out :=
  match s.act? s.ev.a s.ev.b s.ev.c with
  | none => .next s
  | some a =>
    if completeDue a then
      let es := successors s a.m a.node false ++ if a.triggered then [] else successors s a.m a.node true
      let s := endAct (addCredits s a.m es) a
      .next (gather a.m true gatherFuel (es.map (·.1)) s)
    else .next s

/-! ## Placement -/

/-- Granules of the team area of a core (R170). -/
def areaGranules (s : State) (core : Nat) : Nat :=
  (2 ^ 21 - ((s.corePart core).l1KiB + (s.corePart core).rKiB) * 1024) / Config.granule

/-- Granules of a team. -/
def Team.granules (t : Team) : Nat := t.wGran + t.aGran + t.cGran + t.sGran

/-- The lowest run of `n` free granules of a core (R41, R171): the choice of the lowest is the model's (log 18). -/
def freeRunOf (s : State) (core n : Nat) : Option Nat :=
  let taken (i : Nat) : Bool := s.teams.any fun t => t.core == core &&
    t.lsOff / Config.granule ≤ i && i < t.lsOff / Config.granule + t.granules
  (List.range (areaGranules s core + 1 - n)).find? fun b =>
    b + n ≤ areaGranules s core && (List.range n).all fun i => !taken (b + i)

/-- The free group slots of a core, ascending. -/
def freeSlotsOf (s : State) (core : Nat) : List Nat :=
  (List.range 64).filter fun i => !s.groups.any fun g => g.core == core && g.slot == i

/-- Is an arrival tagged with a core's next generation, of a copy or a drain, still in flight (R174)? -/
def genInFlight (s : State) (core : Nat) : Bool :=
  let next := (s.core core).gen + 1
  s.copies.any (fun c => c.dests.any fun d => d.1 == core && d.2.2 == next) ||
  s.engines.any fun e => (e.entries.flatMap (·.posted) ++ ((e.running.map (·.2)).getD [])).any fun k => match k.dst with
      | some (c, _, n) => c == core && n == next
      | none => false

/-- Can the core take a team of `k` groups with `n` granules (R41)? -/
def coreFits (s : State) (core k n : Nat) : Bool :=
  !retiredCore s core && (freeRunOf s core n).isSome && k ≤ (freeSlotsOf s core).length &&
  rUsed s core + 1024 * k ≤ rSize s core && !genInFlight s core

/-- The cores of a cluster of module `m` that can take a team. -/
def fitCores (s : State) (m cl k n : Nat) : List Nat :=
  ((List.range 4).map fun c => m * 256 + cl * 4 + c).filter fun core => coreFits s core k n

/-- The cluster a band goes to: the fewest resident groups, then the lowest number (R42). -/
def bandCluster (s : State) (a : Activation) (e : NodeEntry) : Option Nat :=
  match s.partition? a.m e.part with
  | none => none
  | some p =>
    let k := ceilDiv a.lanes e.width
    let n := e.gw + e.ga + e.gc + e.gs
    let groupsIn (cl : Nat) : Nat := (s.groups.filter fun g => coreCluster g.core == a.m * 64 + cl).length
    leastBy (fun cl => groupsIn cl * 64 + cl) (p.clusters.filter fun cl => a.teams ≤ (fitCores s a.m cl k n).length)

/-- Is the activation still to be placed? -/
def Activation.open_ (a : Activation) : Bool := a.nextBand < a.bands && !a.abandoned && !a.completed

/-- Does the first activation come before the second in the placer's order (R43)? -/
def Activation.before (a b : Activation) : Bool :=
  b.prio < a.prio || (a.prio == b.prio && (a.readyAt < b.readyAt || (a.readyAt == b.readyAt &&
    (a.node < b.node || (a.node == b.node && a.act < b.act)))))

/-- Do two activations share a partition? -/
def Activation.peer (a b : Activation) : Bool := a.m == b.m && a.part == b.part && !(a.node == b.node && a.act == b.act)

/-- May the activation place a band now, were there room: none of its node before it, none reserving but itself
(R43)? -/
def mayPlace (s : State) (a : Activation) : Bool :=
  a.open_ && !(s.drains.any fun d => d.on && d.m == a.m && d.part == a.part) && s.acts.all fun b => !a.peer b || !b.open_ || (!b.reserving && !(b.node == a.node && b.act < a.act))

/-- Does the activation place its next band now: it fits, and no earlier one in the placer's order does (R43)? -/
def placesNow (s : State) (a : Activation) : Bool :=
  mayPlace s a && (bandCluster s a (nodeEntry s a.m a.node)).isSome &&
  s.acts.all fun b => !a.peer b || !b.before a || !mayPlace s b || (bandCluster s b (nodeEntry s b.m b.node)).isNone

/-- The node's grants a6 to a15 (Table Tables 7). A permission byte with region code R is taken as it stands: the spec
gives it no fate (DESIGN CHOICE, log 81). -/
def nodeGrants (s : State) (m n : Nat) : List AReg :=
  (List.range 10).map fun j =>
    let b := BitVec.ofNat 56 (nodeWord s m n (128 + 24 * j))
    ⟨b, b, BitVec.ofNat 56 (nodeWord s m n (136 + 24 * j)), BitVec.ofNat 8 (nodeWord s m n (144 + 24 * j))⟩

/-- Place a team on a core: its granules, generation and empty lines, its groups in the lowest free slots (R41, R44,
R171, R173, R174). The team acquires its records: the core discards the leased lines of its virtual function (R261; log 82).
-/
def placeTeam (s : State) (a : Activation) (e : NodeEntry) (tnum core : Nat) : State :=
  let q := s.queue a.m a.node
  let gen := (s.core core).gen + 1
  let gran := e.gw + e.ga + e.gc + e.gs
  let off := ((freeRunOf s core gran).getD 0) * Config.granule
  let recBase := e.qva + 128
  let t : Team := {
    uid := s.nextId, m := a.m, core := core, node := a.node, act := a.act, band := a.nextBand, num := tnum
    lanes := a.lanes, width := e.width, bands := a.bands, rbase := BitVec.ofNat 56 (slotAt e q a.first), rcnt := a.count
    pl := e.pl, vf := e.vf, ctx := e.ctx, l0 := e.l0, part := e.part, prio := e.prio, hva := BitVec.ofNat 56 e.hva
    seed := BitVec.ofNat 64 e.seed, lsOff := off, wGran := e.gw, aGran := e.ga, cGran := e.gc, sGran := e.gs, gen := gen
    regions := List.replicate 64 Region.zero, bars := [], groups := ceilDiv a.lanes e.width, exited := 0
    trigDone := false, exitDone := false }
  let aregs := launchAregs t recBase (recBase + q.cap * q.z) (nodeGrants s a.m a.node)
  let slots := (freeSlotsOf s core).take t.groups
  let gs := slots.zipIdx.map fun p => launchGroup t p.2 p.1 (BitVec.ofNat 56 e.kva) aregs s.cyc
  let lo := localKey core off / 128
  let inRun (k : Nat) : Bool := lo ≤ k && k < lo + gran * 128
  let s := s.modCore core fun c => { c with gen := gen }
  let s := acquireDo s core e.vf (min 5 (s.vf a.m e.vf).cap.toNat)
  let s := s.modMod a.m fun x => { x with parts := mapWhere (fun y => y.num == e.part) (fun y => { y with dusked := false }) x.parts }
  { s with
    teams := s.teams ++ [t], groups := s.groups ++ gs, nextId := s.nextId + 1
    lines := s.lines.filter fun p => !inRun p.1
    lpoison := s.lpoison.filter fun k => !inRun k }

/-- PLACE_BAND (R41 to R44): activation `c` of node `b` of module `a` has its next band placed. -/
def execPlaceBand (s : State) : Out :=
  match s.act? s.ev.a s.ev.b s.ev.c with
  | none => .next s
  | some a =>
    let e := nodeEntry s a.m a.node
    match bandCluster s a e with
    | none => .next s
    | some cl =>
      if !placesNow s a then .next s
      else
        let cores := (fitCores s a.m cl (ceilDiv a.lanes e.width) (e.gw + e.ga + e.gc + e.gs)).take a.teams
        let s := cores.zipIdx.foldl (fun s p => placeTeam s a e p.2 p.1) s
        .next (s.modAct a.m a.node a.act fun a =>
          { a with nextBand := a.nextBand + 1, passed := none, reachedAt := none
                   reserving := a.reserving && a.nextBand + 1 < a.bands })

/-- Is it the activation's turn to reserve (R43)? -/
def reserveDue (s : State) (a : Activation) : Bool :=
  a.open_ && !a.reserving && (match a.reachedAt with
    | none => false
    | some r => s.acts.all fun b => !a.peer b || !b.open_ || (!b.reserving && match b.reachedAt with
        | none => true
        | some q => r < q || (r == q && a.before b)))

/-- ACTIVATION_RESERVING (R43): activation `c` of node `b` of module `a` becomes reserving. -/
def execActivationReserving (s : State) : Out :=
  match s.act? s.ev.a s.ev.b s.ev.c with
  | none => .next s
  | some a => .next (if reserveDue s a then s.modAct a.m a.node a.act fun a => { a with reserving := true } else s)

/-! ## Issue and splits -/

/-- ISSUE_PRIORITY_AGEING (R45): the group in slot `b` of core `a` has waited 65,536 clocks. -/
def execIssuePriorityAgeing (s : State) : Out :=
  .next (s.modGroup s.ev.a s.ev.b fun g =>
    if Config.ageClocks ≤ g.waited then { g with age := g.age + 1, waited := 0 } else g)

/-- Exchange the longest parked split with the running split that issued least recently, the lowest slot on a tie;
a group switch (R31, R127). -/
def Group.exchange (g : Group) (cyc : Nat) : Group :=
  match g.arch.parked, leastBy (fun (p : Split) => p.issuedAt * 4 + p.slot) g.arch.splits with
  | k :: ks, some v =>
    let run := g.arch.splits.map fun (p : Split) => if p.slot == v.slot then k.toSplit v.slot else p
    let a := { g.arch with splits := run, parked := ks ++ [v.toParked cyc], window := loseLatches g.arch.window }
    ({ g with arch := a } : Group).settle
  | _, _ => g

/-- PARKED_SPLIT_EXCHANGE (R31): the group in slot `b` of core `a` exchanges a parked split in. -/
def execParkedSplitExchange (s : State) : Out :=
  .next (s.modGroup s.ev.a s.ev.b fun g => if g.preempt = .running || (match g.preempt with | .asked _ => true | _ => false)
    then g.exchange s.cyc else g)

end Sys2Proof.Machine
end

