-- ==== Sys2Proof/Machine/AppCore.lean ====
section
/-!
DEFINITION. Accesses that application cores, chunks and ports make at a line's home: loads and stores that keep clear of
live sync words, queue headers and credits (18_counters.md R311, 15_queues.md R259, R260, 17_tables.md R302, R305).
-/
namespace Sys2Proof.Machine

/-- Count a write to a live sync word that was dropped (R311). -/
def countSyncWr (s : State) (m : Nat) : State :=
  s.modMod m fun x => { x with syncwr := min (x.syncwr + 1) (2 ^ 32 - 1) }

/-- Count a dropped parent arrival or chunk increment (R315, R316). -/
def countSyncErr (s : State) (m : Nat) : State :=
  s.modMod m fun x => { x with syncerr := min (x.syncerr + 1) (2 ^ 32 - 1) }

/-- A write of bytes within one line by an agent other than a group: bytes of live sync words are dropped and counted,
a queue header and the fields that only the hardware writes are not written. What comes from a poisoned source is `bad`. -/
def outerWriteLine (s : State) (o : Origin) (pol : BitVec 2) (ga : Nat) (bs : List Byte) (bad : Bool := false) : State :=
  let line := ga / 128
  if (s.headerQueue? line).isSome then s
  else
    let hit := (s.sync.map (·.1)).filter fun w => ga < 8 * w + 8 && 8 * w < ga + bs.length
    let s1 := homePut true bad s o pol ga bs
    if hit.isEmpty then s1
    else
      let kept (m : List Host.Cell) (w : Nat) : List Host.Cell :=
        (List.range 8).foldl (fun m i => memWrite m (8 * w + i) (memRead s.mem (8 * w + i))) m
      hit.foldl (fun s _ => countSyncWr s (lineMod line)) (installLine { s1 with mem := hit.foldl kept s1.mem } line)

/-- The `WTAG` of a write performed at the home under its page's policy (R186, R257). -/
def Page.wtag (p : Page) : BitVec 2 := if !p.ca || p.pol = 0 then 1 else p.pol

/-- An 8-byte store of `v` to the `PDN` of node `b`'s queue on module `a`. An index below
`PUB`, at or above `RSV`, or already done sets `PERR` (R259, R260, R263). -/
def pdnStore (s : State) (m node : Nat) (v : DWord) : State :=
  let q := s.queue m node
  let i := v.toNat
  if i < q.pub || q.rsv ≤ i || q.done.contains i then s.modQueue m node fun q => { q with perr := true, pdn := v }
  else
    let s := s.modQueue m node fun q => { q with pdn := v }.markDone s.ltick i
    gather m false gatherFuel [node] s

/-- Add to `RSV` and answer its value before (R259, R260). -/
def rsvAdd (s : State) (m node : Nat) (v : DWord) : DWord × State :=
  let q := s.queue m node
  (BitVec.ofNat 64 q.rsv, s.modQueue m node fun q => { q with rsv := (q.rsv + v.toNat) % 2 ^ 64 })

end Sys2Proof.Machine
end

