-- ==== Sys2Proof/Machine/Tile.lean ====
section
/-!
DEFINITION. The tiles of the matrix engine: modes, descriptors, extents, what a pass reads and computes
(16_matrix_engine.md R277 to R280, R291; 05 R104, R115 to R117), and what lane loads and stores meet in the tiles of
operations in flight (12 R248, 16 R295).
-/
namespace Sys2Proof.Machine

/-! ## Modes (Table Matrix 2) -/

/-- Is a weight format a float one of Table Matrix 2? -/
def wFloat (w : Nat) : Bool := 6 ≤ w && w ≤ 12
/-- Is it a weight format at all: the floats, `i8`, `t2`? -/
def wFormat (w : Nat) : Bool := wFloat w || w = 2 || w = 13
/-- The largest K max of a weight format. -/
def wKmax (w : Nat) : Nat := if w = 12 then 512 else if w = 13 then 1024 else 256
/-- K max of a pair of weight and stream formats, if it is one. -/
def pairKmax (w a : Nat) : Option Nat :=
  if 8 ≤ w && w ≤ 11 && 8 ≤ a && a ≤ 12 then some 256
  else if w = 12 && 8 ≤ a && a ≤ 11 then some 256
  else if w = 12 && a = 12 then some 512
  else if w = 2 && a = 2 then some 256
  else if w = 6 && a = 6 then some 256
  else if w = 7 && a = 7 then some 256
  else if w = 13 && a = 2 then some 1024
  else none

/-! ## Descriptors (Table Matrix 7) -/

/-- Fields of a weight descriptor. -/
def wOff (d : DWord) : Nat := (d.extractLsb' 0 14).toNat
/-- See `wOff`. -/
def wTeam (d : DWord) : Nat := (d.extractLsb' 14 2).toNat
/-- See `wOff`. -/
def wK (d : DWord) : Nat := (d.extractLsb' 16 10).toNat + 1
/-- See `wOff`. -/
def wN (d : DWord) : Nat := (d.extractLsb' 26 8).toNat + 1
/-- See `wOff`. -/
def wFmt (d : DWord) : Nat := (d.extractLsb' 34 4).toNat
/-- See `wOff`. -/
def wSp (d : DWord) : Bool := d.getLsbD 38
/-- See `wOff`. -/
def wMx (d : DWord) : Bool := d.getLsbD 39

/-- Fields of a pass descriptor. -/
def pAoff (d : DWord) : Nat := (d.extractLsb' 0 14).toNat
/-- See `pAoff`. -/
def pTeam (d : DWord) : Nat := (d.extractLsb' 14 2).toNat
/-- See `pAoff`. -/
def pCoff (d : DWord) : Nat := (d.extractLsb' 16 14).toNat
/-- See `pAoff`. -/
def pM (d : DWord) : Nat := (d.extractLsb' 30 10).toNat + 1
/-- See `pAoff`. -/
def pAcc (d : DWord) : Bool := d.getLsbD 40

/-- Fields of a drain descriptor. -/
def dCoff (d : DWord) : Nat := (d.extractLsb' 0 14).toNat
/-- See `dCoff`. -/
def dDoff (d : DWord) : Nat := (d.extractLsb' 14 14).toNat
/-- See `dCoff`. -/
def dM (d : DWord) : Nat := (d.extractLsb' 28 10).toNat + 1
/-- See `dCoff`. -/
def dN (d : DWord) : Nat := (d.extractLsb' 38 8).toNat + 1
/-- See `dCoff`. -/
def dFmt (d : DWord) : Nat := (d.extractLsb' 46 4).toNat
/-- See `dCoff`. -/
def dMx (d : DWord) : Bool := d.getLsbD 50
/-- See `dCoff`. -/
def dSat (d : DWord) : Bool := d.getLsbD 51

/-- Fields of `MSC` (Table Matrix 3). -/
def mscFmt (v : DWord) : Nat := (v.extractLsb' 0 4).toNat
/-- See `mscFmt`. -/
def mscMode (v : DWord) : Nat := (v.extractLsb' 4 2).toNat
/-- See `mscFmt`. -/
def mscScl (v : DWord) : Nat := (v.extractLsb' 8 8).toNat

/-! ## Extents in lines (R278, R279) -/

/-- Rows of a weight window that hold weights. -/
def wRows (d : DWord) : Nat := if wSp d then wK d / 2 else wK d
/-- Lines of a weight row. -/
def wRowL (d : DWord) : Nat := rowLines (wFmt d) (wN d)
/-- Metadata rows, and lines of one. -/
def wMetaRows (d : DWord) : Nat := if wSp d then wK d / 4 else 0
/-- See `wMetaRows`. -/
def wMetaL (d : DWord) : Nat := ceilDiv (4 * wN d) 1024
/-- Scale rows, and lines of one. -/
def wScRows (d : DWord) : Nat := if wMx d then ceilDiv (wK d) 32 else 0
/-- See `wScRows`. -/
def wScL (d : DWord) : Nat := ceilDiv (8 * wN d) 1024
/-- Lines of a whole weight window. -/
def wLines (d : DWord) : Nat := wRows d * wRowL d + wMetaRows d * wMetaL d + wScRows d * wScL d

/-- Lines of an A window of `m` rows of `k` elements of format `a`, with 32 bytes of scales per row where there are any. -/
def aLines (a k m : Nat) (scales : Bool) : Nat := m * rowLines a k + (if scales then ceilDiv (32 * m) 128 else 0)
/-- Lines of a C tile. -/
def cLines (m n : Nat) : Nat := m * ceilDiv n 32

/-! ## Reading operands -/

/-- Key of byte 0 of a team's region at an offset in lines. -/
def regionKey (t : Team) (code off : Nat) : Nat := localKey t.core (regionBase t code) + 128 * off

/-- A code of `w` bits at index `i` of a row (R104). -/
def codeAt (mem : List Host.Cell) (row w i : Nat) : Nat :=
  memReadLE mem (row + i * w / 8) 2 / 2 ^ (i * w % 8) % 2 ^ w

/-- Is the byte that holds a code poisoned? -/
def codeBad (s : State) (row w i : Nat) : Bool :=
  s.lpoison.contains ((row + i * w / 8) / 128) || s.lpoison.contains ((row + (i * w + w - 1) / 8) / 128)

/-- The expanded weight at (k, n): code, bad metadata, poisoned bytes (R279). -/
def weightAt (s : State) (base : Nat) (d : DWord) (k n : Nat) : Nat × Bool × Bool :=
  let w := fmtWidth (wFmt d)
  let row (i : Nat) : Nat := base + 128 * (i * wRowL d)
  if !wSp d then (codeAt s.lmem (row k) w n, false, codeBad s (row k) w n)
  else
    let j := k / 4
    let metaRow := base + 128 * (wRows d * wRowL d + j * wMetaL d)
    let e := codeAt s.lmem metaRow 4 n
    let i0 := e % 4
    let i1 := e / 4
    let bad := codeBad s metaRow 4 n
    if i1 ≤ i0 then (0, true, bad)
    else if k % 4 = i0 then (codeAt s.lmem (row (2 * j)) w n, false, bad || codeBad s (row (2 * j)) w n)
    else if k % 4 = i1 then (codeAt s.lmem (row (2 * j + 1)) w n, false, bad || codeBad s (row (2 * j + 1)) w n)
    else (0, false, bad)

/-- The tile a weight descriptor describes, in the window that begins at a key (R279, R286). -/
def readTile (s : State) (base : Nat) (d : DWord) : Tile :=
  let k := wK d
  let n := wN d
  let cells := (List.range (k * n)).map fun i => weightAt s base d (i / n) (i % n)
  let scRow (g : Nat) : Nat := base + 128 * (wRows d * wRowL d + wMetaRows d * wMetaL d + g * wScL d)
  let codes := cells.map (·.1)
  { k := k, n := n, fmt := wFmt d, codes := codes, mx := wMx d
    scales := (List.range (wScRows d * n)).map fun i => codeAt s.lmem (scRow (i / n)) 8 (i % n)
    mde := cells.any (·.2.1)
    trn := wFmt d = 13 && codes.any (· = 2)
    bad := (List.range (k * n)).filter fun i => (cells.getD i (0, false, false)).2.2 ||
      (wMx d && codeBad s (scRow (i / n / 32)) 8 (i % n)) }

/-! ## Arithmetic (R115, R117, R280) -/

/-- Product(w, a): the zero-weight rule first (R115). -/
def mProduct (fw fa : Fmt) (w a : Nat) : FVal × Flags :=
  let v := decodeF fw w
  if v.isZero then (FVal.zero false, 0) else mulVal v (decodeF fa a)

/-- Is a value an infinity of a sign? -/
def FVal.isInf (neg : Bool) : FVal → Bool
  | .inf n => n == neg
  | _ => false

/-- ExactSum (R115). -/
def exactSum (vs : List FVal) : FVal × Flags :=
  if vs.any FVal.isNan then (.nan false, 0)
  else if vs.any (FVal.isInf false) && vs.any (FVal.isInf true) then (.nan false, Flag.nv)
  else if vs.any (FVal.isInf false) then (.inf false, 0)
  else if vs.any (FVal.isInf true) then (.inf true, 0)
  else match vs with
    | [] => (FVal.zero false, 0)
    | v :: rest => (rest.foldl (fun a b => match a, b with
        | .fin n1 m1 e1, .fin n2 m2 e2 => addFin .rne n1 m1 e1 n2 m2 e2
        | a, _ => a) v, 0)

/-- A value times a power of two. -/
def FVal.scale (k : Int) : FVal → FVal
  | .fin n m e => .fin n m (e + k)
  | v => v

/-- One group of 32 along k of a float pass: the accumulator and flags after it; `sc` are the scale bytes (R115, R280). -/
def floatGroup (fw fa : Fmt) (pairs : List (Nat × Nat)) (sc : List Nat) (c : Word) : Word × Flags :=
  let ps := pairs.map fun p => mProduct fw fa p.1 p.2
  let fl := ps.foldl (fun f p => f ||| p.2) (0 : Flags)
  let (sum, f2) := exactSum (ps.map (·.1))
  let bad := sc.any (· = 255)
  let v := if bad then FVal.nan false else sum.scale (sc.foldl (fun (k : Int) (b : Nat) => k + ((b : Int) - 127)) (0 : Int))
  let (r, f3) := roundVal Fmt.f32 .rne v
  let (c, f4) := f32Add homeEnv c (BitVec.ofNat 32 r)
  (c, fl ||| f2 ||| f3 ||| f4 ||| (if bad then Flag.nv else 0))

/-- The integer a weight code stands for in an integer mode. -/
def intWeight (fmt code : Nat) : Int := if fmt = 13 then (readT2 code).1 else readInt fmt code

/-- One group of an integer pass (R117). -/
def intGroup (fmt : Nat) (pairs : List (Nat × Nat)) (c : Word) : Word × Flags :=
  let sum := pairs.foldl (fun (t : Int) p => t + intWeight fmt p.1 * readInt 2 p.2) 0
  let (v, clamped) := clampInt (intRange 0) (c.toInt + sum)
  (BitVec.ofInt 32 v, if clamped then Flag.sat else 0)

/-- An element of a pass after `groups` groups of 32, from the accumulator it starts from (R115, R117). -/
def passPrefix (t : Tile) (msc : DWord) (acts asc : List Nat) (n groups : Nat) (c : Word) : Word × Flags :=
  (List.range groups).foldl (fun (acc : Word × Flags) g =>
    let pairs := ((List.range 32).map (32 * g + ·)).filterMap fun k =>
      if k < t.k then some (nth t.codes (k * t.n + n) 0, nth acts k 0) else none
    let sc := (if t.mx then [nth t.scales (g * t.n + n) 0] else []) ++
      (match mscMode msc with | 1 => [mscScl msc] | 2 => [nth asc g 0] | _ => [])
    let (c, f) := match fmtOf t.fmt, fmtOf (mscFmt msc) with
      | some fw, some fa => floatGroup fw fa pairs sc acc.1
      | _, _ => intGroup t.fmt pairs acc.1
    (c, acc.2 ||| f)) (c, 0)

/-- An element of a pass from the accumulator it starts from: the fold over the groups (R115, R117). -/
def passElem (t : Tile) (msc : DWord) (acts asc : List Nat) (n : Nat) (c : Word) : Word × Flags :=
  passPrefix t msc acts asc n (ceilDiv t.k 32) c

/-- A row of activations as a pass reads it: codes, scales, the positions whose bytes are poisoned, poisoned scales. -/
structure ARow where
  acts : List Nat
  asc : List Nat
  bad : List Nat
  scBad : Bool
  deriving DecidableEq, Repr

/-- Read row `m` of the A window of a pass (R278). -/
def readRow (s : State) (t : Tile) (msc : DWord) (aBase rows m : Nat) : ARow :=
  let w := fmtWidth (mscFmt msc)
  let aL := rowLines (mscFmt msc) t.k
  let arow := aBase + 128 * (m * aL)
  let sc := aBase + 128 * (rows * aL) + 32 * m
  { acts := (List.range t.k).map fun k => codeAt s.lmem arow w k
    asc := if mscMode msc = 2 then (List.range 32).map fun g => codeAt s.lmem sc 8 g else []
    bad := (List.range t.k).filter fun k => codeBad s arow w k
    scBad := mscMode msc = 2 && s.lpoison.contains (sc / 128) }

/-- Is element `n` of a row computed from a poisoned byte (R293)? A zero weight's product reads no activation (R115). -/
def elemBad (t : Tile) (r : ARow) (n : Nat) : Bool :=
  r.scBad || (t.bad.any fun i => i % t.n = n) ||
  r.bad.any fun k => !wFloat t.fmt || !(match fmtOf t.fmt with | some f => (decodeF f (nth t.codes (k * t.n + n) 0)).isZero | none => false)

/-- What such an element is written as (R293). -/
def poisonElem (t : Tile) : Word := if wFloat t.fmt then 0x7FC00000 else 0x80000000

/-! ## Windows -/

/-- The team of a band with a number (R291). -/
def bandTeamNo (s : State) (t : Team) (num : Nat) : Option Team :=
  s.teams.find? fun u => u.m == t.m && u.node == t.node && u.act == t.act && u.band == t.band && u.num == num && !u.exitDone

/-- The lines of a run of them from a key on. -/
def lineRun (key n : Nat) : List Nat := (List.range n).map fun i => key / 128 + i

/-- Are all lines of a list full? -/
def allFull (s : State) (ks : List Nat) : Bool := ks.all fun k => s.lineState k == some .full
/-- Is no line of a list pending? -/
def nonePending (s : State) (ks : List Nat) : Bool := ks.all fun k => s.lineState k != some .pending

/-- The value among those the manual lists that is taken (free choice, log 4). -/
def pickValue (n : Nat) (vs : List Word) (d : Word) : Word :=
  match vs with
  | [] => d
  | v :: rest => if Config.freeChoice n then v else pickValue (n + 1) rest d

/-! ## The tiles of posted operations (R295) -/

/-- The lines of a posted operation's C tile, and its first key. -/
def taskC (own : Team) (op : MOp) : Option (Nat × Nat × Nat) :=
  match op with
  | .pass d _ w => some (regionKey own 3 (pCoff d), pM d, wN w)
  | .drain d => some (regionKey own 3 (dCoff d), dM d, dN d)
  | _ => none

/-- Does a posted operation own the C element a byte of local store lies in (R276, R292)? `drains` takes drains in too. -/
def opOwns (s : State) (drains : Bool) (key : Nat) (p : MTask) : Bool :=
  match s.team? p.team with
  | none => false
  | some t => match taskC t p.op with
    | none => false
    | some (base, m, n) =>
      let stride := 128 * ceilDiv n 32
      (drains || match p.op with | .drain _ => false | _ => true) &&
      decide (base ≤ key) && decide (key < base + m * stride) && decide ((key - base) % stride < 4 * n)

/-- Is an element of local store one that a pass in flight owns (R295)? -/
def ownedC (s : State) (key : Nat) : Bool :=
  s.engines.any fun e => e.entries.any fun x => x.posted.any (opOwns s false key)

/-- The local lines of a region window: W of a weight load, A of a pass, C of an accumulating pass or a drain. -/
def readLines (s : State) (p : MTask) : List Nat :=
  match p.op with
  | .load d => match s.team? p.named with
    | some u => if p.mem = 0 then lineRun (regionKey u 1 (wOff d)) (wLines d) else []
    | none => []
  | .pass d msc w =>
    (match s.team? p.named with
      | some u => lineRun (regionKey u 2 (pAoff d)) (aLines (mscFmt msc) (wK w) (pM d) (mscMode msc = 2))
      | none => []) ++
    match s.team? p.team with
      | some t => if pAcc d then lineRun (regionKey t 3 (pCoff d)) (cLines (pM d) (wN w)) else []
      | none => []
  | .drain d => match s.team? p.team with
    | some t => lineRun (regionKey t 3 (dCoff d)) (cLines (dM d) (dN d))
    | none => []
  | .release => []

/-- Replace every posted operation of every engine. -/
def State.modTasks (s : State) (f : MTask → MTask) : State :=
  { s with engines := s.engines.map fun e => { e with
      entries := e.entries.map fun x => { x with posted := x.posted.map f }
      running := e.running.map fun r => (r.1, r.2.map f) } }

/-- Note C elements that operations in flight own, as they stand before a store to them (R295). -/
def MEntry.note (s : State) (words : List Nat) (x : MEntry) : MEntry :=
  { x with touched := words.foldl (fun l k =>
      if !x.posted.any (opOwns s true k) then l
      else if l.any fun t => t.key == k then mapWhere (fun t => t.key == k) (fun t => { t with stored := none, born := s.nextId }) l
      else l ++ [⟨k, memReadLE s.lmem k 4, none, s.nextId⟩]) x.touched }

/-- The local lines some bytes lie in, as they stand. -/
def linesNow (s : State) (parts : List (Nat × Nat)) : List (Nat × LineData) :=
  ((parts.map fun p => p.1 / 128).eraseDups).map fun k => (k, memLine s.lmem k)

/-- Before a lane store or atomic to bytes of local store: what operations in flight may still see as it was (R295). -/
def noteStore (s : State) (parts : List (Nat × Nat)) : State :=
  let words := (parts.flatMap fun p => (List.range ((p.1 % 4 + p.2 + 3) / 4)).map fun i => p.1 / 4 * 4 + 4 * i).eraseDups
  if s.engines.isEmpty || parts.isEmpty then s else
    let note (e : Engine) : Engine :=
      { e with entries := e.entries.map fun x => if x.posted.isEmpty then x else x.note s words }
    let s := { s with engines := s.engines.map note }
    s.modTasks fun p => { p with old := p.old ++ (linesNow s parts).filter fun o => (readLines s p).contains o.1 }

/-- The local parts of the lanes of an access, by key and size. -/
def localParts (ok : List LaneAt) : List (Nat × Nat) :=
  ok.flatMap fun l => l.pieces.filterMap fun p => match p.place with
    | .loc key => some (key, p.size)
    | _ => none

/-- Those in a W, A or C region of the team. -/
def operandParts (t : Team) (parts : List (Nat × Nat)) : List (Nat × Nat) :=
  parts.filter fun p => p.1 < localKey t.core (regionBase t 4)

/-- Local lines written by something else than a lane store: how they were before earlier stores is past (R248). -/
def forgetStores (s : State) (lines : List Nat) : State :=
  let keep (l : List (Nat × LineData)) : List (Nat × LineData) := l.filter fun o => !lines.contains o.1
  let s := if s.groups.all fun g => g.unready.isEmpty then s
    else { s with groups := s.groups.map fun g => { g with unready := keep g.unready } }
  if s.engines.isEmpty then s else s.modTasks fun p => { p with old := keep p.old }

/-! ## Loads of owned C elements (R248, R295) -/

/-- The key of the W window a weight descriptor of entry `i` names: where it was loaded from, or in the team it names, in the
band of the entry's first member. -/
def tileKey (s : State) (x : MEntry) (w : DWord) : Option Nat :=
  if x.wlt && x.lwd = w then some x.lkey
  else ((s.team? x.team).bind fun t => bandTeamNo s t (wTeam w)).map fun u => regionKey u 1 (wOff w)

/-- The tile a posted pass of entry `i` will use, as its W lines stand: the latched one, or the window of its weight
descriptor. -/
def passTile (s : State) (e : Engine) (i : Nat) (w : DWord) : Option Tile :=
  if e.lown = some i && (e.entry i).lwd = w then e.tile
  else (tileKey s (e.entry i) w).bind fun k => if allFull s (lineRun k (wLines w)) then some (readTile s k w) else none

/-- The values a posted pass gives the C element at a key that holds `c` when it is performed, as its operands stand: its
partial sums and its result. -/
def passVals (s : State) (e : Engine) (i : Nat) (p : MTask) (key : Nat) (c : Word) : List Word :=
  match p.op, s.team? p.team, s.team? p.named with
  | .pass d msc w, some own, some u => match passTile s e i w with
    | none => []
    | some t =>
      let a := regionKey u 2 (pAoff d)
      if !allFull s (lineRun a (aLines (mscFmt msc) t.k (pM d) (mscMode msc = 2))) then []
      else
        let off := key - regionKey own 3 (pCoff d)
        let stride := 128 * ceilDiv t.n 32
        let n := off % stride / 4
        let r := readRow s t msc a (pM d) (off / stride)
        let cur : Word := if pAcc d then c else 0
        if elemBad t r n then [poisonElem t]
        else (List.range (ceilDiv t.k 32)).map fun g => (passPrefix t msc r.acts r.asc n (g + 1) cur).1
  | _, _, _ => []

/-- A posted operation with its engine and its entry's number. -/
abbrev Posted := Engine × Nat × MTask

/-- Put a posted operation among others in the order of issue (R285). -/
def insertPosted (p : Posted) : List Posted → List Posted
  | [] => [p]
  | q :: qs => if p.2.2.id < q.2.2.id then p :: q :: qs else q :: insertPosted p qs

/-- The passes in flight that own a C element, in the order they will be performed (R285). -/
def ownersOf (s : State) (key : Nat) : List Posted :=
  (s.engines.flatMap fun e => (List.range 16).flatMap fun i =>
    ((e.entry i).posted.filter (opOwns s false key)).map fun p => (e, i, p)).foldl (fun l p => insertPosted p l) []

/-- The values passes performed one after another give an element that holds `c` before the first. -/
def chainVals (s : State) (key : Nat) : List Posted → Word → List Word
  | [], _ => []
  | p :: ps, c => match passVals s p.1 p.2.1 p.2.2 key c with
    | [] => []
    | vs => vs ++ chainVals s key ps (vs.getLastD c)

/-- The values a load of an owned C element may return beside the one it holds (R295). -/
def ownedVals (s : State) (key : Nat) : List Word := chainVals s key (ownersOf s key) (BitVec.ofNat 32 (memReadLE s.lmem key 4))

/-- Read a local piece; an owned C element is read as the value before the operation, after it, or as a partial sum (free
choice; R248, R295; log 4). -/
def localRead (s : State) (key n : Nat) : Nat × State :=
  let words := (List.range ((key % 4 + n + 3) / 4)).map fun i => key / 4 * 4 + 4 * i
  if s.engines.isEmpty || !words.any (ownedC s) then (memReadLE s.lmem key n, s)
  else
    let (v, f) := words.foldl (fun (acc : Nat × Nat) k =>
      let cur : Word := BitVec.ofNat 32 (memReadLE s.lmem k 4)
      let vs := if ownedC s k then ownedVals s k else []
      (acc.1 + (pickValue acc.2 vs cur).toNat * 2 ^ (8 * (k - key / 4 * 4)), acc.2 + vs.length)) (0, s.freeCount)
    (v / 2 ^ (8 * (key % 4)) % 2 ^ (8 * n), { s with freeCount := f })

end Sys2Proof.Machine
end

