-- ==== Sys2Proof/Machine/Copies.lean ====
section
/-!
DEFINITION. Copies into local-store windows: starting them, their arrivals, batches (15_queues.md R269 to R271;
17_tables.md R297 to R300; 09_memories.md R173, R174; 11_ordering_near_agents.md R230).
-/
namespace Sys2Proof.Machine

/-! ## Region entries -/

/-- Entry `e` of a team's region table. -/
def Team.region (t : Team) (e : Nat) : Region := nth t.regions e Region.zero
/-- Replace entry `e` of a team's region table by `f` of it. -/
def State.modRegion (s : State) (uid e : Nat) (f : Region → Region) : State :=
  s.modTeam uid fun t => { t with regions := t.regions.mapIdx fun i r => if i = e then f r else r }

/-- The local lines of a region entry's window, on the core of another team of its band. -/
def windowKeys (r : Region) (t : Team) : List Nat := r.keys t

/-- The team of a band on a core (R299). -/
def bandTeam (s : State) (t : Team) (core : Nat) : Option Team :=
  s.teams.find? fun u => u.core == core && u.m == t.m && u.node == t.node && u.act == t.act && u.band == t.band && !u.exitDone

/-- Destinations of a copy: the issuer's team, then the band's team on each other core of the cluster that `MC` names, each
with its generation (R174, R299). -/
def copyDests (s : State) (t : Team) (r : Region) : List (Nat × Nat × BitVec 16) :=
  (t.core, t.uid, t.gen) :: (List.range 4).filterMap fun c =>
    let core := t.core - t.core % 4 + c
    if r.mc.getLsbD c && core ≠ t.core then (bandTeam s t core).map fun u => (core, u.uid, u.gen) else none

/-- The first local line of a copy's region at each of its destinations. -/
def copyBases (s : State) (r : Region) (dests : List (Nat × Nat × BitVec 16)) : List (Nat × Nat) :=
  dests.map fun d => (d.1, ((s.team? d.2.1).map fun u => regionLine u r.wrg).getD 0)

/-- Mark the lines of a window pending on its team's core (R173). A line that is already full becomes pending like any other
(DESIGN CHOICE, log 83). -/
def markPending (s : State) (r : Region) (t : Team) : State :=
  (windowKeys r t).foldl (fun s k => s.setLine k .pending) s

/-- Start the copy of an absent, bound entry on behalf of a group; nothing for any other entry (R270, R298). -/
def startCopy (s : State) (core slot uid e : Nat) : State :=
  match s.team? uid with
  | none => s
  | some t =>
    let r := t.region e
    if r.st ≠ 1 || r.src = 2 then s
    else
      let id := s.nextId
      let dests := copyDests s t r
      let c : Copy := ⟨id, core, slot, uid, e, t.vf, t.ctx, t.l0, t.pl, dests, copyBases s r dests, [], r.rows * r.perRow, false, false, [], [], [], [], r, t.node⟩
      let s := dests.foldl (fun s d => match s.team? d.2.1 with | some u => markPending s r u | none => s) s
      let s := s.modRegion uid e fun r => { r with st := 2 }
      ({ s with copies := s.copies ++ [c], nextId := id + 1 } : State).modGroup core slot fun g => { g with pending := g.pending ++ [id] }

/-- An access to local lines starts the copies of the absent windows they lie in (R269). -/
def touchKeys (s : State) (core slot uid : Nat) (keys : List Nat) : State :=
  match s.team? uid with
  | none => s
  | some t =>
    ((List.range 64).filter fun e => (t.region e).st = 1 && (t.region e).src ≠ 2 &&
      (windowKeys (t.region e) t).any fun k => keys.contains k).foldl (fun s e => startCopy s core slot uid e) s

/-! ## Completion -/

/-- A copy no longer in flight leaves its group's list and batches; an empty batch is complete (R269). -/
def Group.dropCopy (id : Nat) (g : Group) : Group :=
  { g with
    pending := g.pending.filter fun c => c ≠ id
    batches := (g.batches.map fun b => { b with copies := b.copies.filter fun c => c ≠ id }).filter fun b => !b.copies.isEmpty }

/-- A team that has exited frees its granules once no copy reads its sealed windows (R300). -/
def releaseTeam (s : State) (uid : Nat) : State :=
  match s.team? uid with
  | some t => if t.exitDone && t.regions.all (fun r => !r.sealed || r.rcnt = 0) then
      { s with teams := s.teams.filter fun x => x.uid ≠ uid } else s
  | none => s

/-- A copy completes (R269, R298). -/
def endCopy (s : State) (c : Copy) : State :=
  let s := { s with copies := s.copies.filter fun x => x.id ≠ c.id, groups := s.groups.map (Group.dropCopy c.id) }
  s.modRegion c.team c.entry fun r => if r.st = 2 then { r with st := 3 } else r

/-! ## Sources -/

/-- What a source line of a copy comes to. -/
inductive SrcLine where
  | data (d : LineData) (poisoned : Bool) (s : State)
  | wait (s : State)

/-- Bits of line `j` of a row that hold elements (R104, R297). -/
def elemMask (r : Region) (j : Nat) : LineData :=
  let bits := rowBits r.fmt r.elems
  if 1024 * (j + 1) ≤ bits then BitVec.allOnes 1024
  else if bits ≤ 1024 * j then 0 else BitVec.allOnes 1024 >>> (1024 * (j + 1) - bits)

/-- Has the touching group an access, issued before the copy started, to a line that is not complete at core scope, in flight,
logged or in a packet (R221, R230), or such an acquire under way (R202)? -/
def groupBusy (s : State) (c : Copy) (line va : Nat) : Bool :=
  (s.reqs.any fun r => r.agent == .group c.core c.slot && r.line == line && decide (r.id < c.id)) ||
  meetsLogBy (fun e => decide (e.born ≤ c.id)) s c.core c.slot va 128 ||
  meetsPacketBy (fun p => decide (p.born ≤ c.id)) s c.core c.slot line ||
  ((s.group? c.core c.slot).map fun g => g.txns.any fun t => t.acquire.isSome && decide (t.id < c.id)).getD false

/-- The context a copy translates under. -/
def Copy.tctx (c : Copy) : Ctx := ⟨coreMod c.core, c.vf, c.ctx, c.l0, c.pl⟩

/-- Read up to 128 source bytes from a virtual address, in pieces within lines (R270, R271): value, poison. A page resolved
unmappable stays so for the copy, whatever its entry says by then (R334). -/
def readSrc (c : Copy) (node : Nat) : List (Nat × Nat × Nat) → State → SrcLine
  | [], s => .data 0 false s
  | (va, n, off) :: rest, s =>
    if n = 0 then readSrc c node rest s
    else if c.failed.contains (va / 65536) then
      match readSrc c node rest s with
      | .data d _ s => .data d true s
      | w => w
    else match translate s c.tctx .read va with
    | .error f =>
        let (s, dead) := if c.retried.contains f.page && !s.pairs.contains ⟨coreMod c.core, c.vf, c.ctx, f.page⟩ then (s, true)
          else raisePageFault s c.tctx (coreMod c.core) node f 2 c.core c.slot
        .wait { s with copies := mapWhere (fun x => x.id == c.id) (fun x =>
          if dead then { x with failed := f.page :: x.failed } else { x with held := f.page :: x.held }) s.copies }
    | .ok p => match p.phys with
      | .dram ga =>
        if groupBusy s c (ga / 128) va || noPath s (coreMod c.core) (lineMod (ga / 128)) then .wait s
        else if homeWaits s (ga / 128) false then .wait (sendRecall s (ga / 128))
        else
          let (v, s) := homeRead s (originOf s c.tctx p) ga n
          match readSrc c node rest s with
          | .data d po s => .data (d ||| BitVec.ofNat 1024 (v * 2 ^ (8 * off))) (po || s.poison.contains (ga / 128)) s
          | w => w
      | _ =>
        let v := freeLine s.freeCount &&& (BitVec.allOnes 1024 >>> (1024 - 8 * n))
        match readSrc c node rest { s with freeCount := s.freeCount + 4 } with
        | .data d po s => .data (d ||| (v <<< (8 * off))) po s
        | w => w

/-- Fields of a seal handle: core within the die, entry, generation, sequence (R300). -/
def handleCore (h : VAddr) : Nat := (h.extractLsb' 0 6).toNat
/-- See `handleCore`. -/
def handleEntry (h : VAddr) : Nat := (h.extractLsb' 6 6).toNat
/-- See `handleCore`. -/
def handleGen (h : VAddr) : BitVec 16 := h.extractLsb' 16 16
/-- See `handleCore`. -/
def handleSeq (h : VAddr) : BitVec 16 := h.extractLsb' 32 16

/-- The team and entry a seal handle names, if still sealed under it (R300). -/
def sealedBy (s : State) (core : Nat) (h : VAddr) : Option (Team × Region) :=
  let src := core - core % 64 + handleCore h
  (s.teams.find? fun t => t.core == src && t.gen == handleGen h).bind fun t =>
    let r := t.region (handleEntry h)
    if r.sealed && r.ssq = handleSeq h then some (t, r) else none

/-- The team and entry a reading copy counts in: still sealed, under whatever sequence a later `seal` gave it (R300). -/
def sealRead (s : State) (core : Nat) (h : VAddr) : Option (Team × Region) :=
  let src := core - core % 64 + handleCore h
  (s.teams.find? fun t => t.core == src && t.gen == handleGen h).bind fun t =>
    let r := t.region (handleEntry h)
    if r.sealed then some (t, r) else none

/-- The source of line `j` of a copy of a global tile: virtual address and bytes (R297). -/
def sourceSpan (r : Region) (j : Nat) : Nat × Nat :=
  let col := j % r.perRow
  let va := (r.gva.toNat : Int) + (j / r.perRow) * r.gst.toInt + 128 * col
  ((BitVec.ofInt 56 va).toNat, min 128 (ceilDiv (rowBits r.fmt r.elems) 8 - 128 * col))

/-- Has a copy that the group has touched still to read a source byte in [va, va + n)? A later store of the group to it
waits (R221, R230). -/
def copyHolds (s : State) (core slot va n : Nat) : Bool :=
  s.copies.any fun c => c.core == core && c.slot == slot && c.reg.src == 0 && (List.range c.lines).any fun j =>
    let p := sourceSpan c.reg j
    !(c.data.any fun x => x.1 == j) && decide (va < p.1 + p.2) && decide (p.1 < va + n)

/-- The same for bytes of memory by global address, which a remote update names at its target (R221). -/
def copyHoldsAt (s : State) (core slot ga n : Nat) : Bool :=
  s.copies.any fun c => c.core == core && c.slot == slot && c.reg.src == 0 && (List.range c.lines).any fun j =>
    let p := sourceSpan c.reg j
    !(c.data.any fun x => x.1 == j) && match translate s c.tctx .read p.1 with
      | .ok q => match q.phys with
        | .dram a => decide (ga < a + p.2) && decide (a < ga + n)
        | _ => false
      | .error _ => false

/-- Source line `j` of a copy's window (R297, R300). Past the rows or lines of a sealed source of another shape it is zeros, not
poisoned (DESIGN CHOICE, log 104). -/
def sourceLine (s : State) (c : Copy) (r : Region) (j : Nat) : SrcLine :=
  let row := j / r.perRow
  let col := j % r.perRow
  if r.src = 1 then
    if c.poisonedSrc then .data 0 true s
    else match sealRead s c.core r.gva with
    | none => .data 0 true s
    | some (u, q) =>
      if q.perRow ≤ col || q.rows ≤ row then .data 0 false s
      else
        let k := localKey u.core 0 / 128 + regionLine u q.wrg + q.woff + row * q.stride + col
        if s.lineState k != some .full then .wait s
        else .data (memLine s.lmem k &&& elemMask r col) (s.lpoison.contains k) s
  else
    let p := sourceSpan r j
    match readSrc c c.node (cutLines p.1 p.2) s with
    | .data d po s => .data (d &&& elemMask r col) po s
    | w => w

/-- Begin reading: a sealed source counts its reader, unless its seal is gone (R300). None while the count is full. -/
def beginRead (s : State) (c : Copy) (r : Region) : Option (State × Copy) :=
  if c.reading || r.src ≠ 1 then some (s, { c with reading := true })
  else match sealedBy s c.core r.gva with
    | none => some (s, { c with reading := true, poisonedSrc := true })
    | some (u, q) =>
      if 65535 ≤ q.rcnt then none
      else some (s.modRegion u.uid (handleEntry r.gva) fun q => { q with rcnt := q.rcnt + 1 }, { c with reading := true })

/-- The copy has read its last line: its source counts one reader less (R300). -/
def endRead (s : State) (c : Copy) (r : Region) : State :=
  if r.src ≠ 1 || c.poisonedSrc then s
  else match sealRead s c.core r.gva with
    | some (u, _) =>
      releaseTeam (s.modRegion u.uid (handleEntry r.gva) fun q => { q with rcnt := q.rcnt - 1 }) u.uid
    | none => s

/-- Write a whole local line, which becomes full (R173). -/
def landLine (s : State) (k : Nat) (d : LineData) (poisoned : Bool) : State :=
  let s := ({ s with lmem := memWriteLE s.lmem (128 * k) 128 d.toNat } : State).setLine k .full
  forgetStores { s with lpoison := if poisoned then k :: s.lpoison.filter (· ≠ k) else s.lpoison.filter (· ≠ k) } [k]

/-- Count an arrival dropped by generation (R174, R322). -/
def dropArrival (s : State) (core : Nat) : State :=
  s.modCore core fun c => { c with gendrop := min (c.gendrop + 1) (2 ^ 32 - 1) }

/-- The team whose allocation a local line of a core lies in. -/
def teamAt (s : State) (core line : Nat) : Option Team :=
  s.teams.find? fun t => t.core == core && decide (t.lsOff ≤ 128 * line) && decide (128 * line < t.lsOff + t.granules * Config.granule)

/-- Land line `j` of a copy on a core, or drop it: the generation of the allocation that now holds the line decides (R173,
R174, R299). Where no team holds the line its allocation has ended, and the arrival is dropped too (log 25). -/
def landCopy (s : State) (c : Copy) (d : Nat × Nat × BitVec 16) (j : Nat) (v : LineData) (poisoned : Bool) : State :=
  let r := c.reg
  let line := (lookupNat d.1 c.bases).getD 0 + r.woff + j / r.perRow * r.stride + j % r.perRow
  let k := localKey d.1 0 / 128 + line
  match teamAt s d.1 line with
  | none => dropArrival s d.1
  | some u => if u.gen ≠ d.2.2 || sealedLine s d.1 k then dropArrival s d.1 else landLine s k v poisoned

/-- COPY_ARRIVAL (R173, R174, R269 to R271, R299, R300): line `c` of copy `a` arrives on core `b`. -/
def execCopyArrival (s : State) : Out :=
  match s.copies.find? fun c => c.id == s.ev.a with
  | none => .next s
  | some c =>
    let core := s.ev.b
    let j := s.ev.c
    match c.dests.find? (fun d => d.1 == core) with
    | some d =>
      let r := c.reg
      if c.lines ≤ j || c.landed.contains (core, j) then .next s
      else match beginRead s c r with
      | none => .next s
      | some (s, c) =>
        let put (s : State) (c : Copy) : State := { s with copies := mapWhere (fun x => x.id == c.id) (fun _ => c) s.copies }
        let got : SrcLine := match c.data.find? fun x => x.1 = j with
          | some x => .data x.2.1 x.2.2 s
          | none => sourceLine s c r j
        match got with
        | .wait s => .next (match s.copies.find? fun x => x.id == c.id with
            | some y => put s { y with reading := c.reading, poisonedSrc := c.poisonedSrc }
            | none => s)
        | .data v po s =>
          let seen := c.data.any fun x => x.1 = j
          let c := if seen then c else { c with data := c.data ++ [(j, v, po)], held := [], retried := [] }
          let s := if !seen && c.data.length = c.lines then endRead s c r else s
          let s := landCopy s c d j v po
          let c := { c with landed := (core, j) :: c.landed }
          .next (if c.landed.length = c.lines * c.dests.length then endCopy (put s c) c else put s c)
    | none => .next s

end Sys2Proof.Machine
end

