-- ==== Sys2Proof/Machine/Directory.lean ====
section
/-!
DEFINITION. Requests at a line's home and the events that carry copies back and forth (14_program_directory_six_readers.md
R252 to R257; 17_tables.md R301, R302; 12_ordering_far_agents_and_engines.md R234 to R237, R240, R245).
-/
namespace Sys2Proof.Machine

/-! ## Requests -/

/-- A request by its identifier. -/
def State.req? (s : State) (id : Nat) : Option Req := s.reqs.find? fun r => r.id == id

/-- Remove a request. -/
def State.dropReq (s : State) (id : Nat) : State := { s with reqs := s.reqs.filter fun r => r.id ≠ id }

/-- Was an access under way, earlier than the request, translated through an entry in the line the request writes? The line's
translation caches acknowledge the write only when that access is performed (R187). -/
def tableHeld (s : State) (r : Req) : Bool :=
  r.fn.writes && tableBusy s r.line r.id

/-- Must the request wait for a core that no path reaches (R245)? Loads do not wait for a partial held there (R246); what
ends in ownership or a write does (R236). -/
def holderWaits (s : State) (r : Req) : Bool :=
  match r.kind with
  | .tracked => holderCut s r.line
  | .lease _ => holderCut s r.line
  | .commut => if (s.dirOf r.line).cop.toNat = fnCop (match r.fn with | .atomic f => f | _ => 0) then holderCut s r.line
      else writeCut s r.line
  | _ => writeCut s r.line

/-- Has a core's L1 room for a copy of a line: it holds one, or fewer lines than its partition gives it (R19, R175)? -/
def l1Room (s : State) (core line : Nat) : Bool :=
  (s.l1? core line).isSome || decide ((s.l1.filter fun c => c.core == core).length < (s.corePart core).l1KiB * 8)

/-- May serving the request place a copy in its core's L1? -/
def Req.caches (r : Req) : Bool :=
  match r.kind with
  | .homeWrite _ => false
  | .lease cls => cls ≠ 0
  | _ => true

/-- Does the request only read? -/
def Req.loads (r : Req) : Bool :=
  match r.kind with
  | .tracked => true
  | .lease _ => true
  | .own _ => r.fn == .read
  | _ => false

/-- Can the request be served now: the home's module has its clock (R347), the request is the first of its group on the line (R221), a path leads to the home, where the second half of
an `add2h` already is, and to every holder it needs (R236, R245), the line is in no round (R256), every notice its core sent before has arrived (R255), its
core has room for a copy (R19), no translation cache withholds its acknowledgement (R187), no other update of the line is half
done (R250), and no agent's turn is first (R256)? -/
def reqReady (s : State) (r : Req) : Bool :=
  !r.inRound && (s.mod (lineMod r.line)).done && !holderWaits s r && (s.dirOf r.line).st ≠ 3 && (s.dirOf r.line).turn ≤ s.cyc &&
  (r.fn == .atomic 16 || !noPath s (coreMod r.core) (lineMod r.line)) &&
  !s.msgs.contains (.notice r.core r.line) && (!r.caches || l1Room s r.core r.line) && !tableHeld s r &&
  (r.loads || r.fn == .atomic 16 || !halfDone s r.line) &&
  s.reqs.all fun q => q.agent != r.agent || q.line != r.line || r.id ≤ q.id

/-- Did a request come to the home before another and wait there (R256)? -/
def Req.waitsBefore (q r : Req) : Bool :=
  match q.arrived, r.arrived with
  | some i, some j => decide (i < j)
  | some _, none => true
  | none, _ => false

/-- Can the request be served now, and no other for its line that has waited longer at the home (R256)? -/
def serveReady (s : State) (r : Req) : Bool :=
  reqReady s r && !s.reqs.any fun q => q.line == r.line && q.waitsBefore r && reqReady s q

/-- The tag origin of a request. -/
def Req.origin (r : Req) : Origin := ⟨r.vf, r.domain, r.pagePol⟩

/-- Give values to the access that waits for them, and count the request answered. -/
def giveVals (s : State) (r : Req) (vals : List (Nat × DWord)) : State :=
  match r.txn, r.agent with
  | some id, .group core slot =>
    let offs := r.accs.map (·.off)
    s.modTxn core slot id fun t =>
      let t := (vals.zip offs).foldl (fun (t : Txn) p => t.give p.1.1 p.2 p.1.2) t
      { t with out := t.out - 1 }
  | _, _ => s

/-- The Lamport timestamp of a sequentially consistent access of a core to a line (R202, R240). -/
def takeLts (s : State) (core line : Nat) : State :=
  let d := s.dirOf line
  let t := 1 + (max (s.core core).lamport.toNat d.lts.toNat)
  (s.setDir { d with lts := BitVec.ofNat 64 t }).modCore core fun c => { c with lamport := BitVec.ofNat 64 t }

/-- The end of a request: timestamp, values, and it is gone. -/
def endReq (s : State) (r : Req) (vals : List (Nat × DWord)) : State :=
  let s := if r.sc then takeLts s r.core r.line else s
  (giveVals s r vals).dropReq r.id

/-- The values of a request's bytes as memory holds them. -/
def readAccs (s : State) (accs : List LaneAcc) : List (Nat × DWord) :=
  accs.map fun a => (a.lane, BitVec.ofNat 64 (s.readGa a.ga a.size))

/-- Perform a request at the home of its line; a queue header takes only the updates R259 allows. -/
def homeApply (s : State) (r : Req) : State × List (Nat × DWord) :=
  match s.headerQueue? r.line, r.fn with
  | some q, .write => (r.accs.foldl (fun s a => pdnStore s q.m q.node a.data) s, [])
  | some q, .atomic _ =>
    r.accs.foldl (fun acc a => let (v, s) := rsvAdd acc.1 q.m q.node a.data; (s, acc.2 ++ [(a.lane, v)])) (s, [])
  | _, _ => performAtHome s r.core r.line r.fn r.accs r.pol

/-! ## Rounds (R254) -/

/-- Is the core a tracked holder of the line in its L1? -/
def holdsTracked (s : State) (core line : Nat) : Bool :=
  match s.l1? core line with
  | some c => c.kind == L1Kind.tracked
  | none => false

/-- Start a round for a request: the line enters B and the invalidations go out; false when nobody must be told
(R254). -/
def startRound (s : State) (r : Req) : State × Bool :=
  let ts := roundTargets s (s.dirOf r.line) r.line (some r.core)
  if ts.isEmpty then (s, false)
  else
    let s := sendRound s r.line ts r.core
    ({ s with reqs := mapWhere (fun q => q.id == r.id) (fun q => { q with inRound := true }) s.reqs }, true)

/-- Grant the line to the requester of an ownership request, and perform its access in the L1 (R254, R257). -/
def grantOwn (s : State) (r : Req) : State :=
  let old := s.mem
  let (mem, vals) := performAccs r.fn s.mem r.accs
  let dirty := if r.fn.writes then byteMask r.accs else 0
  let s := { s with mem := keepHardware s r.line old mem }
  let s := if r.fn = .write then unpoison s r.line dirty else s
  let d := (s.dirOf r.line).setPtrs [r.core]
  let d := { d with st := 2, req := 0, ack := 0, dlv := false, mix := 0, cop := 0, masks := [] }
  let d := if r.fn.writes then r.accs.foldl (fun d a => d.tagWords (a.ga % 128) a.size 0) d else d
  let s := (s.setDir d).putL1 ⟨r.core, r.line, r.vf, L1Kind.owned dirty⟩
  endReq s r (if r.fn.writes then [] else vals)

/-- Perform a home write once no other copy stands in its way: a requester that held a copy keeps it as the only
sharer, else the state is I (R302). -/
def finishHomeWrite (s : State) (r : Req) : State :=
  let d := s.dirOf r.line
  let keep := holdsTracked s r.core r.line
  let d := { (d.setPtrs (if keep then [r.core] else [])) with st := if keep then 1 else 0, req := 0, ack := 0 }
  let (s, vals) := homeApply (s.setDir d) r
  endReq s r vals

/-- The request whose round a line is in; none in a round of an agent that keeps no copy. -/
def roundReq (s : State) (line : Nat) : Option Req := s.reqs.find? fun r => r.line == line && r.inRound

/-- The round of a line is over: its request is granted or performed (R254, R302). The agent a round was made for performs its
write itself: for 16 clocks no request of a group comes before it (R256; DESIGN CHOICE, log 106). -/
def finishRound (s : State) (line : Nat) : State :=
  match roundReq s line with
  | none => s.setDir { (s.dirOf line).setPtrs [] with st := 0, req := 0, turn := s.cyc + 16 }
  | some r => match r.kind with
    | .own _ => grantOwn s r
    | _ => finishHomeWrite s r

/-! ## The columns of Table Tables 4 -/

/-- A copy of the line in a core's L1, in place of a leased one. -/
def putTracked (s : State) (core vf line : Nat) : State := s.putL1 ⟨core, line, vf, L1Kind.tracked⟩

/-- The owner of a line is recalled and stays as a sharer, with `q` if it is another (R302). -/
def recallToShared (s : State) (line : Nat) (vf : Nat) (q : Option Nat) : State :=
  let o := (s.dirOf line).owner
  let vf := (o.bind fun q => (s.l1? q line).map (·.vf)).getD vf
  let s := recallOwner s line
  let ptrs := (match o with | some o => [o] | none => []) ++ (match q with | some q => if o = some q then [] else [q] | none => [])
  let s := match o with | some o => putTracked s o vf line | none => s
  s.setDir { (s.dirOf line).setPtrs ptrs with st := if ptrs.isEmpty then 0 else 1 }

/-- Record a core in coarse form (R253). -/
def DirEntry.mark (d : DirEntry) (home c : Nat) : DirEntry :=
  if c / 256 = home then { d with shr := d.shr ||| (1#64 <<< (c % 256 / 4)) }
  else { d with mv := d.mv ||| (1#16 <<< (c / 256)) }

/-- Record a tracked reader of an entry in state I or S (R253). -/
def DirEntry.addSharer (d : DirEntry) (home q : Nat) : DirEntry :=
  if d.st = 0 then { d.setPtrs [q] with st := 1 }
  else if !d.crs && d.ptrs.contains q then d
  else if !d.crs && d.ptrs.length < 4 then d.setPtrs (d.ptrs ++ [q])
  else if !d.crs then (d.ptrs ++ [q]).foldl (fun d c => d.mark home c) { d with shr := 0, mv := 0, crs := true }
  else d.mark home q

/-- A tracked read (R253, Table Tables 4). -/
def serveTracked (s : State) (r : Req) : State :=
  let s := ensureTag s r.origin r.line
  let s := if (s.dirOf r.line).st = 4 || (s.dirOf r.line).st = 5 then mergeLine s r.line else s
  let d := s.dirOf r.line
  let s := if d.st = 2 then (if d.owner = some r.core then s else putTracked (recallToShared s r.line r.vf (some r.core)) r.core r.vf r.line)
    else putTracked (s.setDir (d.addSharer (lineMod r.line) r.core)) r.core r.vf r.line
  endReq s r (readAccs s r.accs)

/-- Lease length of a class of a virtual function on a module, 0 for class 0 (R303). -/
def leaseLen (s : State) (m vf cls : Nat) : Nat := if cls = 0 then 0 else (nth (s.vf m vf).leases cls 0).toNat

/-- Does the mode of a virtual function renew leases in Twilight (R303)? -/
def renewMode (s : State) (m vf : Nat) : Bool := (s.vf m vf).lmode = 2

/-- A lease load or an uncached read at the home (Table Tables 4, R235). -/
def serveLease (s : State) (r : Req) (cls : Nat) : State :=
  let s := ensureTag s r.origin r.line
  let d := s.dirOf r.line
  let s := if d.st = 4 || d.st = 5 then mergeLine s r.line
    else if d.st = 2 then recallToShared s r.line r.vf none else s
  let len := leaseLen s (coreMod r.core) r.vf cls
  let d := s.dirOf r.line
  let s := match s.l1? r.core r.line with
    | some ⟨_, _, _, .leased ..⟩ | none =>
      if 0 < len then
        s.putL1 ⟨r.core, r.line, r.vf, L1Kind.leased cls (s.ltick + len) (renewMode s (coreMod r.core) r.vf) d.ver d.epo (memLine s.mem r.line)⟩
      else refreshLease s r.core r.line (byteMask r.accs)
    | some _ => s
  endReq s r (readAccs s r.accs)

/-- Mask records in use at the slice of a line (R301). -/
def recordsUsed (s : State) (line : Nat) : List Nat :=
  (s.dir.filter fun d => d.st == 4 && lineSlice d.line == lineSlice line).map (·.mix.toNat)

/-- A free mask record of a slice. -/
def freeRecord (s : State) (line : Nat) : Option Nat := (List.range 4096).find? fun i => !(recordsUsed s line).contains i

/-- The line becomes privatised between holders with masks (R302), and the request's access is performed in its L1. -/
def grantPriv (s : State) (r : Req) (rec : Nat) (holders : List (Nat × BitVec 128)) : State :=
  let old := s.mem
  let (mem, vals) := performAccs r.fn s.mem r.accs
  let s := { s with mem := keepHardware s r.line old mem }
  let s := if r.fn = .write then unpoison s r.line (byteMask r.accs) else s
  let d := (s.dirOf r.line).setPtrs (holders.map (·.1))
  let d := { d with st := 4, mix := BitVec.ofNat 12 rec, masks := holders.map (·.2) }
  let d := if r.fn.writes then r.accs.foldl (fun d a => d.tagWords (a.ga % 128) a.size 0) d else d
  let s := holders.foldl (fun s h => s.putL1 ⟨h.1, r.line, r.vf, L1Kind.priv h.2⟩) (s.setDir d)
  endReq s r (if r.fn.writes then [] else vals)

/-- An ownership request (Table Tables 4). -/
def serveOwn (s : State) (r : Req) (store : Bool) : State :=
  let s := ensureTag s r.origin r.line
  let d := s.dirOf r.line
  let need := byteMask r.accs
  let plainGrant (s : State) : State := grantOwn s r
  match d.st.toNat with
  | 0 => plainGrant s
  | 1 => let (s', waits) := startRound s r
         if waits then s' else plainGrant (s.dropL1 r.core r.line)
  | 2 =>
    if d.owner = some r.core then
      let keep : BitVec 128 := match s.l1? r.core r.line with | some ⟨_, _, _, .owned k⟩ => k | _ => 0
      let s := grantOwn s r
      match s.l1? r.core r.line with
      | some ⟨c, l, v, .owned k⟩ => s.putL1 ⟨c, l, v, L1Kind.owned (k ||| keep)⟩
      | _ => s
    else
      let o := d.owner.getD 0
      let dirty : BitVec 128 := match s.l1? o r.line with | some ⟨_, _, _, .owned k⟩ => k | _ => 0
      match freeRecord s r.line with
      | some rec =>
        if store && dirty &&& need = 0 then grantPriv s r rec [(o, dirty), (r.core, need)]
        else plainGrant (recallOwner s r.line)
      | none => plainGrant (recallOwner s r.line)
  | 4 =>
    let hs := d.ptrs.zip d.masks
    let others := (hs.filter fun h => h.1 ≠ r.core).foldl (fun k h => k ||| h.2) (0 : BitVec 128)
    let holder := d.ptrs.contains r.core
    if others &&& need = 0 && (holder || (store && hs.length < 4)) then
      let hs := if holder then mapWhere (fun h => h.1 == r.core) (fun h => (h.1, h.2 ||| need)) hs else hs ++ [(r.core, need)]
      grantPriv s r d.mix.toNat hs
    else plainGrant (mergeLine s r.line)
  | 5 => plainGrant (mergeLine s r.line)
  | _ => s

/-- A home write, of a `wis` store too (Table Tables 4). -/
def serveHomeWrite (s : State) (r : Req) : State :=
  let s := ensureTag s r.origin r.line
  let d := s.dirOf r.line
  match d.st.toNat with
  | 0 => finishHomeWrite s r
  | 1 => let (s', waits) := startRound s r
         if waits then s' else finishHomeWrite s r
  | 2 =>
    let s := recallOwner s r.line
    finishHomeWrite (s.setDir { (s.dirOf r.line).setPtrs [] with st := 0 }) r
  | 3 => s
  | _ => finishHomeWrite (mergeLine s r.line) r

/-- Fold an update into a core's partial of an element (R119). -/
def partAdd (fn : Nat) (vals : List (Nat × DWord)) (a : LaneAcc) : List (Nat × DWord) :=
  let off := a.ga % 128
  let d : DWord := BitVec.ofNat 64 (a.data.toNat % 2 ^ (8 * a.size))
  match lookupNat off vals with
  | none => vals ++ [(off, d)]
  | some p => vals.map fun e => if e.1 = off then (off, BitVec.ofNat 64 (atomNew fn p.toNat d.toNat 0)) else e

/-- The group slot a request comes from. -/
def Agent.slots : Agent → List Nat
  | .group _ slot => [slot]
  | .sideLog _ => []

/-- Hold a commutative update as a partial in the requester's L1, which notes whose updates it holds (R237, R302). -/
def holdPartial (s : State) (r : Req) (fn : Nat) : State :=
  let (old, slots) : List (Nat × DWord) × List Nat := match s.l1? r.core r.line with
    | some ⟨_, _, _, .part _ v k _⟩ => (v, k)
    | _ => ([], [])
  let slots := slots ++ r.agent.slots.filter fun k => !slots.contains k
  let vals := r.accs.foldl (partAdd fn) old
  let d := s.dirOf r.line
  let ptrs := if d.st = 5 then (if d.ptrs.contains r.core then d.ptrs else d.ptrs ++ [r.core]) else [r.core]
  let d := { d.setPtrs ptrs with st := 5, cop := BitVec.ofNat 4 (fnCop fn) }
  endReq ((s.setDir d).putL1 ⟨r.core, r.line, r.vf, L1Kind.part (fnCop fn) vals slots (r.domain, r.pagePol)⟩) r []

/-- A commutative update performed at the home beside the partials held (Table Tables 4). -/
def besideParts (s : State) (r : Req) : State :=
  let (s, vals) := homeApply s r
  endReq s r vals

/-- A commutative update (Table Tables 4). Half an `add2h` is never held as a partial. -/
def serveCommut (s : State) (r : Req) : State :=
  let fn := match r.fn with | .atomic f => f | _ => 0
  let s := ensureTag s r.origin r.line
  let d := s.dirOf r.line
  if fn = 16 then (if d.st = 5 && d.cop.toNat = fnCop fn then besideParts s r else serveHomeWrite s r)
  else match d.st.toNat with
  | 0 => holdPartial s r fn
  | 1 => let (s', waits) := startRound s r
         if waits then s' else finishHomeWrite s r
  | 2 =>
    let s := recallOwner s r.line
    finishHomeWrite (s.setDir { (s.dirOf r.line).setPtrs [] with st := 0 }) r
  | 3 => s
  | 4 => holdPartial (mergeLine s r.line) r fn
  | _ =>
    if d.cop.toNat = fnCop fn then
      if d.ptrs.contains r.core || d.ptrs.length < 4 then holdPartial s r fn
      else besideParts s r
    else holdPartial (mergeLine s r.line) r fn

/-- Serve a request whose line has come to hold a live sync word since it was sent: at the home, with no copy (R311). Of
its updates, those that name a live word are dropped and counted: the instruction is past the trap the rule gives it
(DESIGN CHOICE, log 84). -/
def serveLive (s : State) (r : Req) : State :=
  let s := ensureTag s r.origin r.line
  let (s, vals) := r.accs.foldl (fun (acc : State × List (Nat × DWord)) a =>
    if r.fn.writes && hitsSync acc.1 a.ga a.size then (countSyncWr acc.1 (lineMod r.line), acc.2 ++ readAccs acc.1 [a])
    else
      let (s, v) := homeApply acc.1 { r with accs := [a] }
      (s, acc.2 ++ v)) (s, [])
  endReq s r vals

/-- A request has come to the home of a line in state B, where it waits (R256). -/
def awaitHome (s : State) (r : Req) : State :=
  { s with
    reqs := mapWhere (fun q => q.id == r.id) (fun q => { q with arrived := some s.nextId }) s.reqs
    nextId := s.nextId + 1 }

/-- Run a service on the request an event names, if it is of the event's kind and ready; where the line is in state B it is noted
that the request has come. -/
def onReq (s : State) (want : ReqKind → Bool) (k : State → Req → State) : Out :=
  match s.req? s.ev.a with
  | none => .next s
  | some r => .next (if want r.kind && serveReady s r then (if s.syncLine r.line then serveLive s r else k s r)
      else if want r.kind && (s.dirOf r.line).st = 3 && !r.inRound && r.arrived.isNone then awaitHome s r
      else s)

/-- The accesses of an `add2h` to one half of each word. -/
def LaneAcc.half (h : Nat) (a : LaneAcc) : LaneAcc :=
  { a with ga := a.ga + 2 * h, size := 2, off := a.off + 2 * h, data := a.data >>> (16 * h), va := a.va + 2 * h }

/-- An `add2h` is performed half by half, half `h` first: the other half waits at the home as a request of its own, and
loads may come between (R250). A group's other request to the line keeps the two together. -/
def splitHalves (s : State) (r : Req) (h : Nat) : State × Req :=
  let h := h % 2
  let first := { r with fn := .atomic 16, accs := r.accs.map (LaneAcc.half h), sc := false }
  let rest := { r with fn := .atomic 16, accs := r.accs.map (LaneAcc.half (1 - h)), id := s.nextId }
  let s := { s with
    reqs := mapWhere (fun q => q.id == r.id) (fun _ => first) s.reqs ++ [rest]
    nextId := s.nextId + 1 }
  (match r.txn, r.agent with
    | some id, .group core slot => s.modTxn core slot id fun t => { t with out := t.out + 1 }
    | _, _ => s, first)

/-- Do the partials of a line hold an element one of the accesses updates? -/
def partsMeet (s : State) (line : Nat) (accs : List LaneAcc) : Bool :=
  (s.copiesOf line).any fun c => match c.kind with
    | .part _ vals _ _ => vals.any fun e => accs.any fun a => a.ga % 128 == e.1
    | _ => false

/-- Is a commutative update performed at the home, so that its halves may part? Beside the partials of a line only where none holds
its element: a load between the halves would fold that element before the second (R119, R250). -/
def commutAtHome (s : State) (r : Req) : Bool :=
  let d := s.dirOf r.line
  d.st = 1 || d.st = 2 || (d.st = 5 && d.cop = 9 && 4 ≤ d.ptrs.length && !d.ptrs.contains r.core && !partsMeet s r.line r.accs)

/-- May the two halves of a request's updates be performed apart? -/
def halvable (s : State) (r : Req) : Bool :=
  r.fn == .atomic 12 && !s.syncLine r.line && (r.kind != .commut || commutAtHome s r) &&
  (s.reqs.filter fun q => q.agent == r.agent && q.line == r.line).length == 1

/-- TRACKED_READ (R253, R302): request `a` reaches its home and is recorded as a sharer. -/
def execTrackedRead (s : State) : Out :=
  onReq s (fun k => k == .tracked) serveTracked

/-- LEASE_LOAD (R235, R302): request `a` is served under its lease class. -/
def execLeaseLoad (s : State) : Out :=
  onReq s (fun k => match k with | .lease _ => true | _ => false) fun s r =>
    serveLease s r (match r.kind with | .lease c => c | _ => 0)

/-- OWNERSHIP_REQUEST (R254, R302): request `a` asks for its line. -/
def execOwnershipRequest (s : State) : Out :=
  onReq s (fun k => match k with | .own _ => true | _ => false) fun s r =>
    serveOwn s r (match r.kind with | .own b => b | _ => false)

/-- HOME_WRITE (R250, R257, R302): request `a` is performed at its home, after a round where one is needed; with `up`, half
`c` of an `add2h` first. -/
def execHomeWrite (s : State) : Out :=
  onReq s (fun k => match k with | .homeWrite _ => true | _ => false) fun s r =>
    if s.ev.up && halvable s r then
      let (s, r) := splitHalves s r s.ev.c
      serveHomeWrite s r
    else serveHomeWrite s r

/-- COMMUTATIVE_UPDATE (R237, R250, R302): request `a` is granted a partial or performed; with `up`, half `c` of an `add2h` that
is performed at the home first. -/
def execCommutativeUpdate (s : State) : Out :=
  onReq s (fun k => k == .commut) fun s r =>
    if s.ev.up && halvable s r then
      let (s, r) := splitHalves s r s.ev.c
      serveCommut s r
    else serveCommut s r

/-! ## Messages -/

/-- PARTIAL_DELIVERY (R237, R246, R302): the partial of line `b` in core `a` is delivered to its home. -/
def execPartialDelivery (s : State) : Out :=
  .next (if noPath s (coreMod s.ev.a) (lineMod s.ev.b) then s else deliverPartial s s.ev.a s.ev.b)

/-- Remove the first message equal to one. -/
def dropMsg (m : Msg) : List Msg → List Msg
  | [] => []
  | x :: xs => if x = m then xs else x :: dropMsg m xs

/-- The module of a target of invalidations. -/
def targetMod (target : Nat) : Nat := if target < 4096 then coreMod target else target - 4096

/-- Drop the tracked copies of a line at a target: one core, or a module's cores but the requester (R254). -/
def dropTracked (s : State) (target line : Nat) : State :=
  let q := (roundReq s line).map (·.core)
  let hit (c : L1Line) : Bool := c.line == line && c.kind == L1Kind.tracked &&
    (if target < 4096 then c.core == target else coreMod c.core == targetMod target && q != some c.core)
  { s with l1 := s.l1.filter fun c => !hit c }

/-- INVALIDATION (R245, R254): target `a` (a core, or 4096 + module), to which a path leads, receives an invalidation of line `b`,
discards its copy and acknowledges. -/
def execInvalidation (s : State) : Out :=
  let m := Msg.inval s.ev.a s.ev.b
  .next (if s.msgs.contains m && !noPath s (targetMod s.ev.a) (lineMod s.ev.b) then
    let s := dropTracked s s.ev.a s.ev.b
    { s with msgs := dropMsg m s.msgs ++ [Msg.ack s.ev.a s.ev.b] } else s)

/-- One acknowledgement of a line's round counts; the last ends the round (R254). -/
def countAck (s : State) (line : Nat) : State :=
  let d := s.dirOf line
  let s := s.setDir { d with ack := d.ack - 1 }
  if d.ack.toNat ≤ 1 then finishRound s line else s

/-- Is the message a notice for a line from a source of acknowledgements: a core, or a core of a fabric unit (R255)? -/
def sentBy (source line : Nat) : Msg → Bool
  | .notice c l => l == line && (c == source || (4096 ≤ source && coreMod c == source - 4096))
  | _ => false

/-- ACKNOWLEDGEMENT (R245, R254, R255): the acknowledgement of source `a` for line `b` reaches the home, over a path and after
every notice the source sent before. -/
def execAcknowledgement (s : State) : Out :=
  let m := Msg.ack s.ev.a s.ev.b
  let before := s.msgs.takeWhile fun x => x ≠ m
  .next (if s.msgs.contains m && !before.any (sentBy s.ev.a s.ev.b) && !noPath s (targetMod s.ev.a) (lineMod s.ev.b) then
    let s := { s with msgs := dropMsg m s.msgs }
    if (s.dirOf s.ev.b).st = 3 then countAck s s.ev.b else s
  else s)

/-- A holder of a privatised line gives its bytes back; one holder left owns the line (R302). -/
def evictPriv (s : State) (core line : Nat) : State :=
  let d := s.dirOf line
  let hs := d.ptrs.zip d.masks
  let mine := (hs.filter fun h => h.1 == core).foldl (fun k h => k ||| h.2) (0 : BitVec 128)
  let rest := hs.filter fun h => h.1 ≠ core
  let d := (List.range 128).foldl (fun d b => if mine.getLsbD b then d.tagWords b 1 0 else d) d
  let s := (s.setDir d).dropL1 core line
  let s := writeDoneAs s line 0 0 0 (patchLine (homeContent s line) s.mem line mine)
  match rest with
  | [h] =>
    let vf := ((s.l1? h.1 line).map (·.vf)).getD 0
    (s.setDir { (s.dirOf line).setPtrs [h.1] with st := 2, mix := 0, masks := [] }).putL1 ⟨h.1, line, vf, L1Kind.owned h.2⟩
  | _ => s.setDir { (s.dirOf line).setPtrs (rest.map (·.1)) with masks := rest.map (·.2) }

/-- Evict a core's copy of a line (R255, R302). -/
def evictCopy (s : State) (core line : Nat) : State :=
  match s.l1? core line with
  | none => s
  | some c => match c.kind with
    | .tracked => State.dropL1 { s with msgs := s.msgs ++ [Msg.notice core line] } core line
    | .leased .. => s.dropL1 core line
    | .owned _ =>
      let s := recallOwner s line
      s.setDir { (s.dirOf line).setPtrs [] with st := 0 }
    | .priv _ => evictPriv s core line
    | .part .. => deliverPartial s core line

/-- L1_EVICT (R175, R255, R302): core `a` evicts its copy of line `b`. A copy with bytes to write back needs a path to
the home. -/
def execL1Evict (s : State) : Out :=
  let core := s.ev.a
  let line := s.ev.b
  let clean := match s.l1? core line with
    | some c => (match c.kind with | .tracked => true | .leased .. => true | _ => false)
    | none => true
  .next (if clean || !noPath s (coreMod core) (lineMod line) then evictCopy s core line else s)

/-- EVICTION_NOTICE (R255): the notice of core `a` for line `b` reaches the home. -/
def execEvictionNotice (s : State) : Out :=
  let m := Msg.notice s.ev.a s.ev.b
  if s.msgs.contains m then
    let s := { s with msgs := dropMsg m s.msgs }
    let d := s.dirOf s.ev.b
    .next (if d.st = 1 && !d.crs && d.ptrs.contains s.ev.a then
      let ps := d.ptrs.filter fun c => c ≠ s.ev.a
      s.setDir { d.setPtrs ps with st := if ps.isEmpty then 0 else 1 }
    else s)
  else .next s

/-- DRAM_FILL (R178, R180): line `b` is filled from DRAM for virtual function `a`, under a page with `POL` `c`; `up` says
that the access admits dedup (R177, R252). -/
def execDramFill (s : State) : Out :=
  .next (ensureTag s ⟨s.ev.a, if s.ev.up then some s.ev.a else none, BitVec.ofNat 2 s.ev.c⟩ s.ev.b)

/-- LEASE_EXPIRY (R235): the lease of core `a` on line `b` has run out; a lease that is not renewed in Twilight ends. -/
def execLeaseExpiry (s : State) : Out :=
  .next (match s.l1? s.ev.a s.ev.b with
    | some ⟨_, _, _, .leased _ expiry renew _ _ _⟩ => if expiry ≤ s.ltick && !renew then s.dropL1 s.ev.a s.ev.b else s
    | _ => s)

/-! ## Twilight (R225) -/

/-- The renewal of a line under Twilight is confirmed: the line's lease starts anew; with the last line confirmed, held
write-backs stand, and a safe point that waited for the reply is taken (R225, R226). -/
def confirmTwilight (s : State) (g : Group) (t : Twilight) (line : Nat) : State :=
  let s := match s.l1? g.core line with
    | some ⟨c, l, v, .leased cls _ _ ver epo data⟩ =>
      let len := leaseLen s (coreMod g.core) v cls
      s.putL1 ⟨c, l, v, L1Kind.leased cls (s.ltick + len) (renewMode s (coreMod g.core) v) ver epo data⟩
    | _ => s
  let rest := t.lines.filter fun x => x.line ≠ line
  if !rest.isEmpty then s.modGroup g.core g.slot fun g => { g with twi := some { t with lines := rest } }
  else
    let s := s.modGroup g.core g.slot fun g => { g with twi := none, parkMask := none }
    match g.parkMask with
    | some mask => parkAt s g.core g.slot mask
    | none => s

/-- A block as it was saved, in the place it has now: a spill or a refill meanwhile is not undone (R122). -/
def Block.restored (saved now : Block) : Block :=
  match saved, now with
  | .resident v, .spilled _ => .spilled v
  | .spilled v, .resident _ => .resident v
  | b, _ => b

/-- Was a sync word that a split waits on killed meanwhile (R315)? -/
def Arch.killedOn (a : Arch) (w : Option Nat) : Bool :=
  w.isSome && (a.splits.any (fun p => p.waitOn == w && p.killed) || a.parked.any fun p => p.waitOn == w && p.killed)

/-- A context rolled back to what was saved, keeping what other agents did to it meanwhile (R225). Latches that were lost
only while the group waited for the reply come back with the saved window (DESIGN CHOICE, log 85). -/
def Arch.rollBack (saved now : Arch) : Arch :=
  { saved with
    blocks := saved.blocks.zipWith Block.restored now.blocks
    splits := saved.splits.map fun p => { p with killed := p.killed || now.killedOn p.waitOn }
    parked := saved.parked.map fun p => { p with killed := p.killed || now.killedOn p.waitOn } }

/-- An access still under way as it stood before the Twilight load: which of its lanes were superseded then (R129). -/
def Txn.rollBack (saved : List Txn) (t : Txn) : Txn := { t with dead := ((saved.find? fun y => y.id == t.id).map (·.dead)).getD [] }

/-- The group as it stood before its Twilight load: the load and what followed it are discarded (R225, R226). -/
def Group.dropTwilight (g : Group) (t : Twilight) : Group :=
  { g with
    twi := none
    parkMask := none
    arch := t.saved.rollBack g.arch
    txns := (g.txns.filter fun y => y.id ≠ t.own).map (Txn.rollBack t.txns) }

/-- The renewal finds a new version (R225). A group that waited for it at the load's own safe point parks at the load, with nothing
of its context dead: the load runs again when it resumes (R226; DESIGN CHOICE, log 108). -/
def dropTwilight (s : State) (g : Group) (t : Twilight) : State :=
  let s := s.modGroup g.core g.slot fun g => g.dropTwilight t
  if g.parkMask.isSome then parkAt s g.core g.slot (BitVec.allOnes 32) else s

/-- Does the home still hold the version a Twilight load read (R235)? -/
def twilightSame (s : State) (t : TwiLine) : Bool :=
  let d := s.dirOf t.line
  d.ver = t.ver && d.epo = t.epo && d.st ≠ 2 && d.st ≠ 4 && d.st ≠ 5

/-- RENEWAL_REPLY (R225, R226, R235): the reply to renewal `c` of the group in slot `b` of core `a`. The home serves it in
the lease column first, so what owners and partials hold counts as written. -/
def execRenewalReply (s : State) : Out :=
  match s.group? s.ev.a s.ev.b with
  | none => .next s
  | some g => match g.twi.bind fun t => (t.lines[s.ev.c]?).map fun l => (t, l) with
    | none => .next s
    | some (t, l) =>
      let vf := ((s.team? g.team).map (·.vf)).getD 0
      if homeHolds s l.line false || noPath s (coreMod g.core) (lineMod l.line) then .next s
      else
        let s := ensureTag s ⟨vf, l.domain, l.pol⟩ l.line
        let d := s.dirOf l.line
        let s := if d.st = 4 || d.st = 5 then mergeLine s l.line
          else if d.st = 2 then recallToShared s l.line vf none else s
        if twilightSame s l then .next (confirmTwilight s g t l.line)
        else
          let d := s.dirOf l.line
          let len := leaseLen s (coreMod g.core) vf l.cls
          let s := if holdsTracked s g.core l.line || !l1Room s g.core l.line then s
            else s.putL1 ⟨g.core, l.line, vf, L1Kind.leased l.cls (s.ltick + len) (renewMode s (coreMod g.core) vf) d.ver d.epo (memLine s.mem l.line)⟩
          .next (dropTwilight s g t)

end Sys2Proof.Machine
end

