-- ==== Sys2Proof/Machine/Sketch.lean ====
section
/-!
DEFINITION. Sketch regions (09_memories.md R190 to R193; 17_tables.md R304): the descriptor, and inserting, deleting,
querying, merging, folding and clearing the cells.
-/
namespace Sys2Proof.Machine

/-- A descriptor as read: its virtual function, its own global address, its parameter word, its state base, its seeds
(R304). -/
structure SkDesc where
  vf : Nat
  at_ : Nat
  w0 : Nat
  base : Nat
  seeds : List DWord
  deriving DecidableEq, Repr

namespace SkDesc
/-- `TY` (Table Tables 6). -/
def ty (d : SkDesc) : Nat := bitsOf d.w0 0 4
/-- `HM`. -/
def hm (d : SkDesc) : Bool := bitsOf d.w0 4 1 = 1
/-- `VAR`: a counting filter. -/
def counting (d : SkDesc) : Bool := bitsOf d.w0 5 1 = 1
/-- `CW`: cell bits. -/
def cw (d : SkDesc) : Nat := 8 * 2 ^ bitsOf d.w0 6 2
/-- `D` + 1: rows, or probes. -/
def d (d : SkDesc) : Nat := bitsOf d.w0 8 4 + 1
/-- `LOG`. -/
def log (d : SkDesc) : Nat := bitsOf d.w0 12 5
/-- w, B, m or the bucket count. -/
def size (d : SkDesc) : Nat := 2 ^ d.log
/-- `Q`. -/
def q (d : SkDesc) : Nat := bitsOf d.w0 17 3
/-- `LO`. -/
def lo (d : SkDesc) : Nat := bitsOf d.w0 32 32
/-- Bytes of state (Table Memories 8). -/
def bytes (d : SkDesc) : Nat :=
  match d.ty with
  | 0 => d.d * d.size * d.cw / 8
  | 1 => 128 * d.size
  | 2 => d.size
  | _ => 4 * d.size
/-- Are the parameters within Table Memories 8? -/
def paramsOk (d : SkDesc) : Bool :=
  match d.ty with
  | 0 => d.d ≤ 8 && 4 ≤ d.log && d.log ≤ 24 && d.cw ≤ 32
  | 1 => d.log ≤ 24
  | 2 => 4 ≤ d.log && d.log ≤ 16
  | 3 => 2 ≤ d.q && d.q ≤ 5 && 6 ≤ d.log && d.log ≤ 20
  | _ => false
/-- The parameters of its type (Table Memories 8). -/
def params (d : SkDesc) : List Nat :=
  match d.ty with
  | 0 => [d.d, d.log, d.cw]
  | 1 => [d.d, d.log, d.counting.toNat]
  | 2 => [d.log]
  | _ => [d.q, d.log, d.lo]
/-- What two sketches must share to merge: type, parameters, hash mode, seeds (R193). -/
def sameShape (a b : SkDesc) : Bool := a.ty = b.ty && a.params == b.params && a.hm == b.hm && a.seeds == b.seeds
/-- Whose tags and entries hold the lines of its state: its virtual function's, in no domain (R177, R182). -/
def origin (d : SkDesc) : Origin := ⟨d.vf, none, 1⟩
end SkDesc

/-- The descriptor `skd` of a virtual function on a module (R304). -/
def skDesc (s : State) (m vf skd : Nat) : SkDesc :=
  let da := match physOf s m ((s.vf m vf).skdb.toNat + 128 * skd) with | .dram ga => ga | _ => 0
  { vf := vf, at_ := da, w0 := memReadLE s.mem da 8, base := bitsOf (memReadLE s.mem (da + 8) 8) 7 45 * 128
    seeds := (List.range 8).map fun i => BitVec.ofNat 64 (memReadLE s.mem (da + 16 + 8 * i) 8) }

/-- The global address of the first state byte of a valid descriptor; none makes every operation raise SKETCH
(R304). -/
def skBase (s : State) (m vf skd : Nat) : Option (SkDesc × Nat) :=
  match physOf s m ((s.vf m vf).skdb.toNat + 128 * skd) with
  | .dram _ =>
    let d := skDesc s m vf skd
    if !d.paramsOk then none
    else match physOf s m d.base, physOf s m (d.base + d.bytes - 1) with
      | .dram a, .dram b => if a / 2 ^ 38 = b / 2 ^ 38 then some (d, a) else none
      | _, _ => none
  | _ => none

/-- The row hash (R191). -/
def SkDesc.hash (d : SkDesc) (key : DWord) (j : Nat) : Nat :=
  let k := key ^^^ nth d.seeds j 0
  (if d.hm then k else fmix64 k).toNat

/-- The flags an update sets: `SAT`, `UNF`, `INV` as bits 0 to 2 (R191). -/
abbrev SkFlags := Nat

/-- A cell of `n` bytes of memory replaced by `f` of it. -/
def cellUpd (mem : List Host.Cell) (a n : Nat) (f : Nat → Nat × SkFlags) : List Host.Cell × SkFlags :=
  let r := f (memReadLE mem a n)
  (memWriteLE mem a n r.1, r.2)

/-- Saturating add to a cell with top `top`. -/
def satAdd (top x v : Nat) : Nat × SkFlags := if top < v + x then (top, 1) else (v + x, 0)
/-- Clamped subtraction from a cell. -/
def satSub (x v : Nat) : Nat × SkFlags := if v < x then (0, 2) else (v - x, 0)

/-- Update cells at a list of addresses in turn. -/
def cellsUpd (n : Nat) (f : Nat → Nat × SkFlags) (mem : List Host.Cell) : List Nat → List Host.Cell × SkFlags
  | [] => (mem, 0)
  | a :: as =>
    let (mem, x) := cellUpd mem a n f
    let (mem, y) := cellsUpd n f mem as
    (mem, x ||| y)

/-- Addresses of a key's cells in a frequency sketch. -/
def SkDesc.freqCells (d : SkDesc) (base : Nat) (key : DWord) : List Nat :=
  (List.range d.d).map fun j => base + (j * d.size + d.hash key j % d.size) * (d.cw / 8)

/-- Probe positions of a key in its block: bits of a plain filter, 4-bit cells of a counting one (Table Memories 8). -/
def SkDesc.probes (d : SkDesc) (key : DWord) : List Nat :=
  let h := d.hash key 1
  let n := if d.counting then 256 else 1024
  (List.range d.d).map fun i => (h % 2 ^ 32 + i * (h / 2 ^ 32 ||| 1)) % n

/-- Global address of a key's block. -/
def SkDesc.block (d : SkDesc) (base : Nat) (key : DWord) : Nat := base + 128 * (d.hash key 0 % d.size)

/-- A 4-bit cell: byte address and shift, lower nibble first. -/
def nibbleUpd (mem : List Host.Cell) (blk n : Nat) (f : Nat → Nat × SkFlags) : List Host.Cell × SkFlags :=
  cellUpd mem (blk + n / 2) 1 fun v =>
    let sh := 16 ^ (n % 2)
    let c := v / sh % 16
    let r := f c
    (v - c * sh + r.1 * sh, r.2)

/-- Update the 4-bit cells at a list of positions in turn. -/
def nibblesUpd (blk : Nat) (f : Nat → Nat × SkFlags) (mem : List Host.Cell) : List Nat → List Host.Cell × SkFlags
  | [] => (mem, 0)
  | n :: ns =>
    let (mem, x) := nibbleUpd mem blk n f
    let (mem, y) := nibblesUpd blk f mem ns
    (mem, x ||| y)

/-- The bucket of an FP32 value in a quantile summary; none for a NaN (Table Memories 8). -/
def SkDesc.bucket (d : SkDesc) (x : Word) : Option Nat :=
  match decodeF Fmt.f32 x.toNat with
  | .nan _ => none
  | .inf neg => some (if neg then 0 else d.size - 1)
  | .fin neg m _ =>
    if neg || m = 0 then some 0
    else
      let key := x.toNat / 2 ^ (23 - d.q)
      some (min (key - d.lo) (d.size - 1))

/-- Insert weight `x` of a key; a quantile summary inserts the FP32 value `v` (Table Memories 8). -/
def SkDesc.insert (d : SkDesc) (base : Nat) (mem : List Host.Cell) (key : DWord) (x : Nat) (v : Word) :
    List Host.Cell × SkFlags :=
  match d.ty with
  | 0 => if x = 0 then (mem, 0) else cellsUpd (d.cw / 8) (satAdd (2 ^ d.cw - 1) x) mem (d.freqCells base key)
  | 1 =>
    if x = 0 then (mem, 0)
    else if d.counting then nibblesUpd (d.block base key) (satAdd 15 1) mem (d.probes key)
    else ((d.probes key).foldl (fun m n =>
      (cellUpd m (d.block base key + n / 8) 1 fun b => (b ||| 2 ^ (n % 8), 0)).1) mem, 0)
  | 2 =>
    if x = 0 then (mem, 0)
    else
      let h := d.hash key 0
      let top := h / 2 ^ d.log
      let rho := (64 - d.log) - bitLength top + 1
      ((cellUpd mem (base + h % d.size) 1 fun r => (max r rho, 0)).1, 0)
  | _ => match d.bucket v with
    | none => (mem, 4)
    | some i => cellUpd mem (base + 4 * i) 4 (satAdd (2 ^ 32 - 1) 1)

/-- Delete weight `x` of a key from a frequency sketch or a counting filter (Table Memories 8, R191). Weight 0 has no effect on a
counting filter either, whose column of deletions names no weight (DESIGN CHOICE, log 102). -/
def SkDesc.delete (d : SkDesc) (base : Nat) (mem : List Host.Cell) (key : DWord) (x : Nat) : List Host.Cell × SkFlags :=
  if d.ty = 0 then cellsUpd (d.cw / 8) (satSub x) mem (d.freqCells base key)
  else if x = 0 then (mem, 0)
  else nibblesUpd (d.block base key) (fun c => if c = 0 then (0, 2) else if c = 15 then (15, 0) else (c - 1, 0)) mem (d.probes key)

/-- May a key be deleted (R212)? -/
def SkDesc.deletable (d : SkDesc) : Bool := d.ty = 0 || (d.ty = 1 && d.counting)

/-- The estimate of a distinct counter (R192). -/
def SkDesc.distinct (d : SkDesc) (base : Nat) (mem : List Host.Cell) : Nat :=
  let m := d.size
  let regs : List Nat := (List.range m).map fun j => (memRead mem (base + j)).toNat
  let z := regs.foldl (fun acc (r : Nat) => d64Add acc (1, -(r : Int))) (0, 0)
  let a := match m with
    | 16 => d64Ratio 673 1000
    | 32 => d64Ratio 697 1000
    | 64 => d64Ratio 709 1000
    | _ => d64Div (d64Ratio 7213 10000) (d64Add (d64OfNat 1) (d64Div (d64Ratio 1079 1000) (d64OfNat m)))
  let e := d64Div (d64Mul a (d64OfNat (m * m))) z
  let v := (regs.filter (· = 0)).length
  let e := if 0 < v && d64Le e (d64Mul (d64Ratio 5 2) (d64OfNat m)) then
      d64Mul (d64OfNat m) (d64Ln (d64Div (d64OfNat m) (d64OfNat v))) else e
  min (d64ToNat e) (2 ^ 32 - 1)

/-- The buckets of a quantile summary. -/
def SkDesc.buckets (d : SkDesc) (base : Nat) (mem : List Host.Cell) : List Nat :=
  (List.range d.size).map fun i => memReadLE mem (base + 4 * i) 4

/-- The lowest index whose running sum reaches `t`. -/
def reachSum (t : Nat) : Nat → List Nat → Nat
  | i, [] => i
  | i, b :: bs => if t ≤ b then i else reachSum (t - b) (i + 1) bs

/-- Half of an exact value. -/
def halveVal : FVal → FVal
  | .fin n m e => .fin n m (e - 1)
  | v => v

/-- The quantile of slot `q'` (R192). -/
def SkDesc.quantile (d : SkDesc) (base : Nat) (mem : List Host.Cell) (q' : Nat) : Nat :=
  let bs := d.buckets base mem
  let n := bs.foldl (· + ·) 0
  if n = 0 then 0x7FC00000
  else
    let t := max 1 (ceilDiv (min q' 1024 * n) 1024)
    let i := reachSum t 0 bs
    let val (k : Nat) : FVal := decodeF Fmt.f32 ((d.lo + k) * 2 ^ (23 - d.q) % 2 ^ 32)
    (roundVal Fmt.f32 .rne (halveVal (addVal .rne (val i) (val (i + 1))).1)).1

/-- The query of a key, or of slot `q'` of a quantile summary (Table Memories 8, R212). -/
def SkDesc.query (d : SkDesc) (base : Nat) (mem : List Host.Cell) (key : DWord) (q' : Nat) : Nat :=
  match d.ty with
  | 0 => ((d.freqCells base key).map fun a => memReadLE mem a (d.cw / 8)).foldl min (2 ^ 32 - 1)
  | 1 =>
    if (d.probes key).all fun n =>
      if d.counting then (memRead mem (d.block base key + n / 2)).toNat / 16 ^ (n % 2) % 16 ≠ 0
      else (memRead mem (d.block base key + n / 8)).getLsbD (n % 8) then 1 else 0
  | 2 => d.distinct base mem
  | _ => d.quantile base mem q'

/-- The rank of an FP32 value in a quantile summary (R212). -/
def SkDesc.rank (d : SkDesc) (base : Nat) (mem : List Host.Cell) (x : Word) : Nat :=
  match decodeF Fmt.f32 x.toNat with
  | .nan _ => 0
  | .inf true => 0
  | .fin true _ _ => 0
  | .fin false 0 _ => 0
  | _ => match d.bucket x with
    | none => 0
    | some i => min (((d.buckets base mem).take i).foldl (· + ·) 0) (2 ^ 32 - 1)

/-- The bytes of state a key's update may touch, as (address, size) within lines. -/
def SkDesc.spansOfKey (d : SkDesc) (base : Nat) (key : DWord) (v : Word) : List (Nat × Nat) :=
  match d.ty with
  | 0 => (d.freqCells base key).map fun a => (a, d.cw / 8)
  | 1 => (d.probes key).map fun n => (d.block base key + (if d.counting then n / 2 else n / 8), 1)
  | 2 => [(base + d.hash key 0 % d.size, 1)]
  | _ => match d.bucket v with | some i => [(base + 4 * i, 4)] | none => []

/-- The bytes of state that inserting or deleting weight `x` of a key touches: none for a weight without effect (Table
Memories 8). -/
def SkDesc.updSpans (d : SkDesc) (base : Nat) (key : DWord) (x : Nat) (v : Word) : List (Nat × Nat) :=
  if d.ty ≠ 3 && x = 0 then [] else d.spansOfKey base key v

/-- The bytes of state of a region, line by line. -/
def SkDesc.allSpans (d : SkDesc) (base : Nat) : List (Nat × Nat) :=
  (List.range (ceilDiv d.bytes 128)).map fun i => (base + 128 * i, min 128 (d.bytes - 128 * i))

/-- The lines of a list of spans, each once. -/
def spanLines (l : List (Nat × Nat)) : List Nat :=
  l.foldl (fun acc p => if acc.contains (p.1 / 128) then acc else acc ++ [p.1 / 128]) []

/-- The state with memory bytes replaced, as updates performed at the homes of the state lines: no dedup domain, the words
of the spans tagged 01 (R190, R257); then the flags of the parameter word. -/
def skCommit (s : State) (d : SkDesc) (mem : List Host.Cell) (fl : SkFlags) (spans : List (Nat × Nat)) : State :=
  let lines := spanLines spans
  let s := lines.foldl (fun s l => quiesce s d.origin l true) s
  let s := { s with mem := mem }
  let s := spans.foldl (fun s p => s.setDir ((s.dirOf (p.1 / 128)).tagWords (p.1 % 128) p.2 1)) s
  let s := lines.foldl (fun s l => writeDone s l 0 0 1) s
  if fl = 0 then s
  else homeWriteBytes s d.origin (d.at_ + 2) [memRead s.mem (d.at_ + 2) ||| BitVec.ofNat 8 (16 * fl)]

/-- Insert, performed at the homes. -/
def skInsert (s : State) (d : SkDesc) (base : Nat) (key : DWord) (x : Nat) (v : Word) : State :=
  let (mem, fl) := d.insert base s.mem key x v
  skCommit s d mem fl (d.updSpans base key x v)

/-- Delete, performed at the homes. -/
def skDelete (s : State) (d : SkDesc) (base : Nat) (key : DWord) (x : Nat) : State :=
  let (mem, fl) := d.delete base s.mem key x
  skCommit s d mem fl (d.updSpans base key x 0)

/-- The status word of a region (Table Memory Instructions 7). -/
def skStatus (d : SkDesc) (w0 : Nat) (prt : Bool) : Nat :=
  let sat := bitsOf w0 20 1
  let unf := bitsOf w0 21 1
  d.ty * 256 + prt.toNat * 16 + (if sat = 1 || unf = 1 then 8 else 0) + bitsOf w0 22 1 * 4 + unf * 2 + sat

/-- All state lines of a region. -/
def SkDesc.allLines (d : SkDesc) (base : Nat) : List Nat := spanLines (d.allSpans base)

/-- The bytes of state an answer for a key is formed from. -/
def SkDesc.querySpans (d : SkDesc) (base : Nat) (key : DWord) : List (Nat × Nat) :=
  if d.ty ≤ 1 then d.spansOfKey base key 0 else d.allSpans base

/-- Their lines. -/
def SkDesc.queryLines (d : SkDesc) (base : Nat) (key : DWord) : List Nat := spanLines (d.querySpans base key)

/-- Merge one byte pair of a region's cells, given the cell width in bytes (nibbles for a counting filter). -/
def SkDesc.mergeCell (d : SkDesc) (a b : Nat) : Nat × SkFlags :=
  match d.ty with
  | 0 => satAdd (2 ^ d.cw - 1) a b
  | 1 =>
    if d.counting then
      let l := satAdd 15 (a % 16) (b % 16)
      let h := satAdd 15 (a / 16) (b / 16)
      (l.1 + 16 * h.1, l.2 ||| h.2)
    else (a ||| b, 0)
  | 2 => (max a b, 0)
  | _ => satAdd (2 ^ 32 - 1) a b

/-- Bytes of a cell as merging walks them. -/
def SkDesc.cellBytes (d : SkDesc) : Nat :=
  match d.ty with | 0 => d.cw / 8 | 3 => 4 | _ => 1

/-- Merge the cells of the first `lines` lines of the source region at `src` into the target at `dst` (R191, R213). -/
def SkDesc.mergeLines (d : SkDesc) (lines src dst : Nat) (mem : List Host.Cell) : List Host.Cell × SkFlags :=
  let n := d.cellBytes
  (List.range (min d.bytes (128 * lines) / n)).foldl (fun acc i =>
    let (m, f) := cellUpd acc.1 (dst + n * i) n (d.mergeCell (memReadLE mem (src + n * i) n))
    (m, acc.2 ||| f)) (mem, 0)

/-- Merge every cell of the source region at `src` into the target at `dst` (R191). -/
def SkDesc.mergeAll (d : SkDesc) (src dst : Nat) (mem : List Host.Cell) : List Host.Cell × SkFlags :=
  d.mergeLines (ceilDiv d.bytes 128) src dst mem

/-- The values of all cells of a region. -/
def SkDesc.cells (d : SkDesc) (base : Nat) (mem : List Host.Cell) : List Nat :=
  let n := d.cellBytes
  (List.range (d.bytes / n)).map fun i => memReadLE mem (base + n * i) n

/-- The cells after a fold, with the flags a saturation sets (R193). Cells beyond the new size are zero. -/
def SkDesc.foldCells (d : SkDesc) (c : List Nat) : List Nat × SkFlags :=
  let g (i : Nat) : Nat := nth c i 0
  let h := d.size / 2
  let out (l : List (Nat × SkFlags)) : List Nat × SkFlags := (l.map (·.1), l.foldl (fun f p => f ||| p.2) 0)
  match d.ty with
  | 0 => out ((List.range (d.d * h)).map fun i => d.mergeCell (g (i / h * d.size + i % h)) (g (i / h * d.size + i % h + h)))
  | 1 => out ((List.range (128 * h)).map fun i => d.mergeCell (g i) (g (i + 128 * h)))
  | 2 =>
    let p := d.log
    out ((List.range h).map fun j => ((max (if g j = 65 - p then 66 - p else g j) (g (j + h))), 0))
  | _ =>
    let add (a b : Nat) : Nat × SkFlags := satAdd (2 ^ 32 - 1) a b
    if d.lo % 2 = 0 then out ((List.range h).map fun i => add (g (2 * i)) (g (2 * i + 1)))
    else out ((List.range (h + 1)).map fun i =>
      if i = 0 then (g 0, 0) else if i = h then (g (d.size - 1), 0) else add (g (2 * i - 1)) (g (2 * i)))

/-- May the region be folded (R193, R213)? -/
def SkDesc.foldable (d : SkDesc) : Bool :=
  match d.ty with
  | 0 => 4 < d.log
  | 1 => 0 < d.log
  | 2 => 4 < d.log
  | _ => 2 < d.q

/-- The parameter word after a fold: `LOG`, or `Q` and `LO` (R193, R304). -/
def SkDesc.foldWord (d : SkDesc) : Nat :=
  if d.ty = 3 then d.w0 - 2 ^ 17 - d.lo * 2 ^ 32 + d.lo / 2 * 2 ^ 32
  else d.w0 - 2 ^ 12

/-- Write the cells of a region. What lay beyond them before a fold is zero (R193 says so of quantile buckets alone: DESIGN CHOICE,
log 103). -/
def SkDesc.putCells (d : SkDesc) (base : Nat) (mem : List Host.Cell) (c : List Nat) : List Host.Cell :=
  let n := d.cellBytes
  (c.zipIdx).foldl (fun m p => memWriteLE m (base + n * p.2) n p.1)
    (mem.filter fun e => e.1 < base || base + d.bytes ≤ e.1)

end Sys2Proof.Machine
end

