-- ==== Sys2Proof/Machine/LoadStore.lean ====
section
/-!
DEFINITION. Lane and scalar loads and stores (10_memory_instructions.md R199 to R204, R209), loads in Twilight
(11_ordering_near_agents.md R224 to R226), and the return of a value-returning access (R200, R127, R129).
-/
namespace Sys2Proof.Machine

/-! ## Ordering -/

/-- The ordering of an access (Table Formats 6, R83). -/
inductive Ordr where
  | plain
  | acq
  | rel
  | sc
  deriving DecidableEq, Repr

namespace Ordr
/-- Does it acquire? -/
def acquires : Ordr → Bool
  | .acq => true
  | .sc => true
  | _ => false
/-- Does it release? -/
def releases : Ordr → Bool
  | .rel => true
  | .sc => true
  | _ => false
end Ordr

/-- The ordering an M-format instruction names; under `POL` 10 `ORD` is a lease class (R84). -/
def ordOf (pol : BitVec 2) (ord : BitVec 3) : Ordr :=
  if pol = 2 then .plain else match ord.toNat with | 1 => .acq | 2 => .rel | 3 => .sc | _ => .plain

/-- How an access reaches memory: policy, lease class, ordering; `page` takes the page's own policy (R204). -/
structure Mode where
  pol : BitVec 2
  cls : Nat
  ord : Ordr
  page : Bool
  deriving DecidableEq, Repr

/-- The mode of an M-format instruction. -/
def mformMode (f : MForm) : Mode := ⟨f.pol, f.ord.toNat, ordOf f.pol f.ord, false⟩
/-- The mode of a scalar access (R204): the page's policy, plain; a page of policy 10 names no lease class, so its load
is uncached (DEDUCED, log 20). -/
def scalarMode : Mode := ⟨0, 0, .plain, true⟩

/-- The policy an access to a page has. -/
def Mode.polOf (m : Mode) (p : Page) : BitVec 2 := if m.page then p.pol else m.pol

/-- The region codes whose accesses are local (R202). -/
def localRgn (a : AReg) : Bool := 1 ≤ a.rgn && a.rgn ≤ 5

/-- The scope of an ordered access: `OSC` capped, core scope on local regions (R202). -/
def ordScope (s : State) (x : Issue) (a : AReg) (o : Ordr) : Nat × State :=
  if o = .plain then (0, s) else if localRgn a then (1, s) else capScope s x (oscOf x.g)

/-! ## Loads -/

/-- A returned part of a value: lane, first byte, bytes. -/
abbrev Got := List (Nat × Nat × DWord)

/-- The bytes of an access to a line a core holds: memory, or the copy of a lease. -/
def hitVals (s : State) (copy : Option LineData) (accs : List LaneAcc) : Got :=
  accs.map fun a => (a.lane, a.off, match copy with
    | some d => BitVec.ofNat 64 ((d.toNat / 2 ^ (8 * (a.ga % 128))) % 2 ^ (8 * a.size))
    | none => BitVec.ofNat 64 (s.readGa a.ga a.size))

/-- Must an access be made at the home whatever its policy: an uncached page, a queue header, a live sync word's line, a
sequentially consistent access (R201, R240, R259, R311)? -/
def homeOnly (s : State) (p : Page) (line : Nat) (sc : Bool) : Bool :=
  !p.ca || p.ty = 1 || sc || (s.headerQueue? line).isSome || s.syncLine line

/-- What a load of a line comes to: a hit, a request, or a lease that has run out and renews in Twilight (R201, R224). -/
inductive LoadWay where
  | hit (copy : Option LineData)
  | ask (k : ReqKind)
  | twilight (cls : Nat) (ver : BitVec 16) (epo : BitVec 8) (data : LineData)
  deriving DecidableEq, Repr

/-- How a load of a line is served (R201). A sequentially consistent one goes to the home for its timestamp (R202); a holder of a
privatised part asks for the line where it reads outside its mask (R302). R222 lets a load be served from the group's own store before that store is
performed; here it always follows the store to the home (DESIGN CHOICE, log 86). -/
def loadWay (s : State) (x : Issue) (line : Nat) (p : Page) (m : Mode) (accs : List LaneAcc) : LoadWay :=
  let pol := m.polOf p
  if homeOnly s p line false then .ask (.lease 0)
  else
    let ask : LoadWay := .ask (match pol.toNat with
      | 0 => .own false
      | 2 => .lease (if leaseLen s x.m x.t.vf m.cls = 0 then 0 else m.cls)
      | _ => .tracked)
    if m.ord == .sc || earlierReq s x line then ask
    else match s.l1? x.g.core line with
      | some c => match c.kind with
        | .owned _ => .hit none
        | .tracked => if pol = 0 then ask else .hit none
        | .priv k => if byteMask accs &&& ~~~k = 0 then .hit none else .ask (.own false)
        | .leased cls expiry renew ver epo data =>
          if pol ≠ 2 || m.cls = 0 then ask
          else if s.ltick < expiry then .hit (some data)
          else if renew then .twilight cls ver epo data
          else ask
        | .part .. => ask
      | none => ask

/-- Lamport timestamps of a sequentially consistent access of a core to lines in turn (R202, R209). -/
def lineLts (s : State) (sc : Bool) (core : Nat) (lines : List Nat) : State :=
  if sc then lines.foldl (fun s ln => takeLts s core ln) s else s

/-- The parts of the lanes' local bytes, in lane order. -/
def rowParts (ok : List LaneAt) : List RowPart :=
  ok.flatMap fun l => l.pieces.filterMap fun p => match p.place with
    | .loc key => some ⟨l.op.lane, key, p.size, p.off, (l.op.data >>> (8 * p.off)).toNat % 2 ^ (8 * p.size)⟩
    | _ => none

/-- The bank rows a lane's access runs on into, each once: an access of later steps, one to a row (R189, R227). -/
def laterRows (ok : List LaneAt) : List Nat := (((rowParts ok).filter (0 < ·.off)).map (·.key / 32)).eraseDups

/-- The lanes without their bytes in those rows. -/
def firstStep (ok : List LaneAt) : List LaneAt :=
  ok.map fun l => { l with pieces := l.pieces.filter fun p => match p.place with
    | .loc key => !(laterRows ok).contains (key / 32)
    | _ => true }

/-- Does an access cover a local line in full? -/
def coversLine (parts : List (Nat × Nat)) (k : Nat) : Bool :=
  (parts.foldl (fun (m : BitVec 128) a =>
    if a.1 / 128 = k then m ||| ((BitVec.allOnes 128 >>> (128 - a.2)) <<< (a.1 % 128)) else m) 0) = BitVec.allOnes 128

/-- The steps an access has still to take, row by row; the last in a line that `full` holds of makes it good (R336). -/
def laterSteps (core slot : Nat) (txn : Option Nat) (parts : List RowPart) (full : Nat → Bool) (born : Nat) : List Nat → List RowRest
  | [] => []
  | r :: rs =>
    ⟨core, slot, txn, parts.filter (·.key / 32 = r),
      if txn.isNone && full (r / 4) && !rs.any (· / 4 = r / 4) then some (r / 4) else none, born⟩ ::
      laterSteps core slot txn parts full born rs

/-- Note the steps a group's access has still to take. -/
def noteSteps (s : State) (x : Issue) (txn : Option Nat) (ok : List LaneAt) : State :=
  { s with rests := s.rests ++ laterSteps x.g.core x.g.slot txn (rowParts ok) (coversLine (localParts ok)) s.nextId (laterRows ok) }

/-- The values of the pieces that are not global: local store, registers, the application-die window, sketches. -/
def directVals (s : State) (x : Issue) (sc : Bool) (ok : List LaneAt) : Got × State :=
  ok.foldl (fun acc l => l.pieces.foldl (fun (acc : Got × State) p =>
    let s := acc.2
    match p.place with
    | .loc key => let (v, s) := localRead s key p.size; (acc.1 ++ [(l.op.lane, p.off, BitVec.ofNat 64 v)], s)
    | .reg off => (acc.1 ++ [(l.op.lane, p.off, BitVec.ofNat 64 (regWindowRead x off p.size))], s)
    | .window _ => (acc.1 ++ [(l.op.lane, p.off, ((Config.freeWord s.freeCount).setWidth 64 &&& (BitVec.allOnes 64 >>> (64 - 8 * p.size))))],
        { s with freeCount := s.freeCount + 1 })
    | .sketch va pg => match skBase s x.m x.t.vf pg.skd with
      | some (d, base) =>
        let key := sketchSlot s x.t.tctx pg.skd va
        let lines := d.queryLines base (BitVec.ofNat 64 key)
        let s := lineLts (lines.foldl (fun s ln => quiesce s d.origin ln false) s) sc x.g.core lines
        (acc.1 ++ [(l.op.lane, p.off, BitVec.ofNat 64 (d.query base s.mem (BitVec.ofNat 64 key) key))], s)
      | none => acc
    | .glob _ _ => acc) acc) ([], s)

/-- The value of each lane from its parts. -/
def gather64 (lanes : List Nat) (got : Got) : List (Nat × DWord) :=
  lanes.map fun L => (L, got.foldl (fun (v : DWord) (p : Nat × Nat × DWord) => if p.1 = L then v ||| (p.2.2 <<< (8 * p.2.1)) else v) (0 : DWord))

/-- The trap of the first non-helper lane one of `f` names. -/
def laneTrap (x : Issue) (ok : List LaneAt) (f : LaneAt → Option TrapInfo) : Option TrapInfo :=
  ok.findSome? fun l => if x.g.arch.helpers.getLsbD l.op.lane then none else f l

/-- The module of a lane's home that has been lost: a global line's, or that of a sketch's state (R190, R245). -/
def lostHome (s : State) (x : Issue) (l : LaneAt) : Option Nat :=
  (unreachable s x.m l).orElse fun _ => l.pieces.findSome? fun p => match p.place with
    | .sketch _ pg => match skBase s x.m x.t.vf pg.skd with
      | some (_, base) => if cutOff s x.m (lineMod (base / 128)) then some (lineMod (base / 128)) else none
      | none => none
    | _ => none

/-- Where a lane meets a sketch region: nowhere, under an invalid descriptor (R304), or its descriptor, its first byte of
state, and the key its slot stands for (R190). -/
inductive SkAt where
  | none
  | bad
  | on (d : SkDesc) (base : Nat) (slot : DWord)
  deriving DecidableEq, Repr

/-- The sketch region a lane's address lies in. -/
def sketchAt (s : State) (x : Issue) (l : LaneAt) : SkAt :=
  (l.pieces.findSome? fun p => match p.place with
    | .sketch va pg => some (match skBase s x.m x.t.vf pg.skd with
      | some (d, base) => .on d base (BitVec.ofNat 64 (sketchSlot s x.t.tctx pg.skd va))
      | none => .bad)
    | _ => none).getD .none

/-- The bytes of state a lane's sketch access reads or updates. -/
abbrev SkSpans := SkDesc → Nat → DWord → LaneOp → List (Nat × Nat)

/-- Those of a plain access: a store inserts its data under the slot's key, a load queries it (R209). -/
def slotSpans (write : Bool) : SkSpans := fun d base slot op =>
  if write then d.updSpans base slot (op.data.toNat % 2 ^ 32) (op.data.setWidth 32) else d.querySpans base slot

/-- Must a sketch access wait: for a path to its state (R244, R245), or at the home of a line of it (R256)? -/
def sketchWaits (s : State) (x : Issue) (write : Bool) (spans : SkSpans) (ok : List LaneAt) : Bool :=
  ok.any fun l => match sketchAt s x l with
    | .on d base slot => !cutOff s x.m (lineMod (base / 128)) &&
        (noPath s x.m (lineMod (base / 128)) || (spanLines (spans d base slot l.op)).any fun ln => homeWaits s ln write)
    | _ => false

/-- The updates of a sketch access that waits have reached the homes of their lines, which open the rounds they need (R256,
R302). -/
def sketchRounds (s : State) (x : Issue) (spans : SkSpans) (ok : List LaneAt) : State :=
  ok.foldl (fun s l => match sketchAt s x l with
    | .on d base slot => if noPath s x.m (lineMod (base / 128)) then s else openRounds s (spanLines (spans d base slot l.op))
    | _ => s) s

/-- SKETCH: a lane on a sketch page whose descriptor is invalid (R304). Then SYNC: an update of a live sync word (R311), or
POISON: a query of poisoned state (R198). -/
def sketchCheck (s : State) (x : Issue) (write : Bool) (spans : SkSpans) (l : LaneAt) : Option TrapInfo :=
  let info (k : TrapKind) : TrapInfo := { kind := k, lane := some l.op.lane, addr := l.op.ea, write := write }
  match sketchAt s x l with
  | .none => none
  | .bad => some (info .sketch)
  | .on d base slot =>
    let ps := spans d base slot l.op
    if write then (if ps.any fun p => hitsSync s p.1 p.2 then some (info .sync) else none)
    else if (spanLines ps).any fun ln => s.poison.contains ln then some (info .poison) else none

/-- UNREACH: a returning access to a home that has been lost (R245). -/
def unreachCheck (x : Issue) (s : State) (write : Bool) (l : LaneAt) : Option TrapInfo :=
  (lostHome s x l).map fun _ => { kind := .unreach, lane := some l.op.lane, addr := l.op.ea, write := write }

/-- The checks of a load's own, in order: poison, the sketch's, a lost home (R198, R245, R304). -/
def loadCheck (s : State) (x : Issue) (l : LaneAt) : Option TrapInfo :=
  (poisonCheck s false l).orElse fun _ => (sketchCheck s x false (slotSpans false) l).orElse fun _ => unreachCheck x s false l

/-- Does the load read a register block that failed error correction, through the R-region window (R123, R336)? -/
def windowPoisoned (x : Issue) (ok : List LaneAt) : Bool :=
  ok.any fun l => l.pieces.any fun p => match p.place with
    | .reg off => (List.range p.size).any fun b => x.g.badBlocks.contains ((off + b) / 4 / x.g.width / 8)
    | _ => false

/-- The lanes a check of its own, or a bad register block, would fault, which a helper reads as zero (R26). -/
def helperFails (s : State) (x : Issue) (l : LaneAt) : Bool :=
  x.g.arch.helpers.getLsbD l.op.lane && ((loadCheck s x l).isSome || windowPoisoned x [l])

/-- What the lines of a load come to: values there at once, requests sent, lines read in Twilight. -/
structure Loaded where
  got : Got
  asked : Nat
  late : List TwiLine
  s : State

/-- A load with steps of its own still to take (R227). -/
def Loaded.behind (r : Loaded) (steps : Nat) : Loaded := { r with asked := r.asked + steps }

/-- Send the requests of a load, line by line, and collect what hits. An expired line under renewal is read in Twilight
where `twi` allows it, and asked for otherwise (R201, R224). -/
def loadLines (s : State) (x : Issue) (m : Mode) (twi : Bool) (ok : List LaneAt) (txn : Nat) : Loaded :=
  (linesOf ok).foldl (fun acc e =>
    let s := acc.s
    let accs := accsOn e.1 ok
    let ask (k : ReqKind) : Loaded :=
      { acc with asked := acc.asked + 1, s := addReq s x e.1 e.2 k .read accs (some txn) (m.ord == .sc) 0 }
    match loadWay s x e.1 e.2 m accs with
    | .hit copy => { acc with got := acc.got ++ hitVals s copy accs }
    | .twilight cls ver epo data =>
      if twi then
        { acc with
          got := acc.got ++ hitVals s (some data) accs
          late := acc.late ++ [⟨e.1, cls, ver, epo, reqDomain s x e.2, e.2.pol⟩] }
      else ask (.lease cls)
    | .ask k => ask k) ⟨[], 0, [], s⟩

/-- Where the value of a load goes: lane registers with `N`, or a scalar register. -/
structure LoadDest where
  dest : Dest
  n : Bool
  deriving DecidableEq, Repr

/-- The group with an access under way, and the latch its instruction leaves: the lanes that return nothing hold what D
holds, or zero under `N` (R80, R200). -/
def startTxn (x : Issue) (g : Group) (id : Nat) (d : LoadDest) (vals : List (Nat × DWord)) (out : Nat)
    (acq : Option Nat) : Group × Latch :=
  let t : Txn := ⟨id, x.active, d.dest, d.n, vals, out, [], acq⟩
  let l : Latch := match d.dest with
    | .lanes r _ =>
      let old (L : Nat) : Word := if d.n || (lookupNat L vals).isSome then 0 else laneReg x.t g r L
      ⟨some ((List.range g.width).map old), r, d.n, false, some id,
        if d.n then [] else owedOf g r (~~~maskOf (vals.map (·.1)))⟩
    | .scalar _ => Latch.zero
  ({ g with txns := g.txns ++ [t] }, l)

/-- Write the lanes of a returned value (R129, R200), and its latch (R80). -/
def Group.land (g : Group) (x : Txn) : Group :=
  let g := { g with txns := g.txns.filter fun y => y.id ≠ x.id }
  let g := match x.dest with
    | .lanes d n =>
      if x.noWrite then g
      else (List.range n).foldl (fun (g : Group) j => g.landLane x.id (d + j) (x.alive j) (x.word j)) g
    | .scalar d => if x.dead.isEmpty then g.landScalar x.id d (((x.lanes.head?).map Prod.snd).getD 0) else g
  { g with
    arch := { g.arch with window := g.arch.window.map (Latch.fill x) }
    trap := { g.trap with savedWindow := g.trap.savedWindow.map (Latch.fill x) } }

/-- What the saved context of a Twilight load becomes when an access returns: one issued before that load lands there too
(R225). -/
def Twilight.land (g : Group) (x : Txn) (w : Twilight) : Twilight :=
  if x.id = w.own then w
  else
    let old := { x with dead := ((w.txns.find? fun y => y.id == x.id).map (·.dead)).getD [] }
    let h := Group.land { g with arch := w.saved, txns := w.txns } old
    { w with saved := h.arch, txns := h.txns }

/-- A returned value lands in the group, and in the context it saved. -/
def Group.landAll (g : Group) (x : Txn) : Group := { g.land x with twi := g.twi.map (Twilight.land g x) }

/-- Is the access one of a pass of a remote instruction that has more to do (R216)? -/
def passTxn (g : Group) (id : Nat) : Bool :=
  (g.arch.splits.any fun p => p.passTxn == some id) || g.arch.parked.any fun p => p.passTxn == some id

/-- LOAD_RETURN (R127, R129, R200): access `c` of the group in slot `b` of core `a` has all its data and writes it; an
acquire takes effect. A pass of a faulted group is not followed by another (R332). -/
def execLoadReturn (s : State) : Out :=
  match s.group? s.ev.a s.ev.b with
  | none => .next s
  | some g => match g.txns.find? (fun t => t.id == s.ev.c), s.team? g.team with
    | some x, some t =>
      if 0 < x.out || (passTxn g x.id && !g.faulted) then .next s
      else
        let s := s.setGroup (g.landAll x)
        .next (match x.acquire with | some sc => acquireDo s g.core t.vf sc | none => s)
    | _, _ => .next s

/-- The group behind a load in Twilight, which holds its value where every line was there; a pre-emption that takes the load's safe
point waits for the reply first (R224, R226). -/
def Group.enterTwilight (g : Group) (x : Issue) (sp : Sp) (id asked : Nat) (late : List TwiLine) : Group :=
  let g := if asked = 0 then (match g.txns.find? fun t => t.id == id with | some t => g.land t | none => g) else g
  { g with
    twi := some ⟨x.g.arch, x.g.txns, id, late, if sp.isSome then 7 else 0⟩
    parkMask := match g.preempt with | .asked _ => sp | _ => none }

/-- A load at its end: the group goes on; a load of expired lines has its value at once and waits for their renewals
(R224). -/
def loadEnd (x : Issue) (sp : Sp) (d : LoadDest) (acq : Option Nat) (id : Nat) (vals : List (Nat × DWord)) (r : Loaded) : State :=
  let (g, l) := startTxn x x.g id d vals r.asked acq
  if r.late.isEmpty then finish r.s x sp g l
  else r.s.setGroup ((g.retire r.s.cyc x.cur.split sp l x.cur.next).enterTwilight x sp id r.asked r.late)

/-- What a load does once its checks have passed. On a local region `sc` only acquires (R202). -/
def loadGo (s : State) (x : Issue) (sp : Sp) (a : AReg) (m : Mode) (d : LoadDest) (f : Found) : Res :=
  let zeros := f.zero ++ (f.ok.filter (helperFails s x)).map (·.op.lane)
  let ok := f.ok.filter fun l => !helperFails s x l
  let lanes := ok.map (·.op.lane) ++ zeros
  let (sc, s) := ordScope s x a m.ord
  let rel := m.ord.releases && !localRgn a
  if rel && !releaseReady s x.g sc then .held s
  else if windowPoisoned x ok then .trap { kind := .regpsn, code := 2 }
  else
    let s := if rel then releaseDo s x.g.core x.g.slot sc else s
    let id := s.nextId
    let (got, s) := directVals { s with nextId := id + 1 } x (m.ord == .sc) (firstStep ok)
    let r := loadLines (noteSteps s x (some id) ok) x m x.g.twi.isNone ok id
    .done (loadEnd x sp d (if m.ord.acquires then some sc else none) id (gather64 lanes (got ++ r.got)) (r.behind (laterRows ok).length))

/-- Must an access to global memory wait for a copy the group has touched, which has still to read the bytes (R221)? Lanes whose
pages fault stand behind it too. -/
def copyWaits (s : State) (x : Issue) (a : AReg) (k : Kind) (f : Found) : Bool :=
  !localRgn a && (f.ok.map (·.op) ++ f.faults.map (·.1)).any fun o => copyHolds s x.g.core x.g.slot (o.ea % 2 ^ 56) k.size

/-- A load that waits at an empty line starts the copy of the absent window the line lies in (R269). -/
def touchLoad (s : State) (x : Issue) (ok : List LaneAt) : Res :=
  let keys := ok.flatMap fun l => l.pieces.filterMap fun p => match p.place with
    | .loc key => some (key / 128)
    | _ => none
  .held (touchKeys s x.g.core x.g.slot x.g.team keys)

/-- A load: the checks of R197, the holds of R198, its own checks, its waits, then its effect. -/
def loadOp (s : State) (x : Issue) (sp : Sp) (a : AReg) (k : Kind) (m : Mode) (d : LoadDest) (ops : List LaneOp) : Res :=
  match checkLanes s x a k ops with
  | .error t => .trap t
  | .ok f =>
    if !f.faults.isEmpty then holdFaults s x false f.faults
    else match laneTrap x f.ok (loadCheck s x) with
    | some t => .trap t
    | none =>
      if rowWaits s x a then .pause s
      else if accessStalls s x a k f.ok || sketchWaits s x false (slotSpans false) f.ok then touchLoad s x f.ok
      else if mustWait s x a k f.ok || copyWaits s x a k f then .pause s
      else loadGo s x sp a m d f

/-- The 64-bit address of a lane (R195). -/
def laneEa (x : Issue) (a : AReg) (off : BitVec 7) (L : Nat) : Nat :=
  ((a.ptr.setWidth 64) + (laneReg x.t x.g off.toNat L).signExtend 64).toNat

/-- Page types of a word access and of the other sizes (Table Memory Instructions 1). -/
def typesOf (size : Nat) (word : Bool) : List Nat := if word && size = 4 then [0, 1, 2] else [0, 1]
/-- Region codes of the same. -/
def regionsOf (size : Nat) (word : Bool) : List Nat := if word && size = 4 then [0, 1, 2, 3, 4, 5, 6, 7] else [0, 1, 2, 3, 4, 5, 6]

/-- A plain load of `size` bytes. -/
def loadKind (size : Nat) : Kind := ⟨size, AReg.rd, regionsOf size true, typesOf size true, false, false, true⟩
/-- A plain store of `size` bytes. -/
def storeKind (size : Nat) : Kind := ⟨size, AReg.wr, regionsOf size true, typesOf size true, true, false, false⟩

/-- Lane registers a pair or a single register spans. -/
def regSpan (d : BitVec 7) (n : Nat) : List Nat := (List.range n).map fun i => d.toNat + i

/-- A lane load of `size` bytes (R199, R200). -/
def laneLoad (size : Nat) (f : MForm) (s : State) : Out :=
  let regs := if size = 8 then 2 else 1
  withOps s f.sp { lr := [f.off.toNat], lw := if f.n then [] else regSpan f.d regs } fun s x =>
    let a := addrReg x.g f.ar.toNat
    loadOp s x f.sp a (loadKind size) (mformMode f) ⟨.lanes f.d.toNat regs, f.n⟩ (x.lanes.map fun L => ⟨L, laneEa x a f.off L, 0, 0⟩)

/-- `ldb` (Table Memory Instructions 2). -/
def execLdb (f : MForm) (s : State) : Out := laneLoad 1 f s
/-- `ldh` (Table Memory Instructions 2). -/
def execLdh (f : MForm) (s : State) : Out := laneLoad 2 f s
/-- `ldw`; on a sketch page a query (Table Memory Instructions 2, R209). -/
def execLdw (f : MForm) (s : State) : Out := laneLoad 4 f s
/-- `ldd` (Table Memory Instructions 2). -/
def execLdd (f : MForm) (s : State) : Out := laneLoad 8 f s

/-! ## Stores -/

/-- Perform a store to a line the L1 holds for writing, or send it (R201): also where the home must put it behind half an `add2h`
(R250) or behind accesses translated through the line (R187). -/
def storeLine (s : State) (x : Issue) (line : Nat) (p : Page) (m : Mode) (accs : List LaneAcc) (txn : Option Nat) : State × Nat :=
  let pol := m.polOf p
  let sc := m.ord == .sc
  let tag : BitVec 2 := if !p.ca then 1 else match pol.toNat with | 2 => 2 | 3 => 3 | _ => 1
  if homeOnly s p line sc then (addReq s x line p (.homeWrite false) .write accs txn sc tag, 1)
  else if pol ≠ 0 then (addReq s x line p (.homeWrite (pol == 3)) .write accs txn sc tag, 1)
  else
    let ask := (addReq s x line p (.own true) .write accs txn false 0, 1)
    if earlierReq s x line || halfDone s line || tableBusy s line s.nextId then ask
    else
      let here (kind : L1Kind) : State × Nat :=
        let (mem, _) := performAccs .write s.mem accs
        let s := { s with mem := keepHardware s line s.mem mem }
        let s := unpoison s line (byteMask accs)
        (s.putL1 ⟨x.g.core, line, x.t.vf, kind⟩, 0)
      match s.l1? x.g.core line with
      | some c => match c.kind with
        | .owned k => here (.owned (k ||| byteMask accs))
        | .priv k => if byteMask accs &&& ~~~k = 0 then here (.priv k) else ask
        | _ => ask
      | none => ask

/-- Local lines whose every byte the lanes of one store write are good again (R336). -/
def healStored (s : State) (parts : List (Nat × Nat)) : State :=
  { s with lpoison := s.lpoison.filter fun k => !coversLine parts k }

/-- Before a lane store or atomic of the group: the operations it posts before its next `mrdy` may read these lines as they
stand (R248). -/
def Group.unreadyFor (s : State) (t : Team) (g : Group) (parts : List (Nat × Nat)) : Group :=
  { g with unready := g.unready ++ linesNow s (operandParts t parts) }

/-- Perform the pieces of a store that are not global, in lane order. -/
def directStores (s : State) (x : Issue) (g : Group) (sc : Bool) (ok : List LaneAt) : State × Group :=
  ok.foldl (fun acc l => l.pieces.foldl (fun (acc : State × Group) p =>
    let (s, g) := acc
    let v := (l.op.data >>> (8 * p.off)).toNat % 2 ^ (8 * p.size)
    match p.place with
    | .loc key => (localWrite s key p.size v, g)
    | .reg off => (s, (List.range p.size).foldl (fun g b => regWindowPut x.t g (off + b) (BitVec.ofNat 8 (v / 256 ^ b))) g)
    | .sketch va pg => match skBase s x.m x.t.vf pg.skd with
      | some (d, base) =>
        let key := BitVec.ofNat 64 (sketchSlot s x.t.tctx pg.skd va)
        (lineLts (skInsert s d base key v (BitVec.ofNat 32 v)) sc x.g.core
          (spanLines (d.updSpans base key v (BitVec.ofNat 32 v))), g)
      | none => (s, g)
    | _ => (s, g)) acc) (noteStore (healStored s (localParts ok)) (operandParts x.t (localParts ok)), g.unreadyFor s x.t (localParts ok))

/-! ## Later steps of an access across a bank row (R189, R227) -/

/-- Can a step not be taken yet: a line to be read is no longer full, or a copy into one has started (R173)? -/
def RowRest.blocked (s : State) (r : RowRest) : Bool :=
  r.parts.any fun p => if r.txn.isSome then s.lineState (p.key / 128) != some .full else s.lineState (p.key / 128) == some .pending

/-- The group's next step, if it can be taken. -/
def nextRow (s : State) (core slot : Nat) : Option RowRest :=
  (s.rests.find? fun r => r.core == core && r.slot == slot).filter fun r => !r.blocked s

/-- A step of a load: its bytes go to the access under way. -/
def loadRow (s : State) (r : RowRest) (id : Nat) : State :=
  let s := r.parts.foldl (fun s p =>
    let (v, s) := localRead s p.key p.size
    s.modTxn r.core r.slot id fun t => t.give p.lane p.off (BitVec.ofNat 64 v)) s
  s.modTxn r.core r.slot id fun t => { t with out := t.out - 1 }

/-- A step of a store, as the first one (R248, R295, R336). -/
def storeRow (s : State) (r : RowRest) : State :=
  let parts := r.parts.map fun p => (p.key, p.size)
  let s := match (s.group? r.core r.slot).bind fun g => s.team? g.team with
    | some t => (noteStore s (operandParts t parts)).modGroup r.core r.slot fun g => g.unreadyFor s t parts
    | none => s
  let s := r.parts.foldl (fun s p => localWrite s p.key p.size p.v) s
  { s with lpoison := s.lpoison.filter fun k => r.heal != some k }

/-- The group takes the next step of its access (R227). -/
def takeRow (s : State) (core slot : Nat) : State :=
  match nextRow s core slot with
  | none => s
  | some r =>
    let s := { s with rests := s.rests.erase r }
    match r.txn with
    | some id => loadRow s r id
    | none => storeRow s r

/-! ## What a store does -/

/-- Lanes whose home has been lost leave, page by page, as entries performed zero or one times (R218, R245). -/
def logLost (s : State) (x : Issue) (k : Kind) (fn : AccFn) (osc : Nat) (lost : List LaneAt) : State :=
  let pages := (lost.map fun l => l.op.ea / 65536).foldl (fun acc p => if acc.contains p then acc else acc ++ [p]) []
  pages.foldl (fun s p =>
    let ls := (lost.filter fun l => l.op.ea / 65536 = p)
    let h := (ls.findSome? fun l => lostHome s x l).getD 0
    logEntry s x k.size fn osc h false true 3 0 p (ls.map fun l => ⟨l.op.lane, BitVec.ofNat 56 l.op.ea, l.op.extra ++ l.op.data⟩)) s

/-- Side-log entries a store or update would make. -/
def logNeed (s : State) (x : Issue) (f : Found) : Nat :=
  (faultPages f.faults).length +
    (((f.ok.filter fun l => (lostHome s x l).isSome).map fun l => l.op.ea / 65536).foldl
      (fun (acc : List Nat) p => if acc.contains p then acc else acc ++ [p]) []).length

/-- The registers of the window pieces of a store. -/
def windowRegs (x : Issue) (ok : List LaneAt) : List Nat :=
  ok.flatMap fun l => l.pieces.flatMap fun p => match p.place with
    | .reg off => (List.range p.size).map fun b => (off + b) / 4 / x.g.width
    | _ => []

/-- What a store does once its checks have passed. -/
def storeGo (s : State) (x : Issue) (sp : Sp) (a : AReg) (k : Kind) (m : Mode) (f : Found) : Res :=
  let lost := f.ok.filter fun l => (lostHome s x l).isSome
  let ok := f.ok.filter fun l => (lostHome s x l).isNone
  let (sc, s) := ordScope s x a m.ord
  if m.ord.releases && !releaseReady s x.g sc then .held s
  else match ensureRoom s x.g (windowRegs x ok) with
  | none => .pause s
  | some s =>
    let s := if m.ord.releases then releaseDo s x.g.core x.g.slot sc else s
    let acq := m.ord == .sc && !localRgn a
    let id := s.nextId
    let s := if acq then { s with nextId := id + 1 } else s
    let (s, g) := directStores (noteSteps s x none ok) x x.g (m.ord == .sc) (firstStep ok)
    let (s, n) := (linesOf ok).foldl (fun (acc : State × Nat) e =>
      let (s, k) := storeLine acc.1 x e.1 e.2 m (accsOn e.1 ok) (if acq then some id else none)
      (s, acc.2 + k)) (s, 0)
    let s := logFaults s x k .write (oscOf x.g) f.faults
    let s := logLost s x k .write (oscOf x.g) lost
    let g := if acq then (startTxn x g id ⟨.lanes 0 0, true⟩ [] n (some sc)).1 else g
    .done (finishPlain s x sp g)

/-- A store: the checks of R197, its own checks, its waits, then its effect (R198, R200, R202). -/
def storeOp (s : State) (x : Issue) (sp : Sp) (a : AReg) (k : Kind) (m : Mode) (ops : List LaneOp) : Res :=
  match checkLanes s x a k ops with
  | .error t => .trap t
  | .ok f => match f.ok.findSome? (fun l => (writeCheck s x.g.core .write false l).orElse fun _ => sketchCheck s x true (slotSpans true) l) with
    | some t => .trap t
    | none =>
      if rowWaits s x a then .pause s
      else if accessStalls s x a k f.ok then .wait
      else if sketchWaits s x true (slotSpans true) f.ok then .held (sketchRounds s x (slotSpans true) f.ok)
      else if mustWait s x a k f.ok || copyWaits s x a k f then .pause s
      else if logRoom s x.g.core < logNeed s x f then .pause s
      else storeGo s x sp a k m f

/-- The data a lane stores: register d, and d + 1 above it. -/
def laneData (x : Issue) (d : BitVec 7) (L : Nat) : DWord :=
  (if d.toNat < 127 then laneReg x.t x.g (d.toNat + 1) L else 0) ++ laneReg x.t x.g d.toNat L

/-- A lane store of `size` bytes (R199, R200). -/
def laneStore (size : Nat) (f : MForm) (s : State) : Out :=
  withOps s f.sp { lr := f.off.toNat :: regSpan f.d (if size = 8 then 2 else 1) } fun s x =>
    let a := addrReg x.g f.ar.toNat
    storeOp s x f.sp a (storeKind size) (mformMode f) (x.liveLanes.map fun L =>
      ⟨L, laneEa x a f.off L, BitVec.ofNat 64 ((laneData x f.d L).toNat % 2 ^ (8 * size)), 0⟩)

/-- `stb` (Table Memory Instructions 2). -/
def execStb (f : MForm) (s : State) : Out := laneStore 1 f s
/-- `sth` (Table Memory Instructions 2). -/
def execSth (f : MForm) (s : State) : Out := laneStore 2 f s
/-- `stw`; on a sketch page an insert (Table Memory Instructions 2, R209). -/
def execStw (f : MForm) (s : State) : Out := laneStore 4 f s
/-- `std` (Table Memory Instructions 2). -/
def execStd (f : MForm) (s : State) : Out := laneStore 8 f s

/-! ## Scalar loads and stores (R204) -/

/-- The one address of a scalar access (R195). -/
def scalarEa (s : State) (x : Issue) (a : AReg) (b : BitVec 6) : Nat :=
  ((a.ptr.setWidth 64) + scalarReg s x b.toNat).toNat

/-- The lane on whose behalf a scalar access is checked: none is a helper's, and the trap is the whole split's. -/
def scalarTrap : Res → Res
  | .trap i => .trap { i with lane := none }
  | r => r

/-- A scalar access is checked as of a lane that is no helper. -/
def plainLane (x : Issue) : Issue := { x with g := { x.g with arch := { x.g.arch with helpers := 0 } } }

/-- The kind of a scalar access: the same regions and pages as the lane form (Table Memory Instructions 1). -/
def scalarLoad (size : Nat) (f : SmemForm) (s : State) : Out :=
  withOps s f.sp { sr := [f.b.toNat], sw := [f.d.toNat] } fun s x =>
    let a := addrReg x.g f.ar.toNat
    let op : LaneOp := ⟨0, scalarEa s x a f.b, 0, 0⟩
    let k := loadKind size
    match checkLanes s (plainLane x) a k [op] with
    | .error t => scalarTrap (.trap t)
    | .ok fd =>
      if !fd.faults.isEmpty then scalarTrap (holdFaults s x false fd.faults)
      else match laneTrap (plainLane x) fd.ok (loadCheck s x) with
      | some t => scalarTrap (.trap t)
      | none =>
        if rowWaits s x a then .pause s
        else if accessStalls s x a k fd.ok || sketchWaits s x false (slotSpans false) fd.ok then touchLoad s x fd.ok
        else if mustWait s x a k fd.ok || copyWaits s x a k fd then .pause s
        else if windowPoisoned x fd.ok then .trap { kind := .regpsn, code := 2 }
        else
          let id := s.nextId
          let (got, s) := directVals { s with nextId := id + 1 } x false (firstStep fd.ok)
          let r := loadLines (noteSteps s x (some id) fd.ok) x scalarMode false fd.ok id
          .done (loadEnd x f.sp ⟨.scalar f.d.toNat, false⟩ none id (gather64 [0] (got ++ r.got)) (r.behind (laterRows fd.ok).length))

/-- `sld` (R204). -/
def execSld (f : SmemForm) (s : State) : Out := scalarLoad 4 f s
/-- `sldd` (R204). -/
def execSldd (f : SmemForm) (s : State) : Out := scalarLoad 8 f s

/-- A scalar store (R204): performed once per issuing split, whatever its lanes (R150). -/
def scalarStore (size : Nat) (f : SmemForm) (s : State) : Out :=
  withOps s f.sp { sr := [f.b.toNat, f.d.toNat] } fun s x =>
    let a := addrReg x.g f.ar.toNat
    let v := BitVec.ofNat 64 ((scalarReg s x f.d.toNat).toNat % 2 ^ (8 * size))
    match storeOp s (plainLane x) f.sp a (storeKind size) scalarMode [⟨0, scalarEa s x a f.b, v, 0⟩] with
    | .done s' => .done (s'.modGroup x.g.core x.g.slot fun g => { g with arch := { g.arch with helpers := x.g.arch.helpers } })
    | r => scalarTrap r

/-- `sst` (R204). -/
def execSst (f : SmemForm) (s : State) : Out := scalarStore 4 f s
/-- `sstd` (R204). -/
def execSstd (f : SmemForm) (s : State) : Out := scalarStore 8 f s

end Sys2Proof.Machine
end

