-- ==== Sys2Proof/Machine/Atomic.lean ====
section
/-!
DEFINITION. Atomics in their three orderings (10_memory_instructions.md R205 to R208).
-/
namespace Sys2Proof.Machine

/-- What an atomic orders: acquire, release, sequentially consistent (Table Memory Instructions 5). -/
structure AtomOrd where
  acq : Bool
  rel : Bool
  sc : Bool
  deriving DecidableEq, Repr

/-- The ordering of a form (R207). -/
def atomOrd (f : AtomForm) : AtomOrd :=
  match f.ord.toNat with
  | 0 => ⟨false, false, false⟩
  | 1 => ⟨!f.c, true, false⟩
  | _ => ⟨true, true, true⟩

/-- Registers of the operand: a pair for `addd` and `cas`. -/
def atomRegs (fn : Nat) : Nat := if fn = 1 || fn = 10 then 2 else 1

/-- The kind of an atomic access (Table Memory Instructions 1, R197). -/
def atomKind (fn : Nat) : Kind := ⟨atomSize fn, AReg.atm, [0, 1, 2, 3, 4, 6], [0, 1], true, true, true⟩

/-- The data of a lane: D, or D+1:D for `addd`; D+1 beside it for `cas` alone (R205, R272). -/
def atomOpOf (x : Issue) (f : AtomForm) (fn L ea : Nat) : LaneOp :=
  let v := laneData x f.d L
  ⟨L, ea, if fn = 1 then v else (v.setWidth 32).setWidth 64, if fn = 10 then v >>> 32 else 0⟩

/-- Perform the local lanes at their banks, in lane order: the values before. -/
def localAtoms (s : State) (fn : Nat) (ok : List LaneAt) : Got × State :=
  ok.foldl (fun acc l => l.pieces.foldl (fun (acc : Got × State) p => match p.place with
    | .loc key =>
      let s := acc.2
      let (mem, old) := performAcc (.atomic fn) s.lmem ⟨l.op.lane, key, p.size, 0, l.op.data, l.op.extra, l.op.ea⟩
      (acc.1 ++ [(l.op.lane, 0, old)], { s with lmem := mem })
    | .window _ => (acc.1 ++ [(l.op.lane, 0, (Config.freeWord acc.2.freeCount).setWidth 64 &&& (BitVec.allOnes 64 >>> (64 - 8 * p.size)))],
        { acc.2 with freeCount := acc.2.freeCount + 1 })
    | _ => acc) acc) ([], s)

/-- An atomic on a line: folded into a partial the core holds, or sent to the home (Table Memory Instructions 5). -/
def atomLine (s : State) (x : Issue) (line : Nat) (p : Page) (fn : Nat) (comm sc : Bool) (accs : List LaneAcc)
    (txn : Option Nat) : State × Nat :=
  if !comm || homeOnly s p line sc then (addReq s x line p (.homeWrite false) (.atomic fn) accs txn sc 1, 1)
  else
    let ask := (addReq s x line p .commut (.atomic fn) accs txn false 1, 1)
    if earlierReq s x line || halfDone s line then ask
    else match s.l1? x.g.core line with
      | some c => match c.kind with
        | .part cop vals slots _ =>
          let slots := if slots.contains x.g.slot then slots else slots ++ [x.g.slot]
          if cop = fnCop fn then
            (s.putL1 { c with kind := .part cop (accs.foldl (partAdd fn) vals) slots (reqDomain s x p, p.pol) }, 0)
          else ask
        | _ => ask
      | none => ask

/-- What an atomic does once its checks have passed (R206). -/
def atomGo (s : State) (x : Issue) (f : AtomForm) (fn : Nat) (a : AReg) (k : Kind) (fd : Found) : Res :=
  let o := atomOrd f
  let lost := fd.ok.filter fun l => (lostHome s x l).isSome
  let ok := fd.ok.filter fun l => (lostHome s x l).isNone
  let (sc, s) := ordScope s x a (if o.acq || o.rel then .sc else .plain)
  if o.rel && !releaseReady s x.g sc then .held s
  else
    let s := if o.rel then releaseDo s x.g.core x.g.slot sc else s
    let id := s.nextId
    let acq := o.acq && !(f.c && localRgn a)
    let useTxn := !f.c || acq
    let s := if useTxn then { s with nextId := id + 1 } else s
    let g := x.g.unreadyFor s x.t (localParts ok)
    let (got, s) := localAtoms (noteStore s (operandParts x.t (localParts ok))) fn ok
    let (s, n) := (linesOf ok).foldl (fun (acc : State × Nat) e =>
      let (s, k) := atomLine acc.1 x e.1 e.2 fn f.c o.sc (accsOn e.1 ok) (if useTxn then some id else none)
      (s, acc.2 + k)) (s, 0)
    if !f.c then
      let regs := if fn = 1 then 2 else 1
      let (g, l) := startTxn x g id ⟨.lanes f.d.toNat regs, f.n⟩ (gather64 (ok.map (·.op.lane)) got) n (if acq then some sc else none)
      .done (finish s x f.sp g l)
    else
      let s := logFaults s x k (.atomic fn) (oscOf x.g) fd.faults
      let s := logLost s x k (.atomic fn) (oscOf x.g) lost
      let g := if acq then (startTxn x g id ⟨.lanes 0 0, true⟩ [] n (some sc)).1 else g
      .done (finishPlain s x f.sp g)

/-- An atomic (R197, R198, R205 to R207). -/
def atomOp (fn : Nat) (f : AtomForm) (s : State) : Out :=
  withOps s f.sp { lr := f.off.toNat :: regSpan f.d (atomRegs fn),
                   lw := if f.c || f.n then [] else regSpan f.d (if fn = 1 then 2 else 1) } fun s x =>
    let a := addrReg x.g f.ar.toNat
    let k := atomKind fn
    match checkLanes s x a k (x.liveLanes.map fun L => atomOpOf x f fn L (laneEa x a f.off L)) with
    | .error t => .trap t
    | .ok fd => match fd.ok.findSome? (fun l => writeCheck s x.g.core (.atomic fn) f.c l) with
      | some t => .trap t
      | none =>
        if !f.c && !fd.faults.isEmpty then holdFaults s x true fd.faults
        else match (if f.c then none else fd.ok.findSome? fun l => (poisonCheck s true l).orElse fun _ => unreachCheck x s true l) with
        | some t => .trap t
        | none =>
          if rowWaits s x a then .pause s
          else if accessStalls s x a k fd.ok then touchLoad s x fd.ok
          else if mustWait s x a k fd.ok || copyWaits s x a k fd then .pause s
          else if f.c && logRoom s x.g.core < logNeed s x fd then .pause s
          else atomGo s x f fn a k fd

/-- `atom`, `atomar` and `atomsc` add (function 0 of Table Memory Instructions 4). -/
def execAtomAdd (f : AtomForm) (s : State) : Out := atomOp 0 f s
/-- `atom`, `atomar` and `atomsc` addd (function 1 of Table Memory Instructions 4). -/
def execAtomAddd (f : AtomForm) (s : State) : Out := atomOp 1 f s
/-- `atom`, `atomar` and `atomsc` and (function 2 of Table Memory Instructions 4). -/
def execAtomAnd (f : AtomForm) (s : State) : Out := atomOp 2 f s
/-- `atom`, `atomar` and `atomsc` or (function 3 of Table Memory Instructions 4). -/
def execAtomOr (f : AtomForm) (s : State) : Out := atomOp 3 f s
/-- `atom`, `atomar` and `atomsc` xor (function 4 of Table Memory Instructions 4). -/
def execAtomXor (f : AtomForm) (s : State) : Out := atomOp 4 f s
/-- `atom`, `atomar` and `atomsc` min (function 5 of Table Memory Instructions 4). -/
def execAtomMin (f : AtomForm) (s : State) : Out := atomOp 5 f s
/-- `atom`, `atomar` and `atomsc` max (function 6 of Table Memory Instructions 4). -/
def execAtomMax (f : AtomForm) (s : State) : Out := atomOp 6 f s
/-- `atom`, `atomar` and `atomsc` umin (function 7 of Table Memory Instructions 4). -/
def execAtomUmin (f : AtomForm) (s : State) : Out := atomOp 7 f s
/-- `atom`, `atomar` and `atomsc` umax (function 8 of Table Memory Instructions 4). -/
def execAtomUmax (f : AtomForm) (s : State) : Out := atomOp 8 f s
/-- `atom`, `atomar` and `atomsc` xchg (function 9 of Table Memory Instructions 4). -/
def execAtomXchg (f : AtomForm) (s : State) : Out := atomOp 9 f s
/-- `atom`, `atomar` and `atomsc` cas (function 10 of Table Memory Instructions 4). -/
def execAtomCas (f : AtomForm) (s : State) : Out := atomOp 10 f s
/-- `atom`, `atomar` and `atomsc` addf (function 11 of Table Memory Instructions 4). -/
def execAtomAddf (f : AtomForm) (s : State) : Out := atomOp 11 f s
/-- `atom`, `atomar` and `atomsc` add2h (function 12 of Table Memory Instructions 4). -/
def execAtomAdd2h (f : AtomForm) (s : State) : Out := atomOp 12 f s
/-- `atom`, `atomar` and `atomsc` maxf (function 13 of Table Memory Instructions 4). -/
def execAtomMaxf (f : AtomForm) (s : State) : Out := atomOp 13 f s
/-- `atom`, `atomar` and `atomsc` minf (function 14 of Table Memory Instructions 4). -/
def execAtomMinf (f : AtomForm) (s : State) : Out := atomOp 14 f s
/-- `atom`, `atomar` and `atomsc` incw (function 15 of Table Memory Instructions 4). -/
def execAtomIncw (f : AtomForm) (s : State) : Out := atomOp 15 f s

end Sys2Proof.Machine
end

