-- ==== Sys2Proof/Machine/Remote.lean ====
section
/-!
DEFINITION. Remote instructions (10_memory_instructions.md R215 to R219), the send streams and receive windows of the
fabric (15_queues.md R274), and the arrival of packets and of custody acknowledgements (12 R243, R244).
-/
namespace Sys2Proof.Machine

/-! ## Streams and windows (Table Queues 7) -/

/-- A module's receive window for a core. -/
def State.window (s : State) (core target : Nat) : Window :=
  (s.windows.find? fun x => x.core == core && x.target == target).getD ⟨target, core, 0, 0, []⟩
/-- A core's send stream to a module; a new one begins in the window's epoch. -/
def State.stream (s : State) (core target : Nat) : Stream :=
  (s.streams.find? fun x => x.core == core && x.target == target).getD ⟨core, target, 0, (s.window core target).epo, [], []⟩
/-- Put a stream. -/
def State.setStream (s : State) (x : Stream) : State :=
  { s with streams := upsert (fun y => y.core == x.core && y.target == x.target) x s.streams }
/-- Put a window. -/
def State.setWindow (s : State) (x : Window) : State :=
  { s with windows := upsert (fun y => y.core == x.core && y.target == x.target) x s.windows }

/-- Distance of a sequence number above another, modulo 2^32 (R274). -/
def seqDiff (a b : Nat) : Nat := (a + 2 ^ 32 - b) % 2 ^ 32

/-- Packets a retransmission buffer still takes (Table Queues 7). -/
def streamRoom (s : State) (core target : Nat) : Nat := 512 - (s.stream core target).buffer.length

/-- Send a packet: it takes the stream's next number and epoch. -/
def sendPacket (s : State) (core target : Nat) (p : Packet) : State :=
  let x := s.stream core target
  let p := { p with seq := x.nseq, epo := x.epo }
  s.setStream { x with nseq := (x.nseq + 1) % 2 ^ 32, buffer := x.buffer ++ [p], flight := x.flight ++ [p] }

/-- A packet the stream no longer keeps. -/
def Stream.drop (x : Stream) (seq : Nat) : Stream :=
  { x with buffer := x.buffer.filter (fun p => p.seq ≠ seq), flight := x.flight.filter fun p => p.seq ≠ seq }

/-- A packet performed: its acknowledgement has reached the issuer; custody is acknowledged apart. -/
def Stream.performed (x : Stream) (seq : Nat) : Stream := { x with flight := x.flight.filter fun p => p.seq ≠ seq }

/-! ## Performing a packet -/

/-- Does the packet wait at the home of one of its lines (R187, R236, R245, R256)? -/
def packetBlocked (s : State) (p : Packet) : Bool :=
  p.accs.any fun a => homeWaits s (a.ga / 128) p.fn.writes || (p.fn.writes && tableBusy s (a.ga / 128) p.born)

/-- The increment of a remote `cinc` at the counter's home: 1 where the word is a live counter, else 0 and no effect
(R315). -/
def cincAt (o : Origin) (s : State) (ga : Nat) (v : DWord) : State × DWord :=
  if lookupNat (ga / 8) s.sync = some .counter then
    (putWord8 o s ga ((memReadLE s.mem ga 8 + v.toNat) % 2 ^ 64), 1)
  else (s, 0)

/-- Perform one lane's part at its home; a write of a live sync word is dropped and counted (R311). -/
def performPart (s : State) (core : Nat) (p : Packet) (a : LaneAcc) : State × List (Nat × DWord) :=
  let line := a.ga / 128
  let o : Origin := ⟨p.vf, p.domain, p.pagePol⟩
  let s := quiesce s o line p.fn.writes
  if p.fn = .cinc then
    let (s, ok) := cincAt o s a.ga a.data
    (s, [(a.lane, ok)])
  else if p.fn.writes && hitsSync s a.ga a.size then (countSyncWr s (lineMod line), [(a.lane, BitVec.ofNat 64 (s.readGa a.ga a.size))])
  else
    homeApply s ⟨0, .group core p.slot, core, p.vf, line, .homeWrite false, p.fn, [a], none, false, 1, p.domain, p.pagePol, false, none⟩

/-- Perform a packet at the target and give the values it returns to the access that waits for them (R215, R216). -/
def performPacket (s : State) (core : Nat) (p : Packet) : State :=
  let s := p.accs.foldl (fun s a =>
    let (s, vals) := performPart s core p a
    match p.txn with
    | some id => s.modTxn core p.slot id fun t => vals.foldl (fun t v => t.give v.1 a.off v.2) t
    | none => s) s
  match p.txn with
  | some id => s.modTxn core p.slot id fun t => { t with out := t.out - 1 }
  | none => s

/-- Deliver packets in sequence while the next one has arrived (R274); one that waits at a home has opened the rounds its writes need
(R254, R302). -/
def deliverRun (core target : Nat) : Nat → State → State
  | 0, s => s
  | n + 1, s =>
    let w := s.window core target
    match w.reorder.find? fun p => p.seq = w.dseq with
    | none => s
    | some p =>
      if packetBlocked s p then reachHomes s p.fn.writes (p.accs.map fun a => a.ga / 128)
      else
        let s := performPacket s core p
        let s := s.setStream ((s.stream core target).performed p.seq)
        let s := s.setWindow { w with dseq := (w.dseq + 1) % 2 ^ 32, reorder := w.reorder.filter fun q => q.seq ≠ p.seq }
        deliverRun core target n s

/-- The drain a core's groups have been stopped by (R168). -/
def State.drainOf (s : State) (core : Nat) : Option Drain :=
  s.drains.find? fun d => d.on && d.m == coreMod core && d.part == (s.corePart core).num

/-- Replace the drain under way of a partition by `f` of it. -/
def State.modDrain (s : State) (m p : Nat) (f : Drain → Drain) : State :=
  { s with drains := mapWhere (fun d => d.on && d.m == m && d.part == p) f s.drains }

/-- Loss record of a group's node; a group that is gone reports nothing. What a group stopped by a `dusk` loses counts in
`RPT` and has cause 4 (R338). -/
def reportLoss (s : State) (core slot va seq cause n : Nat) : State :=
  match (s.group? core slot).bind fun g => (s.team? g.team).map fun t => (g, t) with
  | some (g, t) => match (if g.preempt = .stopped then s.drainOf core else none) with
    | some d => lossRecord (s.modDrain d.m d.part fun d => { d with rpt := d.rpt + 1 }) t.m t.node va seq 4 core n
    | none => lossRecord s t.m t.node va seq cause core n
  | none => s

/-- A packet of another epoch than the window's is discarded: one that returns nothing is reported, one that returns a
value raises UNREACH, and the error notice brings the stream to the window's epoch (R244, R274; log 21). A packet of a
group that a `dusk` has stopped counts in the drain (R338). -/
def stalePacket (s : State) (core target : Nat) (p : Packet) : State :=
  let x := s.stream core target
  let s := s.setStream { x.drop p.seq with epo := (s.window core target).epo }
  match p.txn with
  | some id => s.modGroup core p.slot fun g => { g with txns := g.txns.filter fun t => t.id ≠ id }
  | none => reportLoss s core p.slot (((p.lanes.head?).map (·.va.toNat)).getD 0) 0 2 p.lanes.length

/-- The number the window delivers next: the oldest packet of its epoch the stream still holds, where numbers before it have
been retired to the side log, have raised UNREACH or were stale (R218, R274; log 21). -/
def nextSeq (w : Window) (x : Stream) : Nat :=
  match leastBy (fun p => seqDiff p.seq w.dseq) (x.flight.filter fun p => p.epo = w.epo && seqDiff p.seq w.dseq < 2 ^ 31) with
  | some p => p.seq
  | none => w.dseq

/-- PACKET_ARRIVAL (R243, R244, R274): packet `c` of the stream of core `a` reaches module `b`. -/
def execPacketArrival (s : State) : Out :=
  let core := s.ev.a
  let target := s.ev.b
  let x := s.stream core target
  match x.flight.find? fun p => p.seq = s.ev.c with
  | none => .next s
  | some p =>
    let w := s.window core target
    if noPath s (coreMod core) target then .next s
    else if p.epo ≠ w.epo then .next (stalePacket s core target p)
    else
      let w := { w with dseq := nextSeq w x }
      let d := seqDiff p.seq w.dseq
      if 2 ^ 31 ≤ d then .next (s.setStream (x.drop p.seq))
      else if 63 < d then .next s
      else
        let w := if w.reorder.any fun q => q.seq = p.seq then w else { w with reorder := w.reorder ++ [p] }
        .next (deliverRun core target 64 (s.setWindow w))

/-- CUSTODY_ACK (R244, R274): the first hop has taken packet `c` of the stream of core `a` to module `b`; it leaves the
retransmission buffer. -/
def execCustodyAck (s : State) : Out :=
  let x := s.stream s.ev.a s.ev.b
  .next (if x.buffer.any fun p => p.seq = s.ev.c then
    s.setStream { x with buffer := x.buffer.filter fun p => p.seq ≠ s.ev.c } else s)

/-! ## Operands and checks -/

/-- What a remote form does at the target (Table Memory Instructions 8). -/
structure RemOp where
  fn : AccFn
  size : Nat
  returns : Bool
  /-- `rcas` and `rxchg`: acquire and release (R219) -/
  ordered : Bool
  deriving DecidableEq, Repr

/-- The even offset register of a pair. -/
def pairReg (f : RmForm) : Nat := 2 * f.k.toNat

/-- A lane's access with the module it goes to. -/
abbrev RLane := LaneOp × Nat

/-- The peer word of a lane. -/
def peerWord (x : Issue) (f : RmForm) (L : Nat) : Nat := (laneReg x.t x.g (pairReg f + 1) L).toNat

/-- The 64-bit address of a lane (R195). -/
def remoteEa (x : Issue) (f : RmForm) (L : Nat) : Nat :=
  (((addrReg x.g f.ar.toNat).ptr.setWidth 64) + (laneReg x.t x.g (pairReg f) L).signExtend 64).toNat

/-- The kind of a remote access (Table Memory Instructions 1). -/
def remKind (o : RemOp) : Kind := ⟨o.size, AReg.rmt, [0], [0, 1], o.fn.writes, false, o.returns⟩

/-- The checks of a lane's address; an update that crosses a line raises ALIGN (R189, R197; DEDUCED, log 22). -/
def remAddrCheck (x : Issue) (a : AReg) (k : Kind) (fn : AccFn) (ea : Nat) : Option (Nat × TrapKind) :=
  (addrCheck x a k ea).orElse fun _ => match fn with
    | .atomic _ => if 1 < (cutLines (ea % 2 ^ 56) k.size).length then some (3, .align) else none
    | _ => none

/-- The issuer's translation context as the target module uses it (R215). -/
def atPeer (x : Issue) (p : Nat) : Issue := { x with t := { x.t with core := p * 256 } }

/-- A trap with the peer of its lane in it, to be resumed from a pass. -/
def TrapInfo.forPeer (i : TrapInfo) (ls : List RLane) (pass : Nat) : TrapInfo :=
  { i with
    pass := pass
    peer := match i.lane with
      | some L => ((ls.find? fun e => e.1.lane = L).map (·.2)).getD 0
      | none => 0 }

/-- The lanes a remote instruction finds at their targets, and those whose translation faults there. -/
structure RFound where
  ok : List (LaneAt × Nat)
  faults : List (LaneOp × Nat × PageFault)
  deriving DecidableEq, Repr

/-- Translate at the targets the lanes that name a module of the fabric, and make the checks of their pages (R197, R216). -/
def remoteFind (s : State) (x : Issue) (k : Kind) (ls : List RLane) : Except TrapInfo RFound :=
  let looked := (ls.filter fun e => e.2 < 16 && s.inFabric e.2).map fun e => (e, locate s (atPeer x e.2) AReg.none k e.1.ea)
  let bad := looked.filterMap fun e => match e.2 with
    | .ok (_, some f) => some (f.1, e.1.1, f.2.1, f.2.2)
    | _ => none
  match firstFailure k.write bad with
  | some t => .error t
  | none => .ok {
      ok := looked.filterMap fun e => match e.2 with | .ok (ps, none) => some (⟨e.1.1, ps⟩, e.1.2) | _ => none
      faults := looked.filterMap fun e => match e.2 with | .error f => some (e.1.1, e.1.2, f) | _ => none }

/-- Queue headers and live sync words at the targets (R259, R311). -/
def remoteWriteCheck (s : State) (x : Issue) (k : Kind) (fn : AccFn) (ok : List (LaneAt × Nat)) : Option TrapInfo :=
  if k.write then ok.findSome? fun l => writeCheck s x.g.core fn true l.1 else none

/-- PEER: bits of the pair's second register that must be 0, or a module not in the fabric (R216). -/
def peerCheck (s : State) (x : Issue) (f : RmForm) (mask write : Bool) (lanes : List Nat) : Option TrapInfo :=
  let bad (L : Nat) : Bool :=
    let v := peerWord x f L
    if mask then 2 ^ 16 ≤ v || (List.range 16).any fun n => v / 2 ^ n % 2 = 1 && !s.inFabric n
    else 16 ≤ v || !s.inFabric v
  (lanes.find? bad).map fun L =>
    { kind := .peer, lane := some L, addr := remoteEa x f L, write := write, peer := peerWord x f L % 16 }

/-- Packets an instruction would send to a target: at most one for each of its lanes. -/
def packetsTo (ok : List (LaneAt × Nat)) (target : Nat) : Nat := (ok.filter fun l => l.2 = target).length

/-- Must the instruction wait at issue: an acquire of the group under way, bytes of a pending log entry of its own at the
same target, an earlier request of its own for a line, a touched copy that has still to read the bytes, entries of the
core that wait for the target (R188, R202, R221, R243)? -/
def remoteWaits (s : State) (x : Issue) (k : Kind) (ok : List (LaneAt × Nat)) : Bool :=
  x.g.txns.any (fun t => t.acquire.isSome && x.sp.passTxn != some t.id) ||
  ok.any fun l =>
    (s.log.any fun e => e.core == x.g.core &&
      ((e.slot == x.g.slot && (if e.remote then e.peer else x.m) == l.2 &&
        e.lanes.any fun b => l.1.op.ea < b.va.toNat + e.size && b.va.toNat < l.1.op.ea + k.size) ||
       (e.remote && e.peer == l.2 && e.zo && !cutOff s x.m l.2))) ||
    l.1.pieces.any fun p => match p.place with
      | .glob ga _ => earlierReq s x (ga / 128) || copyHoldsAt s x.g.core x.g.slot ga p.size
      | _ => false

/-- Does a stream's retransmission buffer lack room for the instruction's packets (R274)? -/
def streamFull (s : State) (x : Issue) (ok : List (LaneAt × Nat)) : Bool :=
  ok.any fun l => streamRoom s x.g.core l.2 < packetsTo ok l.2

/-! ## Sending -/

/-- The accesses of lanes at their target as one packet carries them, each lane under a tag. -/
def lanesPacket (s : State) (x : Issue) (o : RemOp) (ls : List (LaneAt × Nat)) (txn : Option Nat) : Packet :=
  let accs : List LaneAcc := ls.flatMap fun l => l.1.pieces.filterMap fun p => match p.place with
    | .glob ga _ => some ⟨l.2, ga, p.size, p.off, l.1.op.data >>> (8 * p.off), l.1.op.extra, l.1.op.ea + p.off⟩
    | _ => none
  let og : Origin := (ls.findSome? fun l => l.1.pieces.findSome? fun p => match p.place with
    | .glob _ pg => some (originOf s x.t.tctx pg)
    | _ => none).getD .hw
  ⟨0, 0, x.g.slot, txn, o.fn, accs, x.cur.word, og.vf, og.domain, og.pol, s.nextId,
    ls.map fun l => ⟨l.1.op.lane, BitVec.ofNat 56 l.1.op.ea, l.1.op.extra ++ l.1.op.data⟩⟩

/-- Send lanes to a peer in one packet, if any byte of theirs lies in memory. -/
def sendLanes (s : State) (x : Issue) (o : RemOp) (ls : List (LaneAt × Nat)) (peer : Nat) (txn : Option Nat) : State × Nat :=
  let p := lanesPacket s x o ls txn
  if p.accs.isEmpty then (s, 0) else (sendPacket s x.g.core peer p, 1)

/-- The value a lane has before any reply: bytes of an application-die window are free (log 4). -/
def windowValue (s : State) (l : LaneAt) : DWord :=
  l.pieces.foldl (fun v p => match p.place with
    | .window _ => v ||| (((Config.freeWord (s.freeCount + l.op.lane)).extractLsb' (8 * p.off) 64 &&& (BitVec.allOnes 64 >>> (64 - 8 * p.size))) <<< (8 * p.off))
    | _ => v) 0

/-- A lane as the split keeps it while its instruction has passes to come (R153, R216). -/
def RLane.keep (e : RLane) : RemLane := ⟨e.1.lane, e.1.ea, e.2, e.1.data, e.1.extra⟩
/-- See `RLane.keep`. -/
def RemLane.lane_ (r : RemLane) : RLane := (⟨r.lane, r.ea, r.data, r.extra⟩, r.peer)

/-- The access of the split's pass under way, or of the one whose replies have just been taken. -/
def passOf (x : Issue) : Option Txn := x.sp.passTxn.bind fun id => x.g.txns.find? fun t => t.id == id

/-- Start a pass of a returning form: its packets leave in ascending order of lanes, the split waits for the replies and
keeps the lanes it issued with; the lanes that later instructions have written since stay theirs (R129, R153, R216). -/
def startPass (s : State) (x : Issue) (o : RemOp) (f : RmForm) (regs : Nat) (acq : Option Nat) (all : List RLane)
    (parts : List (Nat × List (LaneAt × Nat))) : Res :=
  let id := s.nextId
  let vals := parts.flatMap fun p => p.2.map fun l => (l.2, windowValue s l.1)
  let s := { s with nextId := id + 1, freeCount := s.freeCount + 64 }
  let (s, n) := parts.foldl (fun (acc : State × Nat) p =>
    let (s, k) := sendLanes acc.1 x o p.2 p.1 (some id)
    (s, acc.2 + k)) (s, 0)
  let t : Txn := ⟨id, x.active, .lanes f.d.toNat regs, f.n, vals, n, ((passOf x).map (·.dead)).getD [], acq⟩
  let s := s.modGroup x.g.core x.g.slot fun g =>
    { g with txns := g.txns.filter (fun y => x.sp.passTxn != some y.id) ++ [t] }
  .began (modSplit s x fun p => { p with passTxn := some id, rem := some (all.map RLane.keep) })

/-- Page faults at a target: the group is held, the fault belongs to the issuing module (R198, R216). -/
def holdRemote (s : State) (x : Issue) (write : Bool) (fs : List (LaneOp × Nat × PageFault)) : Res :=
  holdFaults s x write (fs.map fun f => (f.1, f.2.2))

/-- UNREACH at a peer that has been lost (R218). -/
def remoteUnreach (s : State) (x : Issue) (o : RemOp) (pass : Nat) (ls : List RLane) : Option TrapInfo :=
  (ls.find? fun e => cutOff s x.m e.2).map fun e =>
    { kind := .unreach, lane := some e.1.lane, addr := e.1.ea, write := o.fn.writes, peer := e.2, zo := o.ordered, pass := pass }

/-! ## Value-returning forms -/

/-- The lanes of a form as its registers give them, D+1 beside D for `rcas` alone, of passes from the split's resume point on
(R216, R272). -/
def formLanes (x : Issue) (f : RmForm) (o : RemOp) : List RLane :=
  (x.liveLanes.filter fun L => x.sp.resume ≤ peerWord x f L).map fun L =>
    let v := laneData x f.d L
    (⟨L, remoteEa x f L, if o.size = 8 then v else (v.setWidth 32).setWidth 64,
      if o.fn = .atomic 10 then v >>> 32 else 0⟩, peerWord x f L)

/-- The lanes a split issued with, once it has (R153, R216). -/
def issuedLanes (x : Issue) (now : List RLane) : List RLane :=
  match x.sp.rem with
  | some r => r.map RemLane.lane_
  | none => now

/-- The lanes of those whose reply is still to come. -/
def lanesLeft (ls : List RLane) (got : List (Nat × DWord)) : List RLane := ls.filter fun e => !got.any fun v => v.1 = e.1.lane

/-- Write the replies an access brought to the lanes of D that no later instruction has written, or to the latch alone
(R129, R216). -/
def writeReplies (g : Group) (f : RmForm) (regs : Nat) (t : Txn) (got : List (Nat × DWord)) : Group :=
  if f.n then g
  else (List.range regs).foldl (fun (g : Group) j =>
    g.landLane t.id (f.d.toNat + j) (({ t with lanes := got } : Txn).alive j) fun L =>
      ((lookupNat L got).getD 0).extractLsb' (32 * j) 32) g

/-- The latch of the final execution: D over all lanes; what a lane performed before a trap returned to a latch alone is
free (R216; log 4). -/
def finalLatch (s : State) (x : Issue) (g : Group) (f : RmForm) (got : List (Nat × DWord)) : Latch :=
  ⟨some ((List.range g.width).map fun L => match lookupNat L got with
    | some v => v.setWidth 32
    | none => if f.n then (if x.live.getLsbD L then (Config.freeWord (s.freeCount + L)).extractLsb' 0 32 else 0) else laneReg x.t g f.d.toNat L),
    f.d.toNat, f.n, false, none, if f.n then [] else owedOf g f.d.toNat (~~~maskOf (got.map (·.1)))⟩

/-- The instruction is done: its replies are written and an acquire takes effect (R216, R219). -/
def remoteDone (s : State) (x : Issue) (f : RmForm) (o : RemOp) (g : Group) (got : List (Nat × DWord)) : Res :=
  let l := finalLatch s x g f got
  let s := if x.sp.resume = 0 then s else { s with freeCount := s.freeCount + 64 }
  let s := finish s x f.sp g l
  if o.ordered then
    let (sc, s) := capScope s x 5
    .done (acquireDo s x.g.core x.t.vf sc)
  else .done s

/-- The pass to the lowest peer among the lanes left: the checks at the targets, its waits, its packets. PEER comes after
every check of R197, and before the instruction's other checks (R216, R330). -/
def nextPass (s : State) (x : Issue) (f : RmForm) (o : RemOp) (regs : Nat) (acq : Option Nat) (all ls : List RLane) : Res :=
  let k := remKind o
  let first := ls.foldl (fun m e => min m e.2) 16
  let pass := if x.sp.resume = 0 && x.sp.got.isEmpty then 0 else first
  match remoteFind s x k ls with
  | .error t => .trap (t.forPeer ls pass)
  | .ok fd => match (if x.sp.rem.isSome then none else peerCheck s x f false o.fn.writes (ls.map (·.1.lane))) with
    | some t => .trap { t with pass := x.sp.resume }
    | none => match remoteWriteCheck s x k o.fn fd.ok with
      | some t => .trap (t.forPeer ls pass)
      | none =>
        if !fd.faults.isEmpty then match holdRemote s x k.write fd.faults with
          | .trap t => .trap (t.forPeer ls pass)
          | r => r
        else match (fd.ok.findSome? fun l => poisonCheck s k.write l.1) with
        | some t => .trap (t.forPeer ls pass)
        | none => match remoteUnreach s x o pass (ls.filter fun e => e.2 = first) with
          | some t => .trap t
          | none =>
            let ok := fd.ok.filter fun l => l.2 = first
            if remoteWaits s x k ok then .wait
            else if streamFull s x ok then .pause s
            else startPass s x o f regs acq all (ok.map fun l => (l.2, [(l.1, l.1.op.lane)]))

/-- UNREACH for the lanes of a pass whose access is gone: its target was lost (R218). -/
def passLost (o : RemOp) (ls : List RLane) : TrapInfo :=
  let first := ls.foldl (fun m e => min m e.2) 16
  let op := ls.find? fun e => e.2 = first
  { kind := .unreach, lane := some ((op.map (·.1.lane)).getD 0), addr := (op.map (·.1.ea)).getD 0, write := o.fn.writes,
    peer := first, zo := o.ordered, pass := first }

/-- A form's first execution: every lane's address is checked, an ordered form waits for its release (R197, R216, R219). -/
def remoteStart (s : State) (x : Issue) (f : RmForm) (o : RemOp) (regs : Nat) : Res :=
  let a := addrReg x.g f.ar.toNat
  let ls := formLanes x f o
  match firstFailure o.fn.writes (ls.filterMap fun e => (remAddrCheck x a (remKind o) o.fn e.1.ea).map fun c => (c.1, e.1, c.2, 0)) with
  | some t => .trap (t.forPeer ls x.sp.resume)
  | none =>
    if ls.isEmpty then remoteDone s x f o x.g x.sp.got
    else
      let (sc, s) := if o.ordered then capScope s x 5 else (0, s)
      if o.ordered && !releaseReady s x.g sc then .held s
      else
        let s := if o.ordered then releaseDo s x.g.core x.g.slot sc else s
        match nextPass s x f o regs (if o.ordered then some sc else none) ls ls with
        | .wait => .held s
        | r => r

/-- A returning form (R215, R216): the first execution checks every lane; each later one takes up the replies of a pass or
starts the next, and the last writes the result. -/
def remoteGet (o : RemOp) (regs : Nat) (data : Nat) (f : RmForm) (s : State) : Out :=
  withOps s f.sp { lr := [pairReg f, pairReg f + 1] ++ regSpan f.d data, lw := if f.n then [] else regSpan f.d regs } fun s x =>
    match x.sp.passTxn with
    | none => remoteStart s x f o regs
    | some id =>
      let all := issuedLanes x []
      let ls := lanesLeft all x.sp.got
      match passOf x with
      | none => .trap (passLost o ls)
      | some t =>
        if 0 < t.out then .wait
        else if t.lanes.isEmpty then nextPass s x f o regs t.acquire all ls
        else
          let got := x.sp.got ++ t.lanes
          let g := writeReplies x.g f regs t t.lanes
          if (lanesLeft all got).isEmpty then remoteDone s x f o { g with txns := g.txns.filter fun y => y.id ≠ id } got
          else
            let g := { g with txns := mapWhere (fun y => y.id == id) (fun y => { y with lanes := [] }) g.txns }
            .held (modSplit (s.setGroup g) x fun p => { p with got := got })

/-- `rldw` (Table Memory Instructions 8). -/
def execRldw (f : RmForm) (s : State) : Out := remoteGet ⟨.read, 4, true, false⟩ 1 0 f s
/-- `rldd` (Table Memory Instructions 8). -/
def execRldd (f : RmForm) (s : State) : Out := remoteGet ⟨.read, 8, true, false⟩ 2 0 f s
/-- `rcas` (Table Memory Instructions 8, R219). -/
def execRcas (f : RmForm) (s : State) : Out := remoteGet ⟨.atomic 10, 4, true, true⟩ 1 2 f s
/-- `rxchg` (Table Memory Instructions 8, R219). -/
def execRxchg (f : RmForm) (s : State) : Out := remoteGet ⟨.atomic 9, 4, true, true⟩ 1 1 f s

/-! ## Pull reductions (R217) -/

/-- Members of a lane's mask, ascending. -/
def membersOf (v : Nat) : List Nat := (List.range 16).filter fun n => v / 2 ^ n % 2 = 1

/-- A lane and a member as one tag of a returned part. -/
def memberTag (L n : Nat) : Nat := n * 64 + L

/-- The bits of a float with a NaN made canonical (R102). -/
def canonBits (f : Fmt) (w : Nat) : Nat :=
  match decodeF f w with
  | .nan _ => f.nanBits
  | _ => w

/-- A word as a reduction delivers it: every NaN in it canonical (R102). -/
def canonWord (half : Bool) (w : Word) : Word :=
  let h (i : Nat) : BitVec 16 := BitVec.ofNat 16 (canonBits Fmt.bf16 (w.extractLsb' (16 * i) 16).toNat)
  if half then h 1 ++ h 0 else BitVec.ofNat 32 (canonBits Fmt.f32 w.toNat)

/-- The fold of a lane's words, the first member's first (R102, R119, R217). -/
def foldMembers (half : Bool) : List Word → Word
  | [] => 0
  | w :: ws => ws.foldl (fun a b => if half then (bfAdd2 .rne a b).1 else (f32Add homeEnv a b).1) (canonWord half w)

/-- The sum of each lane once every member's word is there. -/
def redSums (x : Issue) (half : Bool) (got : List (Nat × DWord)) : List (Nat × DWord) :=
  x.liveLanes.map fun L => (L, (foldMembers half ((List.range 16).filterMap fun n =>
    (lookupNat (memberTag L n) got).map fun w => w.setWidth 32)).setWidth 64)

/-- The lanes of a reduction, one for each member of each lane's mask. -/
def memberLanes (x : Issue) (f : RmForm) : List RLane :=
  x.liveLanes.flatMap fun L => (membersOf (peerWord x f L)).map fun n => (⟨L, remoteEa x f L, 0, 0⟩, n)

/-- The fetches of a reduction: lanes whose addresses share a line and a mask share one fetch from each member (R217). -/
def sharedFetches (x : Issue) (f : RmForm) (ok : List (LaneAt × Nat)) : List (Nat × List (LaneAt × Nat)) :=
  let key (l : LaneAt × Nat) : Nat × Nat × Nat := (l.2, l.1.op.ea % 2 ^ 56 / 128, peerWord x f l.1.op.lane)
  let keys := ok.foldl (fun (acc : List (Nat × Nat × Nat)) l => if acc.contains (key l) then acc else acc ++ [key l]) []
  keys.map fun k => (k.1, (ok.filter fun l => key l = k).map fun l => (l.1, memberTag l.1.op.lane l.2))

/-- The sums of a reduction are written and the instruction is done. -/
def redDone (s : State) (x : Issue) (f : RmForm) (o : RemOp) (half : Bool) (g : Group) (t : Txn) (got : List (Nat × DWord)) : Res :=
  let sums := redSums x half got
  remoteDone s x f o (writeReplies g f 1 t sums) sums

/-- A reduction's first execution: the checks over every lane and member, then its fetches. -/
def redStart (s : State) (x : Issue) (f : RmForm) (o : RemOp) (half : Bool) : Res :=
  let a := addrReg x.g f.ar.toNat
  let k := remKind o
  let ls := memberLanes x f
  match firstFailure false (x.liveLanes.filterMap fun L => (addrCheck x a k (remoteEa x f L)).map fun c =>
      (c.1, (⟨L, remoteEa x f L, 0, 0⟩ : LaneOp), c.2, 0)) with
  | some t => .trap t
  | none => match remoteFind s x k ls with
    | .error t => .trap (t.forPeer ls 0)
    | .ok fd => match peerCheck s x f true false x.liveLanes with
      | some t => .trap t
      | none =>
        if ls.isEmpty then redDone s x f o half x.g ⟨s.nextId, 0, .lanes f.d.toNat 1, f.n, [], 0, [], none⟩ []
        else if !fd.faults.isEmpty then holdRemote s x false fd.faults
        else match (fd.ok.findSome? fun l => poisonCheck s false l.1), remoteUnreach s x o 0 ls with
          | some t, _ => .trap (t.forPeer ls 0)
          | none, some t => .trap t
          | none, none =>
            if remoteWaits s x k fd.ok then .wait
            else if streamFull s x fd.ok then .pause s
            else startPass s x o f 1 none ls (sharedFetches x f fd.ok)

/-- A pull reduction: one pass over every lane and member. -/
def pullReduce (half : Bool) (f : RmForm) (s : State) : Out :=
  let o : RemOp := ⟨.read, 4, true, false⟩
  withOps s f.sp { lr := [pairReg f, pairReg f + 1], lw := if f.n then [] else regSpan f.d 1 } fun s x =>
    match x.sp.passTxn with
    | none => redStart s x f o half
    | some id => match passOf x with
      | none =>
        let ls := issuedLanes x []
        .trap { passLost o (match ls.filter fun e => cutOff s x.m e.2 with | [] => ls | l => l) with pass := 0 }
      | some t =>
        if 0 < t.out then .wait
        else redDone s x f o half { x.g with txns := x.g.txns.filter fun y => y.id ≠ id } t t.lanes

/-- `rredf` (R217). -/
def execRredf (f : RmForm) (s : State) : Out := pullReduce false f s
/-- `rredh` (R217). -/
def execRredh (f : RmForm) (s : State) : Out := pullReduce true f s

/-! ## Forms that return nothing -/

/-- Enter the lanes of each faulting page at each peer into the side log (R198, R216). -/
def logRemoteFaults (s : State) (x : Issue) (k : Kind) (fn : AccFn) (fs : List (LaneOp × Nat × PageFault)) : State :=
  let keys := fs.foldl (fun (acc : List (Nat × PageFault)) f =>
    if acc.any fun e => e.1 = f.2.1 && e.2.page = f.2.2.page then acc else acc ++ [f.2]) []
  keys.foldl (fun s e =>
    let ls := logLanes ((fs.filter fun f => f.2.1 = e.1).map fun f => (f.1, f.2.2)) e.2.page
    let (s, dead) := raisePageFault s x.t.tctx x.m x.t.node e.2 5 x.g.core x.g.slot
    if dead then lossRecord s x.m x.t.node (e.2.page * 65536) 0 1 x.g.core ls.length
    else logEntry s x k.size fn (oscOf x.g) e.1 true false 1 (s.stream x.g.core e.1).epo e.2.page ls) s

/-- Enter the lanes to peers that have been lost into the side log, as performed zero or one times (R218). -/
def logRemoteLost (s : State) (x : Issue) (k : Kind) (fn : AccFn) (ls : List (LaneAt × Nat)) : State :=
  let keys := ls.foldl (fun (acc : List (Nat × Nat)) l =>
    let e := (l.2, l.1.op.ea % 2 ^ 56 / 65536)
    if acc.contains e then acc else acc ++ [e]) []
  keys.foldl (fun s e =>
    let here := ls.filter fun l => l.2 = e.1 && l.1.op.ea % 2 ^ 56 / 65536 = e.2
    logEntry s x k.size fn (oscOf x.g) e.1 true true 3 (s.stream x.g.core e.1).epo e.2
      (here.map fun l => ⟨l.1.op.lane, BitVec.ofNat 56 l.1.op.ea, l.1.op.extra ++ l.1.op.data⟩)) s

/-- A form that returns nothing: every lane's packet leaves, pass by pass, and the group runs on (R216, R218). -/
def remotePut (o : RemOp) (data : Nat) (f : RmForm) (s : State) : Out :=
  withOps s f.sp { lr := [pairReg f, pairReg f + 1] ++ regSpan f.d data } fun s x =>
    let a := addrReg x.g f.ar.toNat
    let k := remKind o
    let ls := formLanes x f o
    match firstFailure true (ls.filterMap fun e => (remAddrCheck x a k o.fn e.1.ea).map fun c => (c.1, e.1, c.2, 0)) with
    | some t => .trap (t.forPeer ls 0)
    | none => match remoteFind s x k ls with
      | .error t => .trap (t.forPeer ls 0)
      | .ok fd => match (peerCheck s x f false true x.liveLanes).orElse fun _ =>
          (remoteWriteCheck s x k o.fn fd.ok).map fun t => t.forPeer ls 0 with
        | some t => .trap t
        | none =>
          let lost := fd.ok.filter fun l => cutOff s x.m l.2
          let ok := fd.ok.filter fun l => !cutOff s x.m l.2
          if remoteWaits s x k fd.ok then .wait
          else if streamFull s x ok || (0 < fd.faults.length + lost.length && logRoom s x.g.core < fd.faults.length + lost.length) then .pause s
          else
            let s := (List.range 16).foldl (fun s p => (ok.filter fun l => l.2 = p).foldl (fun s l =>
              (sendLanes s x o [(l.1, l.1.op.lane)] l.2 none).1) s) s
            let s := logRemoteFaults s x k o.fn fd.faults
            let s := logRemoteLost s x k o.fn lost
            .done (finishPlain s x f.sp x.g)

/-- `rstw` (Table Memory Instructions 8). -/
def execRstw (f : RmForm) (s : State) : Out := remotePut ⟨.write, 4, false, false⟩ 1 f s
/-- `rstd` (Table Memory Instructions 8). -/
def execRstd (f : RmForm) (s : State) : Out := remotePut ⟨.write, 8, false, false⟩ 2 f s
/-- `raddi` (Table Memory Instructions 8). -/
def execRaddi (f : RmForm) (s : State) : Out := remotePut ⟨.atomic 0, 4, false, false⟩ 1 f s
/-- `raddf` (Table Memory Instructions 8). -/
def execRaddf (f : RmForm) (s : State) : Out := remotePut ⟨.atomic 11, 4, false, false⟩ 1 f s
/-- `rmaxf` (Table Memory Instructions 8). -/
def execRmaxf (f : RmForm) (s : State) : Out := remotePut ⟨.atomic 13, 4, false, false⟩ 1 f s

end Sys2Proof.Machine
end

