-- ==== Sys2Proof/Machine/Links.lean ====
section
/-!
DEFINITION. Page faults resolved (21_faults_and_recovery.md R334, R335), side-log replay (15_queues.md R273), the Orgor
links and what a lost path does to copies, requests and streams (12 R244 to R246; 23 R350, R351; 10 R218).
-/
namespace Sys2Proof.Machine

/-! ## Side log -/

/-- Replace an entry by `f` of it. -/
def State.modLog (s : State) (e : LogEntry) (f : LogEntry → LogEntry) : State :=
  { s with log := mapWhere (fun x => x.core == e.core && x.seq == e.seq) f s.log }

/-- Does the loss record of an entry still wait at a full supervisor queue (R265)? -/
def lossWaits (s : State) (e : LogEntry) : Bool :=
  s.queues.any fun q => q.m == coreMod e.core && q.waiting.any fun r =>
    r.bytes.take 2 == leBytes 2 4 && (r.bytes.drop 16).take 4 == leBytes 4 (e.seq % 2 ^ 32) &&
    (r.bytes.drop 24).take 4 == leBytes 4 (e.core % 4096 + e.lanes.length * 65536)

/-- Entries discarded whose loss has been reported are gone; until then a release of their group waits for them, though
they hold no place and bar no later entry (R335). -/
def settleLosses (s : State) : State := { s with log := s.log.filter fun e => !e.loss || lossWaits s e }

/-- Discard an entry: it takes `LOSS` and its loss is reported (R335). -/
def discardEntry (s : State) (e : LogEntry) (cause : Nat) : State :=
  let s := reportLoss s e.core e.slot (((e.lanes.head?).map (·.va.toNat)).getD 0) e.seq cause e.lanes.length
  settleLosses (s.modLog e fun e => { e with loss := true })

/-- A lane of an entry found: pieces of its bytes with their pages, or the page that faults. -/
def logPieces (s : State) (e : LogEntry) (l : LogLane) : Except PageFault (List Piece) :=
  (cutLines l.va.toNat e.size).foldl (fun acc c => match acc with
    | .error f => .error f
    | .ok ps => match translate s e.tctx .write c.1 with
      | .error f => .error f
      | .ok p => .ok (ps ++ [⟨placeOf c.1 p, c.2.1, c.2.2⟩])) (.ok [])

/-- The first page fault of an entry's lanes. -/
def logFault (s : State) (e : LogEntry) : Option PageFault :=
  e.lanes.findSome? fun l => match logPieces s e l with | .error f => some f | .ok _ => none

/-- The pieces of an entry, each with its lane. -/
def entryPieces (s : State) (e : LogEntry) : List (LogLane × Piece) :=
  e.lanes.flatMap fun l => match logPieces s e l with | .ok ps => ps.map fun p => (l, p) | .error _ => []

/-- Is a logged instruction word sequentially consistent (R83, R84, R205, R273)? Majors 0x2C to 0x33 are lane loads and stores
with `POL` and `ORD`, 0x36 the sequentially consistent atomics. -/
def insSc (w : BitVec 32) : Bool :=
  let maj := (w.extractLsb' 2 6).toNat
  maj = 0x36 || (0x2C ≤ maj && maj < 0x34 && w.extractLsb' 27 2 ≠ 2 && w.extractLsb' 29 3 = 3)

/-- The bytes of memory a piece of an entry writes: its own, or those of the sketch state it updates. -/
def pieceSpans (s : State) (e : LogEntry) (lp : LogLane × Piece) : List (Nat × Nat) :=
  match lp.2.place with
  | .glob ga _ => [(ga, lp.2.size)]
  | .sketch va p => match skBase s e.tctx.m e.vf p.skd with
    | some (desc, base) =>
      let d : DWord := lp.1.data.extractLsb' 0 64
      match e.fn with
      | .skDel => desc.updSpans base d (lp.1.data.extractLsb' 64 64).toNat 0
      | .skIns => desc.updSpans base d (lp.1.data.extractLsb' 64 64).toNat (d.setWidth 32)
      | _ => desc.updSpans base (BitVec.ofNat 64 (sketchSlot s e.tctx p.skd va)) (d.toNat % 2 ^ 32) (d.setWidth 32)
    | none => []
  | _ => []

/-- Perform one piece of an entry at its home. A replay takes `WTAG` 01 whatever its instruction's policy (R257). -/
def replayPiece (s : State) (e : LogEntry) (lp : LogLane × Piece) : State :=
  let l := lp.1
  let d : DWord := l.data.extractLsb' 0 64
  let extra : DWord := l.data.extractLsb' 64 64
  match lp.2.place with
  | .glob ga p =>
    let o := originOf s e.tctx p
    let line := ga / 128
    let sc := insSc e.ins
    let s := quiesce s o line true
    if e.fn = .cinc then (cincAt o s ga d).1
    else
    let s := (homeApply s ⟨0, .sideLog e.core, e.core, e.vf, line, .homeWrite false, e.fn,
      [⟨l.lane, ga, lp.2.size, lp.2.off, d >>> (8 * lp.2.off), extra, l.va.toNat + lp.2.off⟩], none, sc, 1, o.domain, o.pol, false, none⟩).1
    if sc then takeLts s e.core line else s
  | .sketch va p => match skBase s e.tctx.m e.vf p.skd with
    | some (desc, base) =>
      match e.fn with
      | .skDel => skDelete s desc base d extra.toNat
      | .skIns => skInsert s desc base d extra.toNat (d.setWidth 32)
      | _ => lineLts (skInsert s desc base (BitVec.ofNat 64 (sketchSlot s e.tctx p.skd va)) (d.toNat % 2 ^ 32) (d.setWidth 32))
        (insSc e.ins) e.core (spanLines (pieceSpans s e lp))
    | none => s
  | _ => s

/-- Has the group of an entry an access to a line that came before the entry and is still under way (R221)? -/
def earlierAccess (s : State) (e : LogEntry) (line : Nat) : Bool :=
  (s.reqs.any fun r => r.agent == .group e.core e.slot && r.line == line && r.id < e.born) ||
  s.streams.any fun st => st.core == e.core && (st.buffer ++ st.flight).any fun p =>
    p.slot == e.slot && p.born < e.born && p.accs.any fun a => a.ga / 128 == line

/-- One half of each word an entry's `add2h` updates (R250). -/
def LogEntry.half (h : Nat) (e : LogEntry) : LogEntry :=
  { e with
    fn := .atomic 16
    size := 2
    lanes := e.lanes.map fun l => { l with va := l.va + BitVec.ofNat 56 (2 * h), data := l.data >>> (16 * h) } }

/-- The half of an entry's `add2h` that is still to be performed waits at its homes as requests of its group (R250). -/
def halfReqs (s : State) (e : LogEntry) : State :=
  let ps := entryPieces s e
  (spanLines (ps.flatMap (pieceSpans s e))).foldl (fun s line =>
    let here := ps.filterMap fun lp => match lp.2.place with
      | .glob ga p => if ga / 128 = line then
          some ((⟨lp.1.lane, ga, lp.2.size, lp.2.off, lp.1.data.extractLsb' 0 64, 0, lp.1.va.toNat⟩ : LaneAcc), originOf s e.tctx p) else none
      | _ => none
    let o : Origin := ((here.head?).map (·.2)).getD .hw
    { s with
      reqs := s.reqs ++ [⟨s.nextId, .group e.core e.slot, e.core, e.vf, line, .homeWrite false, .atomic 16, here.map (·.1), none,
        insSc e.ins, 1, o.domain, o.pol, false, none⟩]
      nextId := s.nextId + 1 }) s

/-- Perform an entry; with `half`, that half of an `add2h` first (R250, R273). -/
def performEntry (s : State) (e : LogEntry) (half : Option Nat) : State :=
  let whole (e : LogEntry) (s : State) : State := (entryPieces s e).foldl (fun s p => replayPiece s e p) s
  match half with
  | some h => if e.fn = .atomic 12 then halfReqs (whole (e.half (h % 2)) s) (e.half (1 - h % 2)) else whole e s
  | none => whole e s

/-- What the replay of an entry comes to (R218, R273, R311, R334, R335). -/
def replayEntry (s : State) (e : LogEntry) (half : Option Nat) : State :=
  let w := s.window e.core e.peer
  let free (s : State) : State := { s with log := s.log.filter fun x => !(x.core == e.core && x.seq == e.seq) }
  if e.remote && e.zo && e.epo ≠ w.epo then discardEntry s e 2
  else if e.pseq.any (fun q => 2 ^ 31 ≤ seqDiff q w.dseq) then free s
  else match logFault s e with
  | some f =>
    let pr : Pair := ⟨coreMod e.core, e.vf, e.ctx, f.page⟩
    if s.pairs.contains pr then s.modLog e fun e => { e with st := 1, page := f.page }
    else if e.zo || f.page ≠ e.page then
      let node := (((s.group? e.core e.slot).bind fun g => s.team? g.team).map (·.node)).getD 0
      let (s, dead) := raisePageFault s { e.tctx with m := coreMod e.core } (coreMod e.core) node f 5 e.core e.slot
      if dead then discardEntry s e 1 else s.modLog e fun e => { e with st := 1, zo := false, page := f.page }
    else discardEntry s e 1
  | none =>
    let ps := entryPieces s e
    let spans := ps.flatMap (pieceSpans s e)
    let homes := spanLines spans
    if e.fn = .cinc && ps.any (fun p => match p.2.place with | .glob ga _ => lookupNat (ga / 8) s.sync ≠ some .counter | _ => true) then
      discardEntry s e 2
    else if e.fn ≠ .cinc && spans.any (fun p => hitsSync s p.1 p.2) then discardEntry s e 5
    else match homes.find? fun l => cutOff s (coreMod e.core) (lineMod l) with
    | some l => s.modLog e fun e => { e with st := 3, zo := true, peer := if e.remote then e.peer else lineMod l }
    | none =>
      if homes.any fun l => noPath s (coreMod e.core) (lineMod l) || earlierAccess s e l then s
      else if homes.any fun l => homeWaits s l true || tableBusy s l e.born then openRounds s homes
      else
        let s := performEntry s e half
        let s := match e.pseq with
          | some q => s.setWindow { s.window e.core e.peer with dseq := (q + 1) % 2 ^ 32 }
          | none => s
        free s

/-- SIDE_LOG_REPLAY (R250, R273): the oldest entry of core `a` replays, when its page is mapped or its target reached; with `up`,
half `c` of an `add2h` first. -/
def execSideLogReplay (s : State) : Out :=
  match s.log.find? fun e => e.core == s.ev.a && !e.loss with
  | none => .next s
  | some e => .next (if e.st = 2 then replayEntry s e (if s.ev.up then some s.ev.c else none) else s)

/-! ## PFRES (R334) -/

/-- Resolve a fault pair of a module: mapped, or unmappable when `dead`. -/
def resolvePair (s : State) (pr : Pair) (dead : Bool) : State :=
  let mine (g : Group) : Bool := coreMod g.core == pr.m && g.heldPages.contains pr.page &&
    match s.team? g.team with | some t => t.vf == pr.vf && t.ctx == pr.ctx | none => false
  let fix (g : Group) : Group := { g with
    heldPages := g.heldPages.filter fun p => p ≠ pr.page
    failedPages := if dead then pr.page :: g.failedPages else g.failedPages
    retried := if dead then g.retried else pr.page :: g.retried }
  let groups := mapWhere mine fix s.groups
  let copies := mapWhere (fun (c : Copy) => coreMod c.core == pr.m && c.vf == pr.vf && c.ctx == pr.ctx && c.held.contains pr.page)
    (fun c => { c with
      held := c.held.filter fun p => p ≠ pr.page
      failed := if dead then pr.page :: c.failed else c.failed
      retried := if dead then c.retried else pr.page :: c.retried }) s.copies
  let runs := mapWhere (fun (r : CRun) => r.die / 4 == pr.m && r.vf == pr.vf && r.ctx == pr.ctx && r.states.contains (.held pr.page))
    (fun r =>
      let held := (List.range r.states.length).filterMap fun i => if r.states[i]? = some (.held pr.page) then some (i, pr.page) else none
      { r with
      failed := if dead then held ++ r.failed else r.failed
      retried := if dead then r.retried else held ++ r.retried
      states := r.states.map fun c => match c with | .held p => if p = pr.page then .started else c | _ => c }) s.runs
  let hit (e : LogEntry) : Bool := coreMod e.core == pr.m && e.vf == pr.vf && e.ctx == pr.ctx && e.page == pr.page && e.st = 1 && !e.loss
  let s := { s with pairs := s.pairs.filter (fun p => p ≠ pr), groups := groups, copies := copies, runs := runs }
  if dead then (s.log.filter hit).foldl (fun s e => discardEntry s e 1) s
  else { s with log := mapWhere hit (fun e => { e with st := 2 }) s.log }

/-- The pair and `U` of a value of `PFRES` for a virtual function on a module (Table Faults 5). -/
def pfresPair (m vf : Nat) (v : DWord) : Pair := ⟨m, vf, (v.extractLsb' 4 12).toNat, (v.extractLsb' 16 40).toNat⟩

/-! ## Ports and paths (R350, R351) -/

/-- Ports of a module that are up to a peer. -/
def portUp (s : State) (a b : Nat) : Bool := (s.mod a).ports.any fun p => p.st = 3 && p.peer == b

/-- Is there a path between two modules: a port that is up, or a detour through a third module (R244)? -/
def pathExists (s : State) (a b : Nat) : Bool :=
  portUp s a b || s.modules.any fun c => c.num != a && c.num != b && portUp s a c.num && portUp s c.num b

/-- Replace port `i` of module `m` by `f` of it. -/
def State.modPort (s : State) (m i : Nat) (f : Port → Port) : State :=
  s.modMod m fun x => { x with ports := x.ports.mapIdx fun j p => if j = i then f p else p }

/-- `DET` of every port: set where no port of its group is up and a detour carries the stream (R351). -/
def setDetours (s : State) : State :=
  { s with modules := s.modules.map fun x => { x with ports := x.ports.map fun p =>
      { p with det := p.st ≠ 0 && !portUp s x.num p.peer && pathExists s x.num p.peer } } }

/-- The ordered pairs of modules between which the last path has just been lost start their count (R245). -/
def noteLostPaths (s : State) : State :=
  let ns := s.modules.map (·.num)
  let lost := ns.flatMap fun a => ns.filterMap fun b =>
    if a ≠ b && !pathExists s a b && !(s.nopath.any fun p => p.m == a && p.h == b) then some (⟨a, b, s.cyc, false⟩ : NoPath) else none
  { s with nopath := s.nopath ++ lost }

/-- Packets without a custody acknowledgement are sent again (R244). -/
def Stream.resend (x : Stream) : Stream :=
  { x with flight := x.flight ++ x.buffer.filter fun p => !x.flight.any fun q => q.seq = p.seq }

/-- A port's own end and the far end, changed alike. -/
def bothEnds (s : State) (m i : Nat) (f : Port → Port) : State :=
  match (s.mod m).ports[i]? with
  | some p => (s.modPort m i f).modPort p.peer p.pport f
  | none => s

/-- LINK_DOWN (R17, R244, R351): the link at port `b` of module `a` is found down and enters training. -/
def execLinkDown (s : State) : Out :=
  match (s.mod s.ev.a).ports[s.ev.b]? with
  | some p =>
    if p.st ≠ 3 then .next s
    else
      let s := bothEnds s s.ev.a s.ev.b fun q => { q with st := 2 }
      let s := { s with streams := s.streams.map fun x =>
        if (coreMod x.core == s.ev.a && x.target == p.peer) || (coreMod x.core == p.peer && x.target == s.ev.a) then x.resend else x }
      .next (noteLostPaths (setDetours s))
  | none => .next s

/-- Record a retirement on a module: kind 1 core, 2 cluster, 3 port (R323, R340). -/
def noteRetire (s : State) (m kind unit : Nat) : State :=
  let s := s.modMod m fun x => { x with
    adv := true, nret := min (x.nret + 1) 255, advKind := BitVec.ofNat 8 kind, advLast := BitVec.ofNat 12 unit
    radvf := x.radvf ||| (1#16 <<< m) }
  s

/-- Retire a port (R340). -/
def retirePort (s : State) (m i : Nat) : State :=
  noteRetire (s.modMod m fun x => { x with rport := x.rport ||| (1#16 <<< i) }) m 3 i

/-- LINK_TRAINING_COMPLETE (R340, R351): the training of port `b` of module `a` ends, `up` or failed; the third
consecutive failure retires the port. -/
def execLinkTrainingComplete (s : State) : Out :=
  let m := s.ev.a
  let i := s.ev.b
  match (s.mod m).ports[i]? with
  | some p =>
    if p.st ≠ 2 then .next s
    else if s.ev.up then .next (setDetours (bothEnds s m i fun q => { q with st := 3, fail := 0 }))
    else if p.fail < 2 then .next (bothEnds s m i fun q => { q with fail := q.fail + 1 })
    else
      let s := bothEnds s m i fun q => { q with st := 4 }
      .next (noteLostPaths (setDetours (retirePort (retirePort s m i) p.peer p.pport)))
  | none => .next s

/-! ## Loss of a home (R245) -/

/-- Bytes of a line under a mask are again what the home holds: the writes were lost before they reached it (R245, R335).
Where no tag says what that is, they are free (log 4, log 23). -/
def loseBytes (s : State) (line : Nat) (mask : BitVec 128) : State :=
  let put (f : Nat → Byte) : List Host.Cell :=
    (List.range 128).foldl (fun m b => if mask.getLsbD b then memWrite m (128 * line + b) (f b) else m) s.mem
  match homeHeld s line with
  | some d => { s with mem := put fun b => d.extractLsb' (8 * b) 8 }
  | none => { s with
      mem := put fun b => (Config.freeWord (s.freeCount + b / 32)).extractLsb' (8 * (b % 32)) 8
      freeCount := s.freeCount + 4 }

/-- Words of a line a byte mask touches. -/
def maskWords (mask : BitVec 128) : Nat := ((List.range 32).filter fun i => mask.extractLsb' (4 * i) 4 ≠ 0).length

/-- The node to whose supervisor a core's loss of a virtual function's bytes is reported: that of the first group of the
function on the core, else the first node of the function (DESIGN CHOICE, log 24). -/
def lossNode (s : State) (core vf : Nat) : Option Nat :=
  (s.groups.findSome? fun g => if g.core == core then (match s.team? g.team with
    | some t => if t.vf == vf then some t.node else none
    | none => none) else none).orElse fun _ =>
  (List.range 1023).find? fun n => (nodeEntry s (coreMod core) n).assigned && (nodeEntry s (coreMod core) n).vf == vf

/-- Report dirty bytes discarded in a core (R335, R245). -/
def reportDirty (s : State) (core vf line words : Nat) : State :=
  match lossNode s core vf with
  | some n => lossRecord s (coreMod core) n (linePa (coreMod core) line) 0 3 core words
  | none => s

/-- A core discards its copy of a line whose home is lost; a partial stays (R245, R246). -/
def discardCopy (s : State) (c : L1Line) : State :=
  let lose (mask : BitVec 128) : State :=
    let s := reportDirty (loseBytes (s.dropL1 c.core c.line) c.line mask) c.core c.vf c.line (maskWords mask)
    let d := s.dirOf c.line
    if d.st = 2 then s.setDir { d with masks := [mask] } else s
  match c.kind with
  | .tracked => s.dropL1 c.core c.line
  | .leased .. => s.dropL1 c.core c.line
  | .owned dirty => if dirty = 0 then s.dropL1 c.core c.line else lose dirty
  | .priv mask => lose mask
  | .part .. => s

/-- LOSS_OF_HOME (R245): 200 µs after the last path from module `a` to home module `b` was lost, the cores of `a` discard
their copies of its lines. -/
def execLossOfHome (s : State) : Out :=
  let m := s.ev.a
  let h := s.ev.b
  match s.nopath.find? fun p => p.m == m && p.h == h with
  | none => .next s
  | some p =>
    if p.applied || s.cyc < p.since + Config.lossClocks then .next s
    else
      let s := { s with nopath := mapWhere (fun q => q.m == m && q.h == h) (fun q => { q with applied := true }) s.nopath }
      let s := (s.l1.filter fun c => c.core < deliveredBase && coreMod c.core == m && lineMod c.line == h).foldl discardCopy s
      .next (s.groups.foldl (fun s g => match g.twi with
        | some t => if coreMod g.core == m && t.lines.any (fun l => lineMod l.line == h) then dropTwilight s g t else s
        | none => s) s)

/-- A holder of a line that has been presumed gone leaves its entry; dirty bytes poison the line, and the content it now has is
installed as poisoned (R181, R245, R341). -/
def presumeGone (s : State) (line core : Nat) : State :=
  let d := s.dirOf line
  let dirty := (match s.l1? core line with | some ⟨_, _, _, .owned k⟩ => k ≠ 0 | _ => false) || (d.st = 2 && !d.masks.isEmpty) || d.st = 4
  let s := s.dropL1 core line
  let s := if dirty then installLine (poisonLine s line) line else s
  if d.st = 4 then
    let rest := (d.ptrs.zip d.masks).filter fun h => h.1 ≠ core
    match rest with
    | [h] => (s.setDir { d.setPtrs [h.1] with st := 2, mix := 0, masks := [] }).putL1
        ⟨h.1, line, ((s.l1? h.1 line).map (·.vf)).getD 0, L1Kind.owned h.2⟩
    | _ => s.setDir { d.setPtrs (rest.map (·.1)) with masks := rest.map (·.2) }
  else s.setDir { d.setPtrs [] with st := 0, masks := [] }

/-- SHARER_PRESUMED_UNREACHABLE (R17, R245): 2 ms after the invalidations of line `a` were sent, its home goes on without
module `b`, which no path reaches and which has discarded its copies. For a line that module owns or holds a part of, the
first such event for which an access waits sends the recall, one 2 ms later presumes. -/
def execSharerPresumedUnreachable (s : State) : Out :=
  let line := s.ev.a
  let m := s.ev.b
  let h := lineMod line
  let d := s.dirOf line
  match s.nopath.find? fun p => p.m == m && p.h == h && p.applied with
  | none => .next s
  | some p =>
  if d.st = 3 then
    if s.cyc < d.sent + Config.presumeClocks then .next s
    else
      let gone (x : Msg) : Bool := match x with
        | .inval t l => l == line && targetMod t == m
        | .ack t l => l == line && targetMod t == m
        | .notice _ _ => false
      let n := (s.msgs.filter gone).length
      .next ((List.range n).foldl (fun s _ => if (s.dirOf line).st = 3 then countAck s line else s)
        { s with msgs := s.msgs.filter fun x => !gone x })
  else if (d.st = 2 || d.st = 4) && d.ptrs.any fun c => coreMod c == m then
    if d.sent < p.since then .next (if s.reqs.any fun r => r.line == line then s.setDir { d with sent := s.cyc } else s)
    else if s.cyc < d.sent + Config.presumeClocks then .next s
    else .next ((d.ptrs.filter fun c => coreMod c == m).foldl (fun s c => presumeGone s line c) s)
  else .next s

/-- REMOTE_UNREACHABLE (R218): 200 µs without a path from core `a` to module `b`: its undelivered packets retire, those
that return nothing (a remote `cinc` among them, R314) to the side log as performed zero or one times, the others so that
their instruction raises UNREACH. A full side log takes no more for now. -/
def execRemoteUnreachable (s : State) : Out :=
  let core := s.ev.a
  let target := s.ev.b
  if !cutOff s (coreMod core) target then .next s
  else
    .next ((s.stream core target).flight.foldl (fun s p =>
      let gone (s : State) : State := s.setStream ((s.stream core target).drop p.seq)
      let forget (s : State) : State := match p.txn with
        | some id => s.modGroup core p.slot fun g => { g with txns := g.txns.filter fun t => t.id ≠ id }
        | none => s
      if p.txn.isSome && p.fn ≠ .cinc then gone (forget s)
      else
        if logRoom s core = 0 then s
        else match (s.group? core p.slot).bind fun g => (s.team? g.team).map fun t => (g, t) with
        | none => gone s
        | some (g, t) =>
          let seq := (s.core core).logSeq
          let page := (((p.lanes.head?).map (·.va.toNat)).getD 0) / 65536
          let pay := logPay s core seq
          let osc := min (oscOf g) (s.vf (coreMod core) t.vf).cap.toNat
          let e : LogEntry := ⟨core, seq, p.ins, target, page, osc, t.ctx, t.l0, t.vf, t.pl, p.slot, false, true, 3, true, p.epo,
            p.fn, p.accs.foldl (fun n a => n + a.size) 0, some p.seq, pay, p.born, p.lanes⟩
          let s := hwWrite ⟨t.vf, none, 1⟩ 13 s pay (p.lanes.flatMap LogLane.bytes)
          gone (forget (State.modCore { s with log := s.log ++ [e] } core fun c => { c with logSeq := seq + 1 }))) s)

/-- A partial whose line is held as partials no longer is performed at its home as the commutative update it stands for
(R246). -/
def deliverStranded (s : State) (c : L1Line) : State :=
  let d := s.dirOf c.line
  if d.st = 5 && d.ptrs.contains c.core then s
  else match c.kind with
  | .part cop vals _ pg =>
    let s := quiesce (s.dropL1 c.core c.line) ⟨c.vf, pg.1, pg.2⟩ c.line true
    let s := { s with mem := keepHardware s c.line s.mem (foldPart c.line s.mem (cop, vals)) }
    let s := vals.foldl (fun s v => s.setDir ((s.dirOf c.line).tagWords v.1 (atomSize (copFn cop)) 1)) s
    writeDone s c.line 0 0 1
  | _ => s

/-- PATH_RESTORED (R218, R245, R246): a path from module `a` to module `b` is back; entries that waited for it replay, and
partials that were cut off count again. -/
def execPathRestored (s : State) : Out :=
  let m := s.ev.a
  let h := s.ev.b
  if !(s.nopath.any fun p => p.m == m && p.h == h) || !pathExists s m h then .next s
  else
    let s := { s with nopath := s.nopath.filter fun p => !(p.m == m && p.h == h) }
    let s := { s with log := mapWhere (fun e => coreMod e.core == m && e.peer == h && e.st = 3) (fun e => { e with st := 2 }) s.log }
    .next ((s.l1.filter fun c => c.core < deliveredBase && coreMod c.core == m && lineMod c.line == h).foldl deliverStranded s)

end Sys2Proof.Machine
end

