-- ==== Sys2Proof/Machine/Queues.lean ====
section
/-!
DEFINITION. `emit`, `qctl`, the watchdog, and the copy instructions `touch`, `close` and `waitb` (15_queues.md R258 to
R270).
-/
namespace Sys2Proof.Machine

/-! ## Emit (R264) -/

/-- The record registers an `emit` reads: z / 4 of them from v(8P) on, once the node is known; an `emit` that has issued
reads none again. -/
def emitRegs (s : State) (f : EmitForm) : List Nat :=
  match s.issue? with
  | none => []
  | some x =>
    let n := (scalarReg s x f.q.toNat).toNat
    if 1024 ≤ n || x.sp.emitRecs.isSome then []
    else ((List.range ((nodeEntry s x.m n).z / 4)).map fun j => 8 * f.p.toNat + j).filter fun r => r < 120

/-- The record of a lane: register 8P + j at bytes 4j. -/
def emitRecord (x : Issue) (f : EmitForm) (z L : Nat) : List Byte :=
  (List.range (z / 4)).flatMap fun j => leBytes 4 (laneReg x.t x.g (8 * f.p.toNat + j) L).toNat

/-- The place of a split's `emit` in the order in which they reached a queue's home: 0 before it has (R263). -/
def emitPlace (x : Issue) : Nat := ((x.sp.emitAt).map (·.2)).getD 0

/-- Insert by place into a list in ascending places. -/
def insertPlace (e : Nat × Nat) : List (Nat × Nat) → List (Nat × Nat)
  | [] => [e]
  | x :: xs => if e.1 < x.1 then e :: x :: xs else x :: insertPlace e xs

/-- The `emit`s that reached a queue's home before the issuing split's own and wait there: the records of each, in the order in
which they came (R263, R265). -/
def emitsAhead (s : State) (x : Issue) (n : Nat) : List (Nat × Nat) :=
  let ahead (at_ : Option (Nat × Nat)) (recs : Option (List (List Byte))) : List (Nat × Nat) := match at_ with
    | some (node, j) => if node = n && 0 < j && (emitPlace x = 0 || j < emitPlace x) then [(j, (recs.getD []).length)] else []
    | none => []
  (s.groups.flatMap fun g => if coreMod g.core ≠ x.m then [] else
    g.arch.splits.flatMap (fun p => ahead p.emitAt p.emitRecs) ++ g.arch.parked.flatMap fun p => ahead p.emitAt p.emitRecs).foldl
      (fun l e => insertPlace e l) []

/-- The slots of a queue in use once those that wait for freed slots have taken the ones that are theirs, the hardware's records
before the `emit`s (R265), and whether any is still to do so. An `emit` that arrives meanwhile stands behind those alone that
now fit (DESIGN CHOICE, log 54). -/
def emitLevel (s : State) (x : Issue) (n : Nat) : Nat × Bool :=
  let q := s.queue x.m n
  let used := q.rsv - q.freAt s.cyc
  (emitsAhead s x n).foldl (fun acc e => if acc.1 + e.2 ≤ q.cap then (acc.1 + e.2, true) else acc)
    (used + q.waiting.length, !q.waiting.isEmpty && decide (used < q.cap))

/-- Write the status register and finish. -/
def emitStatus (s : State) (x : Issue) (f : EmitForm) (v : Nat) : Res :=
  .done (finishPlain s x f.sp (x.g.putScalar f.k.toNat (BitVec.ofNat 64 v)))

/-- An `emit` that has issued waits, with its records as they stood: for its release, or in its place at the queue. -/
def emitWait (s : State) (x : Issue) (f : EmitForm) (n : Nat) (recs : List (List Byte)) (home : Bool) : Res :=
  let k := if !home then 0 else if emitPlace x = 0 then s.nextId + 1 else emitPlace x
  .began (modSplit { s with nextId := s.nextId + 1 } x fun p =>
    { p with emitAt := some (n, k), emitRecs := some recs, emitTo := some f.k.toNat })

/-- An `emit` of records from its release on (R261, R264): it waits until the group's accesses are complete, then for room
at the queue behind what takes freed slots before it, and for the homes of its slots (R256). -/
def emitGo (tryIt : Bool) (f : EmitForm) (s : State) (x : Issue) (n : Nat) (recs : List (List Byte)) : Res :=
  let q := s.queue x.m n
  let (sc, s) := capScope s x (oscOf x.g)
  if !releaseReady s x.g sc then emitWait s x f n recs false
  else
    let s := releaseDo s x.g.core x.g.slot sc
    let l := emitLevel s x n
    let held := slotsHeld s x.m n recs.length
    if q.cap < l.1 + recs.length then
      if tryIt then emitStatus s x f (2 ^ 63) else emitWait s x f n recs true
    else if l.2 || !held.isEmpty then emitWait (openRounds s held) x f n recs true
    else
      let (s, i) := appendRecordsAs x.t.pl s x.m n recs
      let s := finishPlain s x f.sp (x.g.putScalar f.k.toNat (BitVec.ofNat 64 (recs.length + i % 2 ^ 32 * 2 ^ 16)))
      .done (gather x.m false gatherFuel [n] s)

/-- `emit`, with `try` or without (R264). The checks are made once, when it issues. -/
def emitOp (tryIt : Bool) (f : EmitForm) (s : State) : Out :=
  withOps s f.sp { lr := emitRegs s f, sr := [f.q.toNat], sw := [f.k.toNat] } fun s x =>
    match x.sp.emitRecs, x.sp.emitAt with
    | some recs, some (n, _) => emitGo tryIt f s x n recs
    | _, _ =>
      let n := (scalarReg s x f.q.toNat).toNat
      let e := nodeEntry s x.m n
      let q := s.queue x.m n
      if 1024 ≤ n || !e.assigned || e.vf ≠ x.t.vf then .trap (trapAll .queue)
      else if 15 < f.p.toNat + e.z / 32 then .trap (trapAll .illopnd)
      else
        let lanes := x.liveLanes
        if q.cap < lanes.length then .trap (trapAll .queue)
        else if !q.enAt s.cyc then (if tryIt then emitStatus s x f (2 ^ 62) else .trap (trapAll .queue))
        else if lanes.isEmpty then emitStatus s x f 0
        else emitGo tryIt f s x n (lanes.map fun L => emitRecord x f e.z L)

/-- `emit` (R264). -/
def execEmit (f : EmitForm) (s : State) : Out := emitOp false f s
/-- `emit … try` (R264). -/
def execEmitTry (f : EmitForm) (s : State) : Out := emitOp true f s

/-- EMIT_SPACE_FREED (R264, R265): the first hardware record that waits for the queue of node `b` of module `a` takes a
freed slot. -/
def execEmitSpaceFreed (s : State) : Out :=
  let m := s.ev.a
  let n := s.ev.b
  let q := s.queue m n
  match q.waiting with
  | [] => .next s
  | r :: rest =>
    let held := slotsHeld s m n 1
    if q.cap ≤ q.rsv - q.freAt s.cyc then .next s
    else if !held.isEmpty then .next (openRounds s held)
    else
      let s := s.modQueue m n fun q => { q with waiting := rest }
      .next (gather m false gatherFuel [n] (settleLosses (appendRecords s m n [padRecord q r.bytes]).1))

/-! ## Watchdog (R265, R266) -/

/-- Activation number of the oldest incomplete launch of a node (Table Queues 3). -/
def oldestAct (s : State) (m n : Nat) : Nat :=
  match leastBy (fun k => k) ((s.acts.filter fun a => a.m == m && a.node == n && !a.abandoned).map (·.act)) with
  | some k => k % 2 ^ 32
  | none => 0xFFFFFFFF

/-- A count in 32 bits, saturating. -/
def sat32 (n : Nat) : Nat := min n (2 ^ 32 - 1)

/-- Is a watchdog record of the node already waiting? -/
def watchdogWaits (s : State) (m n : Nat) : Bool :=
  s.queues.any fun q => q.m == m && q.waiting.any fun r => r.fromNode == n && r.bytes.take 2 == leBytes 2 1

/-- WATCHDOG_FIRE (R265): the watchdog of node `b`'s queue on module `a` has counted `WDT` ticks. -/
def execWatchdogFire (s : State) : Out :=
  let m := s.ev.a
  let n := s.ev.b
  let q := s.queue m n
  if q.wdt = 0 || !q.en || q.wdg || q.rsv ≤ q.fre || q.wcount < q.wdt then .next s
  else
    let waits := watchdogWaits s m n
    let s := s.modQueue m n fun q => { q with wdg := true, wcnt := min (q.wcnt + 1) 65535, wlost := q.wlost || waits }
    if waits then .next s
    else
      let (s, _) := superRecord s m n 1 (s.lticks m) (sat32 (q.tkn - q.fre) + sat32 (q.pub - q.tkn) * 2 ^ 32)
        (oldestAct s m n + sat32 (q.rsv - q.pub) * 2 ^ 32)
      .next (gather m false gatherFuel [q.sup] s)

/-! ## Queue control (R267) -/

/-- The global line of a node's queue header, if its page translates to memory. -/
def headerLine (s : State) (m n : Nat) : Option Nat :=
  let e := nodeEntry s m n
  match translate s (e.hwCtx m) .write e.qva with
  | .ok p => match p.phys with | .dram ga => some (ga / 128) | _ => none
  | .error _ => none

/-- Does the region from a node's `QVA` hold `n` bytes on pages of `TYPE` 1 (R258, R267)? -/
def regionHolds (s : State) (m : Nat) (e : NodeEntry) (n : Nat) : Bool :=
  (List.range (n / 65536 + 2)).all fun i =>
    let va := if i = 0 then e.qva else (e.qva / 65536 + i) * 65536
    e.qva + n ≤ va || match translate s (e.hwCtx m) .write va with
      | .ok p => p.ty = 1
      | .error _ => false

/-- A `qctl` operation with the privilege it needs: its node and argument, what it refuses, its effect. The status before
is the result. -/
def qctlOp (pl : Nat) (refuses : Queue → Nat → Bool) (act : State → Nat → Nat → Nat → State) (f : EpqForm) (s : State) : Out :=
  withOps s f.sp { sr := [f.p.toNat], sw := [f.q.toNat], pl := pl } fun s x =>
    let v := (scalarReg s x f.p.toNat).toNat
    let n := bitsOf v 0 10
    let a := bitsOf v 16 32
    if bitsOf v 10 6 ≠ 0 || bitsOf v 48 16 ≠ 0 then .trap (trapAll .illopnd)
    else
      let e := nodeEntry s x.m n
      let q := s.queue x.m n
      if !e.assigned || (e.vf ≠ x.t.vf && x.t.pl < 2) || refuses q a then .trap (trapAll .queue)
      else
        let s := finishPlain s x f.sp (x.g.putScalar f.q.toNat (BitVec.ofNat 64 q.sts))
        .done (homeReplied (act s x.m n a) x)

/-- `qctl` op 0, stat. -/
def execQctlStat (f : EpqForm) (s : State) : Out := qctlOp 0 (fun _ _ => false) (fun s _ _ _ => s) f s

/-- Does the region of another node of the context begin within `bytes` of a node's region? Two nodes never share one
(R258). -/
def regionShared (s : State) (m n : Nat) (e : NodeEntry) (bytes : Nat) : Bool :=
  (List.range 1024).any fun k =>
    let o := nodeEntry s m k
    k ≠ n && o.assigned && o.vf == e.vf && o.ctx == e.ctx && e.qva < o.qva && o.qva < e.qva + bytes

/-- Enable a queue, or set the node's error flag (Table Queues 4). -/
def enableQueue (s : State) (m n : Nat) : State :=
  let e := nodeEntry s m n
  let q := s.queue m n
  if (e.grid || e.thresh ≤ q.cap) && regionHolds s m e (128 + q.cap * e.z) &&
      !regionShared s m n e (128 + q.cap * e.z) then
    let h := headerLine s m n
    let s := s.modQueue m n fun q => { q.setEn s.cyc true with frozen := false, enableTick := s.ltick, header := h }
    gather m false gatherFuel [n] s
  else setNodeErr s m n

/-- `qctl` op 1, enable. -/
def execQctlEnable (f : EpqForm) (s : State) : Out := qctlOp 1 (fun _ _ => false) (fun s m n _ => enableQueue s m n) f s

/-- `qctl` op 2, disable. -/
def execQctlDisable (f : EpqForm) (s : State) : Out :=
  qctlOp 1 (fun _ _ => false) (fun s m n _ => s.modQueue m n fun q => q.setEn s.cyc false) f s

/-- `qctl` op 3, init: every field of the header takes its reset value (R258, log 55). From then on the header line is served
as one (R259). -/
def execQctlInit (f : EpqForm) (s : State) : Out :=
  qctlOp 1 (fun q a => q.en || q.rsv ≠ q.fre || a < 4 || 20 < a) (fun s m n a =>
    let e := nodeEntry s m n
    let h := headerLine s m n
    s.modQueue m n fun q => { q with
      pub := 0, rsv := 0, tkn := 0, fre := 0, logCap := a, recSize := e.recCode, header := h
      en := false, frozen := false, perr := false, wdg := false, wlost := false, wcnt := 0, wcount := 0
      pdn := 0, wdt := 0, sup := 0x3FF, done := [], pubTicks := [], completed := [] }) f s

/-- `qctl` op 4, period. -/
def execQctlPeriod (f : EpqForm) (s : State) : Out :=
  qctlOp 1 (fun _ _ => false) (fun s m n a => s.modQueue m n fun q => { q with wdt := a, wcount := 0 }) f s

/-- `qctl` op 5, supervisor. -/
def execQctlSupervisor (f : EpqForm) (s : State) : Out :=
  qctlOp 1 (fun _ a => 1024 ≤ a) (fun s m n a => s.modQueue m n fun q => { q with sup := a }) f s

/-- `qctl` op 6, clear. -/
def execQctlClear (f : EpqForm) (s : State) : Out :=
  qctlOp 1 (fun _ _ => false) (fun s m n _ => s.modQueue m n fun q =>
    { q with wdg := false, wlost := false, perr := false, wcount := 0 }) f s

/-! ## Copies (R269, R270) -/

/-- `touch` (R270). It stands behind the later bank rows of the group's earlier accesses, which read local store as it was
(R200, R227). -/
def execTouch (f : EpForm) (s : State) : Out :=
  withOps s f.sp {} fun s x =>
    if hasRest s x.g then .pause s
    else .done (startCopy (finishPlain s x f.sp x.g) x.g.core x.g.slot x.g.team f.p.toNat)

/-- `close`: the pending list becomes a batch; a seventeenth incomplete batch waits (R269, R270). -/
def execClose (f : EpForm) (s : State) : Out :=
  withOps s f.sp { sw := [f.p.toNat] } fun s x =>
    if 16 ≤ x.g.batches.length && !x.g.pending.isEmpty then .pause s
    else
      let b := x.g.bseq + 1
      let batch : Batch := ⟨b, x.g.pending⟩
      let g := { x.g with
        bseq := b, pending := []
        batches := if x.g.pending.isEmpty then x.g.batches else x.g.batches ++ [batch] }
      .done (finishPlain s x f.sp (g.putScalar f.p.toNat (BitVec.ofNat 64 b)))

/-- `waitb` (R270). -/
def execWaitb (f : EpForm) (s : State) : Out :=
  withOps s f.sp { sr := [f.p.toNat] } fun s x =>
    let m := min (scalarReg s x f.p.toNat).toNat x.g.bseq
    if x.g.batches.any fun b => b.seq ≤ m then .wait else .done (finishPlain s x f.sp x.g)

end Sys2Proof.Machine
end

