-- ==== Sys2Proof/Machine/Sync.lean ====
section
/-!
DEFINITION. Sync words: arrival counters and barriers (18_counters.md R310 to R320).
-/
namespace Sys2Proof.Machine

/-! ## The word (R314) -/

/-- The word a sync instruction names: its virtual and global address, its page, the module whose tables translate it. -/
structure SyncAt where
  va : Nat
  ga : Nat
  page : Page
  m : Nat
  deriving DecidableEq, Repr

/-- What finding the word comes to. -/
inductive SyncFound where
  | trap (i : TrapInfo)
  | fault (ea : Nat) (f : PageFault)
  | at_ (w : SyncAt)
  deriving DecidableEq, Repr

/-- A trap of a sync instruction at an address: it applies to the whole split (R330). -/
def syncTrap (k : TrapKind) (ea : Nat) (write : Bool) : TrapInfo := { kind := k, addr := ea, write := write }

/-- The checks of R314 in their order. -/
def syncFind (s : State) (x : Issue) (f : SyncForm) (remote write : Bool) : SyncFound :=
  let a := addrReg x.g f.ar.toNat
  let p := scalarReg s x f.p.toNat
  if remote && p.extractLsb' 52 12 ≠ 0 then .trap (trapAll .illopnd)
  else
    let ea := (a.ptr.setWidth 64 + (if remote then (p.extractLsb' 0 48).signExtend 64 else p)).toNat
    let peer := (p.extractLsb' 48 4).toNat
    let m := if remote then peer else x.m
    if !a.atm || (remote && !a.rmt) then .trap (syncTrap .perm ea write)
    else if a.rgn ≠ 0 then .trap (syncTrap .attr ea write)
    else if ea < a.base.toNat || a.limit.toNat < ea + 8 then .trap (syncTrap .bounds ea write)
    else if ea % 8 ≠ 0 then .trap (syncTrap .align ea write)
    else if remote && !s.inFabric peer then .trap { syncTrap .peer ea write with peer := peer }
    else match translate s { x.t.tctx with m := m } (if write then .write else .read) (ea % 2 ^ 56) with
      | .error pf => .fault ea pf
      | .ok pg => match pg.ty, pg.phys with
        | 0, .dram ga => .at_ ⟨ea, ga, pg, m⟩
        | _, _ => .trap (syncTrap .attr ea write)

/-- The tag of a word (R310). -/
def syncType (s : State) (w : SyncAt) : Option SyncTag := lookupNat (w.ga / 8) s.sync

/-- Set or clear the tag of a word. -/
def setSync (s : State) (ga : Nat) (t : Option SyncTag) : State :=
  match t with
  | some t => { s with sync := insertNat (ga / 8) t s.sync }
  | none => { s with sync := eraseNat (ga / 8) s.sync }

/-- Has the instruction reached the home: after the group's own accesses to the bytes, over a path? -/
def syncArrived (s : State) (x : Issue) (w : SyncAt) : Bool :=
  let line := w.ga / 128
  !earlierReq s x line && !meetsLog s x.g.core x.g.slot w.va 8 && !meetsPacket s x.g.core x.g.slot line &&
  !x.g.txns.any (fun t => t.acquire.isSome) && !noPath s x.m (lineMod line)

/-- Can the home serve it now: outside a round, with no translation through the line under way that it writes (R187, R256)? -/
def syncReady (s : State) (x : Issue) (write : Bool) (w : SyncAt) : Bool :=
  let line := w.ga / 128
  syncArrived s x w && !homeWaits s line write && !(write && tableBusy s line s.nextId)

/-- The instruction waits, and the home opens the round its write needs (R254, R302). -/
def syncWait (s : State) (x : Issue) (write : Bool) (w : SyncAt) : Res :=
  .held (holdGroup (if write && syncArrived s x w then openRound s (w.ga / 128) else s) x)

/-- The word's value. -/
def syncVal (s : State) (w : SyncAt) : Nat := memReadLE s.mem w.ga 8

/-- Every cached copy of the word's line gives way, and the word takes a value at its home (R311, R319). -/
def putSync (s : State) (x : Issue) (w : SyncAt) (v : Nat) : State := putWord8 (originOf s x.t.tctx w.page) s w.ga v

/-- A page fault holds the group (R314). -/
def syncHold (s : State) (x : Issue) (write : Bool) (ea : Nat) (pf : PageFault) : Res :=
  scalarTrap (holdFaults s x write [(⟨0, ea, 0, 0⟩, pf)])

/-- A local sync instruction: its word found and the home reached, `k` says what it does there. A split of helpers is
suppressed where `sup` says so. The whole group is held until the home has replied, which is a group switch (R127, R314). A
leased copy the core holds of the line does not stay behind what it has read (R233). -/
def syncOp (f : SyncForm) (u : Use) (write sup : Bool) (pre : State → Issue → Option TrapInfo)
    (k : State → Issue → SyncAt → Res) (s : State) : Out :=
  withOps s f.sp u fun s x =>
    if sup && x.live = 0 then .done (finishPlain s x f.sp x.g)
    else match syncFind s x f false write with
      | .trap i => .trap i
      | .fault ea pf => syncHold s x write ea pf
      | .at_ w => match pre s x with
        | some i => .trap i
        | none =>
          if cutOff s x.m (lineMod (w.ga / 128)) then .trap (syncTrap .unreach w.va write)
          else if !syncReady s x write w then syncWait s x write w
          else match k s x w with
          | .done s' => .done (homeReplied (refreshLease s' x.g.core (w.ga / 128) ((BitVec.allOnes 128 >>> 120) <<< (w.ga % 128))) x)
          | .held s' => .held (holdGroup s' x)
          | .began s' => .began (holdGroup s' x)
          | r => r

/-- SYNC for the whole split. -/
def syncBad (w : SyncAt) (write : Bool) : Res := .trap (syncTrap .sync w.va write)

/-- POISON: the word of a poisoned line is consumed (R198, R336). -/
def syncPoison (s : State) (w : SyncAt) : Bool := s.poison.contains (w.ga / 128)

/-- Act as a release at the group's `OSC`, then go on (R318). -/
def withRelease (s : State) (x : Issue) (scope : Nat) (k : State → Res) : Res :=
  let (sc, s) := capScope s x scope
  if releaseReady s x.g sc then k (releaseDo s x.g.core x.g.slot sc) else .held s

/-- Act as an acquire at the group's `OSC` (R318). -/
def withAcquire (s : State) (x : Issue) : State :=
  let (sc, s) := capScope s x (oscOf x.g)
  acquireDo s x.g.core x.t.vf sc

/-- Nothing checked before the word. -/
def noPre (_ : State) (_ : Issue) : Option TrapInfo := none

/-! ## Counters (R315) -/

/-- `cinit` (R315). -/
def execCinit (f : SyncForm) (s : State) : Out :=
  syncOp f { sr := [f.p.toNat, f.r.toNat] } true true noPre (fun s x w =>
    if (syncType s w).isSome then syncBad w true
    else withRelease s x (oscOf x.g) fun s =>
      let s := finishPlain s x f.sp x.g
      let s := setSync (quiesce s (originOf s x.t.tctx w.page) (w.ga / 128) true) w.ga (some .counter)
      .done (putSync s x w (scalarReg s x f.r.toNat).toNat)) s

/-- `cinc` on a word of the group's own translation (R315). -/
def execCinc (f : SyncForm) (s : State) : Out :=
  syncOp f { sr := [f.p.toNat, f.r.toNat] } true true noPre (fun s x w =>
    withRelease s x (oscOf x.g) fun s =>
      if syncType s w ≠ some .counter then syncBad w true
      else if syncPoison s w then .trap (syncTrap .poison w.va true)
      else .done (putSync (finishPlain s x f.sp x.g) x w ((syncVal s w + (scalarReg s x f.r.toNat).toNat) % 2 ^ 64))) s

/-- Send the increment of a remote `cinc`; the split waits for its acknowledgement, and keeps the address it formed (R219,
R314). -/
def sendCinc (s : State) (x : Issue) (w : SyncAt) (v : DWord) : Res :=
  let id := s.nextId
  let og := originOf s { x.t.tctx with m := w.m } w.page
  let p : Packet := ⟨0, 0, x.g.slot, some id, .cinc, [⟨0, w.ga, 8, 0, v, 0, w.va⟩], x.cur.word, og.vf, og.domain, og.pol, id,
    [⟨0, BitVec.ofNat 56 w.va, v.setWidth 128⟩]⟩
  let s := sendPacket { s with nextId := id + 1 } x.g.core w.m p
  let t : Txn := ⟨id, x.active, .lanes 0 0, true, [(0, 0)], 1, [], none⟩
  let s := s.modGroup x.g.core x.g.slot fun g => { g with txns := g.txns ++ [t] }
  .began (modSplit s x fun p => { p with passTxn := some id, rem := some [⟨0, w.va, w.m, v, 0⟩], holds := true })

/-- A wait of an instruction that holds its group until the home has replied (R314). -/
def heldWith (x : Issue) : Res → Res
  | .held s => .held (holdGroup s x)
  | r => r

/-- `cinc … remote` (R314, R315, R318): at system scope, performed at the target's home. Once its increment has gone to
the side log it is done (R218). -/
def execCincRemote (f : SyncForm) (s : State) : Out :=
  withOps s f.sp { sr := [f.p.toNat, f.r.toNat] } fun s x =>
    if x.live = 0 then .done (finishPlain s x f.sp x.g)
    else match x.sp.passTxn with
    | some id => match x.g.txns.find? (fun t => t.id == id) with
      | none => .done (finishPlain s x f.sp x.g)
      | some t =>
        if 0 < t.out then .wait
        else if t.lanes.all fun l => l.2 ≠ 0 then
          .done (finishPlain s x f.sp { x.g with txns := x.g.txns.filter fun y => y.id ≠ id })
        else .trap (syncTrap .sync (((x.sp.rem.bind List.head?).map (·.ea)).getD 0) true)
    | none => match syncFind s x f true true with
      | .trap i => .trap i
      | .fault ea pf => syncHold s x true ea pf
      | .at_ w =>
        heldWith x (withRelease s x 5 fun s =>
          let v := scalarReg s x f.r.toNat
          if cutOff s x.m w.m then
            if logRoom s x.g.core = 0 then .pause s
            else .done (finishPlain (logEntry s x 8 .cinc (oscOf x.g) w.m true true 3 (s.stream x.g.core w.m).epo (w.va % 2 ^ 56 / 65536)
              [⟨0, BitVec.ofNat 56 w.va, v.setWidth 128⟩]) x f.sp x.g)
          else if streamRoom s x.g.core w.m = 0 then .pause s
          else sendCinc s x w v)

/-- The split waits on a word (R315). -/
def waitAt (s : State) (x : Issue) (w : SyncAt) : Res :=
  .held (modSplit s x fun p => { p with waitOn := some (w.ga / 8) })

/-- `cwait`, waiting or polling (R315). -/
def cwaitOp (poll : Bool) (f : SyncForm) (s : State) : Out :=
  syncOp f { sr := [f.p.toNat, f.r.toNat], sw := [f.r.toNat] } false false noPre (fun s x w =>
    if x.sp.killed || syncType s w ≠ some .counter then syncBad w false
    else if syncPoison s w then .trap (syncTrap .poison w.va false)
    else if !poll && syncVal s w < (scalarReg s x f.r.toNat).toNat then waitAt s x w
    else .done (withAcquire (finishPlain s x f.sp (x.g.putScalar f.r.toNat (BitVec.ofNat 64 (syncVal s w)))) x)) s

/-- `cwait` (R315). -/
def execCwait (f : SyncForm) (s : State) : Out := cwaitOp false f s
/-- `cwait … poll` (R315). -/
def execCwaitPoll (f : SyncForm) (s : State) : Out := cwaitOp true f s

/-- A word is no longer live: its waiters fail, its team's list entry is free (R315, R317). -/
def killWord (s : State) (ga : Nat) : State :=
  let s := setSync s ga none
  let hit (p : Split) : Bool := p.waitOn == some (ga / 8)
  let hitK (p : Parked) : Bool := p.waitOn == some (ga / 8)
  { s with
    teams := s.teams.map fun t => { t with bars := t.bars.filter fun b => b.word ≠ ga }
    groups := s.groups.map fun g => { g with arch := { g.arch with
      splits := mapWhere hit (fun p => { p with killed := true }) g.arch.splits
      parked := mapWhere hitK (fun p => { p with killed := true }) g.arch.parked } } }

/-- `synkill` (R315). -/
def execSynkill (f : SyncForm) (s : State) : Out :=
  syncOp f { sr := [f.p.toNat], sw := [f.r.toNat] } true true noPre (fun s x w =>
    if (syncType s w).isNone then syncBad w true
    else if syncPoison s w then .trap (syncTrap .poison w.va true)
    else withRelease s x (oscOf x.g) fun s =>
      .done (killWord (finishPlain s x f.sp (x.g.putScalar f.r.toNat (BitVec.ofNat 64 (syncVal s w)))) w.ga)) s

/-! ## Barriers (R316, R317) -/

/-- ILLOPND for an image no barrier has. -/
def imageCheck (f : SyncForm) (team : Bool) (s : State) (x : Issue) : Option TrapInfo :=
  let v := scalarReg s x f.r.toNat
  if v.extractLsb' 16 24 ≠ 0 || (!team && v.extractLsb' 0 16 = 0) then some (trapAll .illopnd) else none

/-- The members of a team barrier: the groups that have not exited. -/
def Team.present (t : Team) : List Nat := (List.range t.groups).filter fun g => !t.exited.getLsbD g

/-- `barinit`, of a team or not (R316, R317). -/
def barinitOp (team : Bool) (f : SyncForm) (s : State) : Out :=
  syncOp f { sr := [f.p.toNat, f.r.toNat] } true true (imageCheck f team) (fun s x w =>
    if (syncType s w).isSome || (team && 8 ≤ x.t.bars.length) then syncBad w true
    else withRelease s x (oscOf x.g) fun s =>
      let v := (scalarReg s x f.r.toNat).toNat
      let n := if team then x.t.present.length else bitsOf v 0 16
      let s := finishPlain s x f.sp x.g
      let s := setSync (quiesce s (originOf s x.t.tctx w.page) (w.ga / 128) true) w.ga (some .barrier)
      let s := putSync s x w (bitsOf v 40 24 * 2 ^ 40 + n)
      let bar : TeamBar := ⟨w.ga, BitVec.ofNat 56 w.va, x.t.present.foldl (fun k g => k ||| (1#32 <<< g)) 0, 0⟩
      .done (if team then s.modTeam x.t.uid fun t => { t with bars := t.bars ++ [bar] } else s)) s

/-- `barinit` (R316). -/
def execBarinit (f : SyncForm) (s : State) : Out := barinitOp false f s
/-- `barinit … team` (R317). -/
def execBarinitTeam (f : SyncForm) (s : State) : Out := barinitOp true f s

/-- What an arrival does at a barrier, with its team's rules (R316, R317); none: SYNC. -/
def arriveAs (s : State) (x : Issue) (w : SyncAt) : Option State :=
  let go (s : State) : State := arrive (originOf s x.t.tctx w.page) s w.ga (BitVec.ofNat 56 w.va) x.t.tctx 1
  match s.teams.find? fun t => t.bars.any fun b => b.word == w.ga with
  | none => some (go s)
  | some t =>
    if t.uid ≠ x.t.uid then none
    else match t.bars.find? fun b => b.word == w.ga with
    | some b =>
      if b.arrived.getLsbD x.g.num then some s
      else
        let s := s.modTeam t.uid fun t => { t with bars := mapWhere (fun b => b.word == w.ga) (fun b =>
          { b with arrived := b.arrived ||| (1#32 <<< x.g.num) }) t.bars }
        some (go s)
    | none => some s

/-- `PH` of a barrier word. -/
def phaseOf (v : Nat) : Nat := bitsOf v 32 8

/-- `bararr` (R316, R317). -/
def execBararr (f : SyncForm) (s : State) : Out :=
  syncOp f { sr := [f.p.toNat], sw := [f.r.toNat] } true true noPre (fun s x w =>
    withRelease s x (oscOf x.g) fun s =>
      if syncType s w ≠ some .barrier then syncBad w true
      else if syncPoison s w then .trap (syncTrap .poison w.va true)
      else
        let ph := phaseOf (syncVal s w)
        let s' := finishPlain s x f.sp (x.g.putScalar f.r.toNat (BitVec.ofNat 64 ph))
        match arriveAs (quiesce s' (originOf s' x.t.tctx w.page) (w.ga / 128) true) x w with
        | some s => .done s
        | none => syncBad w true) s

/-- `barwait` (R316). -/
def execBarwait (f : SyncForm) (s : State) : Out :=
  syncOp f { sr := [f.p.toNat, f.r.toNat] } false false noPre (fun s x w =>
    if x.sp.killed || syncType s w ≠ some .barrier then syncBad w false
    else if syncPoison s w then .trap (syncTrap .poison w.va false)
    else if phaseOf (syncVal s w) = (scalarReg s x f.r.toNat).toNat % 256 then waitAt s x w
    else .done (withAcquire (finishPlain s x f.sp x.g) x)) s

/-- `bartest` (R316). -/
def execBartest (f : SyncForm) (s : State) : Out :=
  syncOp f { sr := [f.p.toNat, f.r.toNat], sw := [f.r.toNat] } false false noPre (fun s x w =>
    if syncType s w ≠ some .barrier then syncBad w false
    else if syncPoison s w then .trap (syncTrap .poison w.va false)
    else
      let ph := phaseOf (syncVal s w)
      let t := ph ≠ (scalarReg s x f.r.toNat).toNat % 256
      let s := finishPlain s x f.sp (x.g.putScalar f.r.toNat (BitVec.ofNat 64 ((if t then 2 ^ 63 else 0) + ph)))
      .done (if t then withAcquire s x else s)) s

/-- PARENT_ARRIVAL (R316): arrival `a` of those under way reaches its parent barrier, or is dropped and counted at the module that
is home to the word; one whose address names no word, at the module it came from (DESIGN CHOICE, log 107). -/
def execParentArrival (s : State) : Out :=
  match s.parents[s.ev.a]? with
  | none => .next s
  | some p =>
    let c : Ctx := ⟨p.m, p.vf, p.ctx, p.l0, p.pl⟩
    let gone : State := { s with parents := s.parents.eraseIdx s.ev.a }
    match translate s c .write p.va.toNat with
    | .error _ => .next (countSyncErr gone p.m)
    | .ok pg => match pg.phys with
      | .dram ga =>
        let bad : Bool := pg.ty ≠ 0 || ga % 8 ≠ 0 || lookupNat (ga / 8) s.sync ≠ some .barrier || 8 < p.depth + 1
        if noPath s p.m (lineMod (ga / 128)) then .next s
        else if homeWaits s (ga / 128) true || tableBusy s (ga / 128) s.nextId then
          .next (if bad then s else openRound s (ga / 128))
        else if bad then .next (countSyncErr gone (lineMod (ga / 128)))
        else .next (arrive (originOf s c pg) gone ga p.va c (p.depth + 1))
      | _ => .next (countSyncErr gone p.m)

/-- A group marked as triggered: an identifier parts the accesses before from those after; the scope its accesses must be complete
at and the lines whose partials hold its updates are kept (R237, R320). -/
def Group.mark (g : Group) (s : State) (scope : Nat) : Group :=
  { g with
    triggered := some (s.nextId + 1)
    trigScope := scope
    trigParts := (partialsOf s g.core g.slot).map (·.line) }

/-- `trig` (R320): the first one marks the group; its device scope is capped (R161). -/
def execTrig (f : EsForm) (s : State) : Out :=
  withOps s f.sp {} fun s x =>
    let (sc, s) := capScope s x 4
    .done (match x.g.triggered with
      | some _ => finishPlain s x f.sp x.g
      | none => finishPlain { s with nextId := s.nextId + 1 } x f.sp (x.g.mark s sc))

end Sys2Proof.Machine
end

