-- ==== Sys2Proof/Machine/MatrixOps.lean ====
section
/-!
DEFINITION. What a matrix operation writes: the rows of a pass and of a drain (16_matrix_engine.md R292, R293, R295; 05 R106).
-/
namespace Sys2Proof.Machine

/-! ## Posted operations as they run -/

/-- `ABT` of Table Matrix 8: the operation was abandoned by a `dusk` (R293, R296). -/
def abtStatus : BitVec 16 := 0x400

/-- The status bits of Table Matrix 8. -/
def opStatus (f : Flags) (psn mde : Bool) : BitVec 16 :=
  f.setWidth 16 ||| (if psn then 0x100 else 0) ||| (if mde then 0x200 else 0)

/-- The touched C element at a key. -/
def touchAt (notes : List Touch) (key : Nat) : Option Touch := notes.find? fun t => t.key == key

/-- A C element stored to while the operation owned it: the values it may hold when a pass completes beside the pass's own
result: what was stored, and the result computed from it (R295). `res` gives the result from an accumulator. -/
def Touch.outcomes (t : Touch) (acc : Bool) (cur : Word) (res : Word → Word) : List Word :=
  let st : Word := match t.stored with | some v => BitVec.ofNat 32 v | none => cur
  if acc then [st, res st] else [st]

/-- Write a pass's row of results, read from memory `rd`: each element with its poison or its choice; lines rewritten in
full are good (R292, R293, R295, R336). -/
def passRow (rd s : State) (t : Tile) (msc d : DWord) (notes : List Touch) (r : ARow) (crow : Nat) : State × Flags × Bool :=
  let (s, f, p) := (List.range t.n).foldl (fun (acc : State × Flags × Bool) n =>
    let (s, fl, psn) := acc
    let key := crow + 4 * n
    let cbad := pAcc d && s.lpoison.contains (key / 128)
    if cbad || elemBad t r n then (localWrite s key 4 (poisonElem t).toNat, fl, true)
    else
      let elem (c : Word) : Word × Flags := passElem t msc r.acts r.asc n (if pAcc d then c else 0)
      let now : Word := BitVec.ofNat 32 (memReadLE rd.lmem key 4)
      match touchAt notes key with
      | none => let (v, f) := elem now; (localWrite s key 4 v.toNat, fl ||| f, psn)
      | some o =>
        let (v, f) := elem (BitVec.ofNat 32 o.before)
        let vs := o.outcomes (pAcc d) (BitVec.ofNat 32 (memReadLE s.lmem key 4)) fun c => (elem c).1
        let v := pickValue s.freeCount vs v
        (localWrite { s with freeCount := s.freeCount + vs.length } key 4 v.toNat, fl ||| f, psn))
    (s, 0, !r.bad.isEmpty)
  ((List.range (t.n / 32)).foldl (fun s i => localHeal s (crow + 128 * i) 128) s, f, p)

/-- A pass of one member, its operands read from memory `rd` (R292): its status, and the state after its writes. -/
def runPass (rd s : State) (t : Tile) (own a : Team) (d msc : DWord) (notes : List Touch) : State × BitVec 16 :=
  let cBase := regionKey own 3 (pCoff d)
  let cL := ceilDiv t.n 32
  let (s, f, psn) := (List.range (pM d)).foldl (fun (acc : State × Flags × Bool) m =>
    let (s, f, p) := passRow rd acc.1 t msc d notes (readRow rd t msc (regionKey a 2 (pAoff d)) (pM d) m) (cBase + 128 * (m * cL))
    (s, acc.2.1 ||| f, acc.2.2 || p)) (s, (if t.trn then Flag.trn else 0), !t.bad.isEmpty)
  (forgetStores s (lineRun cBase (cLines (pM d) t.n)), opStatus f psn false)

/-- Put a code of `w` bits at index `i` of a row value. -/
def putCode (w i v : Nat) (row : Nat) : Nat := row + v % 2 ^ w * 2 ^ (i * w)

/-- Row `m` of a drain: destination row and scale row as numbers, flags, and the indices of poisoned elements (R292,
R106). -/
def drainRow (s : State) (d : DWord) (notes : List Touch) (m crow : Nat) : Nat × Nat × Flags × List Nat × Nat :=
  let n := dN d
  let w := fmtWidth (dFmt d)
  let elems : List Word := (List.range n).map fun i =>
    let key := crow + 4 * i
    let cur : Word := BitVec.ofNat 32 (memReadLE s.lmem key 4)
    match touchAt notes key with
    | some o => pickValue (s.freeCount + 2 * (m * n + i)) [BitVec.ofNat 32 o.before, BitVec.ofNat 32 (o.stored.getD cur.toNat)] cur
    | none => cur
  let bad := (List.range n).filter fun i => s.lpoison.contains ((crow + 4 * i) / 128)
  if dMx d then
    let blocks := (List.range (ceilDiv n 32)).map fun b => mxPack (dFmt d) (((elems.drop (32 * b)).take 32).map fun v => decodeF Fmt.f32 v.toNat)
    let codes := blocks.flatMap (·.2.1)
    (codes.zipIdx.foldl (fun r c => putCode w c.2 c.1 r) 0,
      blocks.zipIdx.foldl (fun r b => putCode 8 b.2 b.1.1 r) 0,
      blocks.foldl (fun f b => f ||| b.2.2) 0, bad, n)
  else
    let outs := elems.map fun v =>
      if dFmt d = 0 then (v, (0 : Flags))
      else if dFmt d = 2 then fromInt .cvts homeEnv 2 v.toInt
      else convert (if dSat d then .cvts else .cvt) homeEnv 5 (dFmt d) v
    (outs.zipIdx.foldl (fun r c => putCode w c.2 c.1.1.toNat r) 0, 0, outs.foldl (fun f o => f ||| o.2) 0, bad, n)

/-- Land the lines of a drained row: a number of bits from a key on; a line is poisoned where an element of it is. -/
def landRow (s : State) (key lines v : Nat) (bad : Nat → Bool) : State :=
  (List.range lines).foldl (fun s i => landLine s (key / 128 + i) (BitVec.ofNat 1024 (v / 2 ^ (1024 * i))) (bad i)) s

/-- A drain of one member, its C rows read from memory `rd` (R292, R293). -/
def runDrain (rd s : State) (own : Team) (d : DWord) (notes : List Touch) : State × BitVec 16 :=
  let cBase := regionKey own 3 (dCoff d)
  let dBase := regionKey own 2 (dDoff d)
  let cL := ceilDiv (dN d) 32
  let dL := rowLines (dFmt d) (dN d)
  let w := fmtWidth (dFmt d)
  let rows := (List.range (dM d)).map fun m => drainRow rd d notes m (cBase + 128 * (m * cL))
  let s := { s with freeCount := s.freeCount + 2 * (dM d * dN d) }
  let s := rows.zipIdx.foldl (fun s r =>
    landRow s (dBase + 128 * (r.2 * dL)) dL r.1.1 fun i => r.1.2.2.2.1.any fun e => e * w / 1024 = i || (e * w + w - 1) / 1024 = i) s
  let s := if !dMx d then s else
    let scBase := dBase + 128 * (dM d * dL)
    (List.range (ceilDiv (dM d) 4)).foldl (fun s l =>
      let four := (rows.drop (4 * l)).take 4
      landLine s (scBase / 128 + l) (BitVec.ofNat 1024 (four.zipIdx.foldl (fun v r => v + r.1.2.1 * 2 ^ (256 * r.2)) 0))
        (four.any fun r => !r.2.2.2.1.isEmpty)) s
  (s, opStatus (rows.foldl (fun f r => f ||| r.2.2.1) 0) (rows.any fun r => !r.2.2.2.1.isEmpty) false)

end Sys2Proof.Machine
end

