-- ==== Sys2Proof/Machine/Matrix.lean ====
section
/-!
DEFINITION. The instructions of the matrix engine, its arbiter and its operations (16_matrix_engine.md R276 to R296).
-/
namespace Sys2Proof.Machine

/-- MATRIX for the whole split. -/
def matrixTrap : Res := .trap (trapAll .matrix)

/-- The cluster of the issuing group. -/
def Issue.cluster (x : Issue) : Nat := coreCluster x.g.core

/-! ## `gang` and `mscale` (R289) -/

/-- The teams of the issuing group's band. -/
def bandTeams (s : State) (t : Team) : Nat :=
  match s.act? t.m t.node t.act with
  | some a => a.teams
  | none => (s.teams.filter fun u => u.m == t.m && u.node == t.node && u.act == t.act && u.band == t.band).length

/-- Is a value a gang the issuing group may be in (R282, R289)? -/
def gangOk (s : State) (x : Issue) (v : DWord) : Bool :=
  let n := (v.extractLsb' 48 4).toNat
  let ms := gangMembers v
  2 ≤ n && n ≤ 6 && ms.Nodup && (List.range 6).all (fun i => !v.getLsbD (8 * i + 7)) &&
  (List.range 6).all (fun i => i < n || v.extractLsb' (8 * i) 8 = 0) &&
  ms.all (fun p => p.1 < bandTeams s x.t && p.2 < x.t.groups) && ms.contains (x.t.num, x.g.num)

/-- `gang` (R289). -/
def execGang (f : EpForm) (s : State) : Out :=
  withOps s f.sp { sr := [f.p.toNat] } fun s x =>
    let v := scalarReg s x f.p.toNat
    if x.g.mentry.isSome then matrixTrap
    else if v ≠ 0 && !gangOk s x v then .trap (trapAll .illopnd)
    else .done (finishPlain s x f.sp { x.g with arch := { x.g.arch with gang := v } })

/-- `mscale` (R281, R289). -/
def execMscale (f : EpForm) (s : State) : Out :=
  withOps s f.sp { sr := [f.p.toNat] } fun s x =>
    let v := scalarReg s x f.p.toNat
    if v.extractLsb' 16 48 ≠ 0 || v.extractLsb' 6 2 ≠ 0 || mscMode v = 3 || mscFmt v = 15 then .trap (trapAll .illopnd)
    else .done (finishPlain s x f.sp { x.g with arch := { x.g.arch with msc := v } })

/-! ## `mreq` (R287, R290) -/

/-- Is the entry a gathering gang of the same members and band? -/
def joins (x : Issue) (s : State) (e : MEntry) : Bool :=
  e.st = 1 && e.gang = x.g.arch.gang && match s.team? e.team with
    | some u => u.m == x.t.m && u.node == x.t.node && u.act == x.t.act && u.band == x.t.band
    | none => false

/-- A new entry: solo, or a gang's with its first member posted (R287, R290). -/
def newEntry (s : State) (x : Issue) (pseq : BitVec 16) : MEntry :=
  let v := x.g.arch.gang
  let head := match gangMembers v with | p :: _ => p | [] => (x.t.num, x.g.num)
  let pri := ((bandTeamNo s x.t head.1).getD x.t).prio
  { MEntry.free with
    st := if v = 0 then 2 else 1
    pseq := pseq
    pri := pri
    arr := if v = 0 then 0 else 1#6 <<< gangIndex v x.t.num x.g.num
    hold := BitVec.ofNat 7 (head.1 * 32 + head.2)
    gang := v
    team := x.t.uid }

/-- The entry with one more member posted; once all have, it waits (R287). A member that had released it before posts
anew. -/
def MEntry.post (e : MEntry) (k : Nat) : MEntry :=
  let arr := e.arr ||| (1#6 <<< k)
  let e := { e with rel := e.rel &&& ~~~(1#6 <<< k) }
  if (List.range (gangMembers e.gang).length).all fun i => arr.getLsbD i then { e with st := 2, arr := 0 } else { e with arr := arr }

/-- Give the group entry `i` and finish. -/
def reserveDone (s : State) (x : Issue) (f : EpForm) (i : Nat) : Res :=
  .done (finishPlain s x f.sp { x.g.putScalar f.p.toNat (BitVec.ofNat 64 i) with mentry := some i })

/-- `mreq`, waiting for a free entry or trying (R290). -/
def mreqOp (tryIt : Bool) (f : EpForm) (s : State) : Out :=
  withOps s f.sp { sw := [f.p.toNat] } fun s x =>
    let e := s.engine x.cluster
    match x.g.mentry with
    | some i => reserveDone s x f i
    | none =>
      match (List.range 16).find? fun i => x.g.arch.gang ≠ 0 && joins x s (e.entry i) with
      | some i =>
        let k := gangIndex x.g.arch.gang x.t.num x.g.num
        reserveDone (s.modEngine x.cluster fun e => e.modEntry i fun y => y.post k) x f i
      | none =>
        match (List.range 16).find? fun i => (e.entry i).st = 0 with
        | some i =>
          let y := newEntry s x e.nextPseq
          reserveDone (s.modEngine x.cluster fun e => { e.modEntry i fun _ => y with nextPseq := e.nextPseq + 1 }) x f i
        | none =>
          if tryIt then .done (finishPlain s x f.sp (x.g.putScalar f.p.toNat (BitVec.ofNat 64 (2 ^ 63)))) else .wait

/-- `mreq` (R290). -/
def execMreq (f : EpForm) (s : State) : Out := mreqOp false f s
/-- `mreq … try` (R290). -/
def execMreqTry (f : EpForm) (s : State) : Out := mreqOp true f s

/-! ## The rendezvous (R287) -/

/-- What a joint instruction meets: its turn; a wait; a wait that leaves something behind; MATRIX. -/
inductive Meet where
  | go
  | wait
  | came (s : State)
  | bad
  deriving DecidableEq, Repr

/-- The arrival of a member: kind 0 `mwl`, 1 `mpass`, 2 `mdrain`, 3 `mrel`. When all members of the gang that have not
released have arrived, they are released together. -/
def MEntry.arrive (e : MEntry) (k kind : Nat) : MEntry :=
  let arr := (if e.joint = some kind then e.arr else 0) ||| (1#6 <<< k)
  let all := (List.range (gangMembers e.gang).length).all fun i => arr.getLsbD i || (kind = 3 && e.rel.getLsbD i)
  if all then { e with arr := 0, go := arr, joint := some kind } else { e with arr := arr, joint := some kind }

/-- The entry once members whose groups have exited count as released: one that still gathers is complete when all others have
posted (R287, R296). -/
def MEntry.without (e : MEntry) (gone : BitVec 6) : MEntry :=
  let e := { e with rel := e.rel ||| gone }
  if e.st = 1 && gone ≠ 0 && (List.range (gangMembers e.gang).length).all fun i => (e.arr ||| e.rel).getLsbD i
  then { e with st := 2, arr := 0 } else e

/-- A member at the rendezvous latch of entry `i`, with its descriptor. A member the rendezvous has released leaves it and
goes on, which its split remembers with the descriptor of `MEM0`; once another has exited, before its `mreq` or after it, every
kind but `mrel` fails (R287, R296). -/
def meet (s : State) (x : Issue) (i kind : Nat) (d : DWord) : Meet :=
  let e0 := (s.engine x.cluster).entry i
  let gone := goneMembers s e0 x.t
  let e := e0.without gone
  let k := gangIndex e.gang x.t.num x.g.num
  let put (f : MEntry → MEntry) : State := s.modEngine x.cluster fun y => y.modEntry i fun z => f (z.without gone)
  if e.gang = 0 || x.sp.resume = kind + 1 then .go
  else if e.go.getLsbD k then
    if e.joint = some kind then
      .came (modSplit (put fun e => { e with go := e.go &&& ~~~(1#6 <<< k) }) x fun p => { p with resume := kind + 1, got := [(0, e.mwd)] })
    else .bad
  else if e.rel ≠ 0 && kind ≠ 3 then .bad
  else if e.st = 1 || e.go ≠ 0 then .wait
  else if e.arr ≠ 0 && e.joint ≠ some kind && !(kind = 3 && e.rel ≠ 0) then .bad
  else .came (put fun e => let e := if kind = 0 && k = 0 then { e with mwd := d } else e; e.arrive k kind)

/-! ## Posting an operation (R291, R292) -/

/-- Does a window of `n` lines from `off` lie in a region of a team? -/
def inRegion (t : Team) (code off n : Nat) : Bool := 128 * (off + n) ≤ regionSize t code

/-- BOUNDS of a window that begins `off` lines into its region (R292): its offset is the faulting address (log 74). -/
def windowBounds (off : Nat) : Res := .trap { kind := .bounds, addr := 128 * off }

/-- Post an operation: its number goes to `MSEQ` and sD, and the windows it names are touched (R269, R292); lane stores of
the group since its last `mrdy` it may see or not (R248). A touch stands behind the bank rows an access has still to reach (R200). -/
def postOp (s : State) (x : Issue) (f : EpqForm) (i mem named : Nat) (op : MOp) (g : MEntry → MEntry)
    (touch : List (Nat × Nat)) : Res :=
  if !touch.isEmpty && hasRest s x.g then .pause s
  else
  let id := s.nextId
  let n := x.g.mseq + 1
  let dst := match op with | .drain d => some (x.g.core, regionBase x.t 2 / 128 + dDoff d, x.t.gen) | _ => none
  let task : MTask := { core := x.g.core, slot := x.g.slot, mem := mem, team := x.t.uid, named := named, id := id, op := op, dst := dst }
  let task := { task with old := x.g.unready.filter fun o => (readLines s task).contains o.1 }
  let s := State.modEngine { s with nextId := id + 1 } x.cluster fun e => e.modEntry i fun y =>
    let y := g y
    { y with posted := y.posted ++ [task] }
  let s := finishPlain s x f.sp { x.g.putScalar f.q.toNat (BitVec.ofNat 64 n) with
    mseq := n, mposts := x.g.mposts ++ [⟨n, id, op, none, false⟩] }
  .done (touch.foldl (fun s w => touchKeys s x.g.core x.g.slot named (lineRun w.1 w.2)) s)

/-- The common part of the three operations: reserved bits, reservation, rendezvous (R287, R292); then `k` with the entry's
number, the entry and the member's index. -/
def matrixOp (kind : Nat) (f : EpqForm) (s : State) (reserved : DWord → Bool)
    (k : State → Issue → DWord → Nat → MEntry → Nat → Res) : Out :=
  withOps s f.sp { sr := [f.p.toNat], sw := [f.q.toNat] } fun s x =>
    let d := scalarReg s x f.p.toNat
    match x.g.mentry with
    | none => if reserved d then .trap (trapAll .illopnd) else matrixTrap
    | some i =>
      let e := (s.engine x.cluster).entry i
      match meet s x i kind d with
      | .bad => matrixTrap
      | .wait => .wait
      | .came s => .began s
      | .go =>
        let d := if kind = 0 && e.gang ≠ 0 then ((x.sp.got.head?).map (·.2)).getD e.mwd else d
        if reserved d then .trap (trapAll .illopnd)
        else k s x d i e (if e.gang = 0 then 0 else gangIndex e.gang x.t.num x.g.num)

/-- Does a weight descriptor fail the checks of R292? -/
def wBad (d : DWord) : Bool :=
  !wFormat (wFmt d) || 256 < wN d || wKmax (wFmt d) < wK d || (wSp d && wK d % 4 ≠ 0) || (wMx d && !wFloat (wFmt d))

/-- `mwl` (R286, R287, R292). Every member of a gang runs it on the descriptor of `MEM0`; the first loads the tile. -/
def execMwl (f : EpqForm) (s : State) : Out :=
  matrixOp 0 f s (fun d => d.extractLsb' 40 24 ≠ 0) fun s x d i _ mem =>
    match bandTeamNo s x.t (wTeam d) with
    | none => matrixTrap
    | some u =>
      if wBad d then matrixTrap
      else if !inRegion u 1 (wOff d) (wLines d) then windowBounds (wOff d)
      else if 4 ≤ x.g.openOps then .wait
      else postOp s x f i mem u.uid (.load d) (fun e => { e with wd := d }) (if mem = 0 then [(regionKey u 1 (wOff d), wLines d)] else [])

/-- Has an entry latched weights, or a load of them pending (R292)? -/
def MEntry.loads (e : MEntry) : Bool := e.wlt || e.posted.any fun t => match t.op with | .load _ => true | _ => false

/-- `mpass` (R277, R281, R292). -/
def execMpass (f : EpqForm) (s : State) : Out :=
  matrixOp 1 f s (fun d => d.extractLsb' 41 23 ≠ 0) fun s x d i e mem =>
    let msc := x.g.arch.msc
    let n := wN e.wd
    let k := wK e.wd
    let a := mscFmt msc
    match bandTeamNo s x.t (pTeam d) with
    | none => matrixTrap
    | some u =>
      if !e.loads then matrixTrap
      else match pairKmax (wFmt e.wd) a with
      | none => matrixTrap
      | some km =>
        if km < k || 1024 < pM d || (!wFloat (wFmt e.wd) && (wMx e.wd || mscMode msc ≠ 0)) then matrixTrap
        else
          let al := aLines a k (pM d) (mscMode msc = 2)
          if !inRegion u 2 (pAoff d) al then windowBounds (pAoff d)
          else if !inRegion x.t 3 (pCoff d) (cLines (pM d) n) then windowBounds (pCoff d)
          else if 4 ≤ x.g.openOps then .wait
          else postOp s x f i mem u.uid (.pass d msc e.wd) id [(regionKey u 2 (pAoff d), al)]

/-- The formats a drain accepts (R292). -/
def drainFmt (d : DWord) : Bool :=
  if dMx d then [8, 9, 10, 11, 12].contains (dFmt d) else [5, 6, 7, 8, 9, 0, 2].contains (dFmt d)

/-- `mdrain` (R292). -/
def execMdrain (f : EpqForm) (s : State) : Out :=
  matrixOp 2 f s (fun d => d.extractLsb' 52 12 ≠ 0) fun s x d i _ mem =>
    if !drainFmt d then matrixTrap
    else if !inRegion x.t 3 (dCoff d) (cLines (dM d) (dN d)) then windowBounds (dCoff d)
    else if !inRegion x.t 2 (dDoff d) (aLines (dFmt d) (dN d) (dM d) (dMx d)) then windowBounds (dDoff d)
    else if 4 ≤ x.g.openOps then .wait
    else postOp s x f i mem x.t.uid (.drain d) id []

/-! ## Waiting and releasing (R294) -/

/-- `mrdy` (R294): every lane store to a region has been performed when it issues, so it never waits; operations posted after
it read every such store (R248). -/
def execMrdy (f : EsForm) (s : State) : Out :=
  withOps s f.sp {} fun s x =>
    if hasRest s x.g then .wait else .done (finishPlain s x f.sp { x.g with unready := [] })

/-- `mwait` (R293, R294). -/
def execMwait (f : EpqForm) (s : State) : Out :=
  withOps s f.sp { sr := [f.p.toNat], sw := [f.q.toNat] } fun s x =>
    let m := min (scalarReg s x f.p.toNat).toNat x.g.mseq
    let mine := x.g.mposts.filter fun p => p.seq ≤ m
    if mine.any fun p => p.status.isNone then .wait
    else
      let bits := mine.foldl (fun (v : BitVec 16) p => v ||| p.status.getD 0) 0
      let v := bits.toNat + min mine.length 65535 * 65536
      .done (finishPlain s x f.sp { x.g.putScalar f.q.toNat (BitVec.ofNat 64 v) with
        mposts := x.g.mposts.filter fun p => m < p.seq })

/-- `mrel` (R287, R294). -/
def execMrel (f : EsForm) (s : State) : Out :=
  withOps s f.sp {} fun s x =>
    match x.g.mentry with
    | none => .done (finishPlain s x f.sp x.g)
    | some i =>
      if 0 < x.g.openOps then .wait
      else match meet s x i 3 0 with
      | .bad => matrixTrap
      | .wait => .wait
      | .came s => .began s
      | .go => .done (dropReservation (finishPlain s x f.sp x.g) x.g.core x.g.slot)

/-! ## The arbiter (R284) -/

/-- The next operation of each member that has not released, if all have posted one. -/
def MEntry.heads (e : MEntry) : Option (List MTask) :=
  let mems := if e.gang = 0 then [0] else (List.range (gangMembers e.gang).length).filter fun k =>
    !e.rel.getLsbD k || e.posted.any fun t => t.mem = k
  let hs := mems.map fun k => e.posted.find? fun t => t.mem = k
  if hs.isEmpty || hs.any Option.isNone then none else some (hs.filterMap fun h => h)

/-- Is the group an operation of entry `i` was posted by parked with the reservation kept (R296)? A released one's operations
complete (R49, R50). -/
def taskParked (s : State) (i : Nat) (t : MTask) : Bool :=
  match s.group? t.core t.slot with
  | some g => g.team == t.team && g.mentry == some i && g.parkedNow
  | none => false

/-- Has the group an operation of an earlier reservation still in flight in another entry? Its operations are granted in the order
it issued them (R285). -/
def taskBehind (en : Engine) (i : Nat) (t : MTask) : Bool :=
  (List.range 16).any fun j => j ≠ i && (en.entry j).posted.any fun p =>
    p.core == t.core && p.slot == t.slot && p.team == t.team && decide (p.id < t.id)

/-- Is an entry ready (R284, R285, R296)? -/
def entryReady (s : State) (en : Engine) (i : Nat) (e : MEntry) : Bool :=
  e.st = 2 && match e.heads with
    | none => false
    | some hs => !hs.any fun t => taskParked s i t || taskBehind en i t

/-- Effective priority of an entry. -/
def MEntry.eff (e : MEntry) : Nat := min 15 (e.pri + e.age)

/-- An entry passed over by a grant (R284). -/
def MEntry.passOver (e : MEntry) : MEntry :=
  if e.wait = 15 then { e with age := min 15 (e.age + 1), wait := 0 } else { e with wait := e.wait + 1 }

/-- The entry the arbiter picks: highest effective priority, earliest posting, lowest number (R284). -/
def arbiterPick (s : State) (e : Engine) : Option Nat :=
  leastBy (fun i => (((15 - (e.entry i).eff) * 2 ^ 16 + ((e.entry i).pseq - e.nextPseq).toNat) * 16 + i))
    ((List.range 16).filter fun i => entryReady s e i (e.entry i))

/-- The engine after a grant to entry `i` (R284). -/
def Engine.grant (e : Engine) (ready : Nat → MEntry → Bool) (i : Nat) : Engine :=
  { e with
    entries := e.entries.mapIdx fun j x =>
      if j = i then { x with st := 3, age := 0, wait := 0 } else if ready j x then x.passOver else x
    running := (e.entry i).heads.map fun hs => (i, hs) }

/-- MATRIX_GRANT (R284): the idle engine of cluster `a` grants. -/
def execMatrixGrant (s : State) : Out :=
  let e := s.engine s.ev.a
  if e.running.isSome then .next s
  else match arbiterPick s e with
  | none => .next s
  | some i => .next (s.modEngine s.ev.a fun e => e.grant (entryReady s e) i)

/-! ## Performing an operation (R285, R286, R292, R293) -/

/-- Load the tile a descriptor describes for entry `i` from the window at a key, read from memory `rd`. -/
def latchTile (rd s : State) (cl i key : Nat) (d : DWord) : State :=
  let tile := readTile rd key d
  s.modEngine cl fun e =>
    { e.modEntry i fun x => { x with wlt := true, lwd := d, lkey := key } with tile := some tile, lown := some i }

/-- The status of a weight load. -/
def loadStatus (t : Tile) : BitVec 16 := opStatus (if t.trn then Flag.trn else 0) (!t.bad.isEmpty) t.mde

/-- Can the engine perform a task now: are its operand lines full, and its C lines where it reads them (R286)? -/
def taskReady (s : State) (tile : Option Tile) (t : MTask) : Bool :=
  match s.team? t.team with
  | none => true
  | some own => match t.op with
    | .load _ => t.mem ≠ 0 || ((s.team? t.named).isSome && allFull s (readLines s t))
    | .pass d _ w => tile.isSome && (s.team? t.named).isSome && allFull s (readLines s t) &&
        (pAcc d || nonePending s (lineRun (regionKey own 3 (pCoff d)) (cLines (pM d) (wN w))))
    | .drain _ => allFull s (readLines s t)
    | .release => true

/-- Record the status of an operation for the group that posted it. -/
def recordStatus (s : State) (t : MTask) (v : BitVec 16) : State :=
  s.modGroup t.core t.slot fun g =>
    { g with mposts := mapWhere (fun p => p.id == t.id) (fun p => { p with status := some v }) g.mposts }

/-- The memory a task reads: each operand line as it stands, or as it was before one of the lane stores that `mrdy` has not
ordered or that came while the operation was in flight (free choice; R248, R295; log 57). -/
def oldMem (s : State) (t : MTask) : State × State :=
  t.old.foldl (fun acc o =>
    let n := acc.2.freeCount
    (if Config.freeChoice n then { acc.1 with lmem := memWriteLE acc.1.lmem (128 * o.1) 128 o.2.toNat } else acc.1,
      { acc.2 with freeCount := n + 1 })) (s, s)

/-- A drain whose team is gone: each of its lines is dropped and counted, but for one that lies in the allocation it was sent to
(R174, R296; log 25). -/
def dropDrain (s : State) (t : MTask) (d : DWord) : State :=
  match t.dst with
  | none => s
  | some (core, line, gen) => (List.range (aLines (dFmt d) (dN d) (dM d) (dMx d))).foldl (fun s i =>
      match teamAt s core (line + i) with
      | some u => if u.gen ≠ gen then dropArrival s core else s
      | none => dropArrival s core) s

/-- Perform one task. Where the team whose regions it writes is gone nothing is written; a drain then counts as dropped by
generation (R174, R296). -/
def runTask (s : State) (cl i : Nat) (t : MTask) : State :=
  let e := s.engine cl
  let notes := (e.entry i).touched
  match s.team? t.team with
  | none => match t.op with
    | .drain d => dropDrain s t d
    | _ => s
  | some own =>
    let (rd, s) := oldMem s t
    match t.op with
    | .load d =>
      let s := if t.mem ≠ 0 then s else match s.team? t.named with
        | some u => latchTile rd s cl i (regionKey u 1 (wOff d)) d
        | none => s
      match (s.engine cl).tile with
      | some tile => recordStatus s t (loadStatus tile)
      | none => recordStatus s t 0
    | .pass d msc _ => match e.tile, s.team? t.named with
      | some tile, some u =>
        let (s, v) := runPass rd s tile own u d msc notes
        recordStatus s t v
      | _, _ => recordStatus s t 0
    | .drain d =>
      let (s, v) := runDrain rd s own d notes
      recordStatus s t v
    | .release => s

/-- The C elements stored to that an operation still in flight owned at the store; where operations `hs` owned them too, what
they left is now the value before, and the value stored is kept beside it (R285, R295). `old` is the state before them. -/
def MEntry.untouch (old s : State) (hs : List MTask) (e : MEntry) : MEntry :=
  { e with touched := (e.touched.filter fun t => e.posted.any fun p => p.id < t.born && opOwns s true t.key p).map fun t =>
      if !hs.any (opOwns s true t.key) then t
      else
        let st := t.stored.getD (memReadLE old.lmem t.key 4)
        let now := memReadLE s.lmem t.key 4
        { t with before := now, stored := if now = st then none else some st } }

/-- Is the tile of entry `i` to be reloaded before its operation (R286)? -/
def needsReload (e : Engine) (i : Nat) (hs : List MTask) : Bool :=
  (e.entry i).wlt && e.lown ≠ some i && !hs.any fun t => match t.op with | .load _ => true | _ => false

/-- The tile of an entry reloaded from the window it was loaded from, or none while a line of it is not full: whether the
group that loaded it is still there does not matter. -/
def reload (s : State) (cl i : Nat) (hs : List MTask) : Option State :=
  let x := (s.engine cl).entry i
  if !needsReload (s.engine cl) i hs then some s
  else if allFull s (lineRun x.lkey (wLines x.lwd)) then some (latchTile s s cl i x.lkey x.lwd) else none

/-- The engine goes idle; the entry waits again, or is freed once released by all (R284, R294). `old` is the state before the
operations. -/
def endOps (old s : State) (cl i : Nat) (hs : List MTask) : State :=
  s.modEngine cl fun e =>
    let e := e.modEntry i fun x => { x with st := 2, posted := x.posted.filter fun t => !hs.any fun h => h.id == t.id }
    Engine.reap { e with entries := e.entries.map (MEntry.untouch old s hs), running := none } i

/-- MATRIX_OPERATION_COMPLETE (R285, R286): the operation in progress on cluster `a`, once its operand lines are full, is
performed: the members of a gang in member order. -/
def execMatrixOperationComplete (s : State) : Out :=
  let cl := s.ev.a
  match (s.engine cl).running with
  | none => .next s
  | some (i, hs) => match reload s cl i hs with
    | none => .next s
    | some s' =>
      if !hs.all (taskReady s' (s'.engine cl).tile) then .next s
      else .next (endOps s' (hs.foldl (fun s t => runTask s cl i t) s') cl i hs)

end Sys2Proof.Machine
end

