-- ==== Sys2Proof/Machine/Pcie.lean ====
section
/-!
DEFINITION. Requests of PCIe endpoints at the root ports (23_host_fabric_and_bring_up.md R349): translation slots, the
accesses, and requests a page fault holds.
-/
namespace Sys2Proof.Machine

/-- A slot's virtual function, translation context and level-0 table, if it is valid (Table Host 3). -/
def slotCtx (s : State) (m port slot : Nat) : Option Ctx :=
  let v := nth (s.mod m).slots (16 * port + slot) 0
  if port < 4 && slot < 16 && v.getLsbD 12 then
    some ⟨m, (v.extractLsb' 59 5).toNat, (v.extractLsb' 0 12).toNat, (v.extractLsb' 13 39).toNat * 8192, 0⟩
  else none

/-! ## Accesses under the policy of their pages (R186, R190) -/

/-- The pieces of an access within lines: address and size. -/
def agentPieces : Nat → Nat → Nat → List (Nat × Nat)
  | 0, _, _ => []
  | fuel + 1, va, n =>
    if n = 0 then [] else
      let k := min n (128 - va % 128)
      (va, k) :: agentPieces fuel (va + k) (n - k)

/-- The pieces of `n` bytes from an address. -/
def piecesOf (va n : Nat) : List (Nat × Nat) := agentPieces (n + 1) va n

/-- The first page fault of an access. -/
def agentFault (s : State) (c : Ctx) (need : Need) (va n : Nat) : Option PageFault :=
  (piecesOf va n).findSome? fun p => match translate s c need (p.1 % 2 ^ 56) with
    | .error f => some f
    | .ok _ => none

/-- The words of a sketch region that a piece covers whole: address and offset in the piece (R190, R209). Bytes beside them
change nothing and are read as free values (log 47). -/
def wordsIn (va n : Nat) : List (Nat × Nat) :=
  let first := (4 - va % 4) % 4
  (List.range ((n - first) / 4)).map fun i => (va + first + 4 * i, first + 4 * i)

/-- The words of a sketch region in a piece, with their descriptor, base and slot. -/
def sketchWords (s : State) (c : Ctx) (skd va n : Nat) : List (SkDesc × Nat × Nat × Nat) :=
  match skBase s c.m c.vf skd with
  | some (d, base) => (wordsIn va n).map fun w => (d, base, sketchSlot s c skd w.1, w.2)
  | none => []

/-- Does the home of a line let an agent of a module wait: no path, a round, a holder cut off, sharers still to be told,
translations under way through the line it writes (R187, R245, R254, R256)? -/
def lineWaits (s : State) (m : Nat) (write : Bool) (line : Nat) : Bool :=
  noPath s m (lineMod line) || homeWaits s line write || (write && tableBusy s line s.nextId)

/-- The lines of memory an access of an agent reads or writes. -/
def agentLines (s : State) (c : Ctx) (need : Need) (va n : Nat) : List Nat :=
  (piecesOf va n).flatMap fun p => match translate s c need (p.1 % 2 ^ 56) with
    | .ok g =>
      if g.ty = 2 then (sketchWords s c g.skd p.1 p.2).flatMap fun w =>
        spanLines (if need = .write then w.1.allSpans w.2.1 else w.1.querySpans w.2.1 (BitVec.ofNat 64 w.2.2.1))
      else match g.phys with
        | .dram ga => [ga / 128]
        | _ => []
    | .error _ => []

/-- Does a line of an access wait? -/
def agentWaits (s : State) (c : Ctx) (need : Need) (va n : Nat) : Bool :=
  (agentLines s c need va n).any (lineWaits s c.m (decide (need = .write)))

/-- An access that waits has reached the homes to which a path leads (R245, R254). -/
def agentReach (s : State) (c : Ctx) (need : Need) (va n : Nat) : State :=
  reachHomes s (decide (need = .write)) ((agentLines s c need va n).filter fun l => !noPath s c.m (lineMod l))

/-- Write the bytes of a piece: to memory under the page's policy, an insert for each word of a sketch region. -/
def agentWritePiece (s : State) (c : Ctx) (va : Nat) (bs : List Byte) : State :=
  match translate s c .write (va % 2 ^ 56) with
  | .error _ => s
  | .ok g =>
    if g.ty = 2 then (sketchWords s c g.skd va bs.length).foldl (fun s w =>
      let v := ofBytes ((bs.drop w.2.2.2).take 4)
      skInsert s w.1 w.2.1 (BitVec.ofNat 64 w.2.2.1) v (BitVec.ofNat 32 v)) s
    else match g.phys with
      | .dram ga => outerWriteLine s (originOf s c g) g.wtag ga bs
      | _ => s

/-- Write bytes. -/
def agentWrite (s : State) (c : Ctx) (va : Nat) (bs : List Byte) : State :=
  ((piecesOf va bs.length).foldl (fun (acc : State × List Byte) p =>
    (agentWritePiece acc.1 c p.1 (acc.2.take p.2), acc.2.drop p.2)) (s, bs)).1

/-- Read the bytes of a piece. -/
def agentReadPiece (s : State) (c : Ctx) (va n : Nat) : List Byte × State :=
  let free := leBytes n (freeLine s.freeCount).toNat
  let open_ : List Byte × State := (free, { s with freeCount := s.freeCount + 4 })
  match translate s c .read (va % 2 ^ 56) with
  | .error _ => open_
  | .ok g =>
    if g.ty = 2 then (sketchWords s c g.skd va n).foldl (fun (acc : List Byte × State) w =>
      let key := w.2.2.1
      let s := (w.1.queryLines w.2.1 (BitVec.ofNat 64 key)).foldl (fun s ln => quiesce s w.1.origin ln false) acc.2
      let v := w.1.query w.2.1 s.mem (BitVec.ofNat 64 key) key
      (acc.1.take w.2.2.2 ++ leBytes 4 v ++ acc.1.drop (w.2.2.2 + 4), s)) open_
    else match g.phys with
      | .dram ga => let (v, s) := homeRead s (originOf s c g) ga n; (leBytes n v, s)
      | _ => open_

/-- Read bytes. -/
def agentRead (s : State) (c : Ctx) (va n : Nat) : List Byte × State :=
  (piecesOf va n).foldl (fun (acc : List Byte × State) p =>
    let (bs, s) := agentReadPiece acc.2 c p.1 p.2
    (acc.1 ++ bs, s)) ([], s)

/-! ## Requests (R349) -/

/-- Bytes of a request. -/
def reqSize (r : PcieReq) : Nat := match r.data with | some bs => bs.length | none => r.size

/-- What a request needs of its pages. -/
def reqNeed (r : PcieReq) : Need := if r.data.isSome then .write else .read

/-- The first page fault of a request. -/
def reqFault (s : State) (c : Ctx) (r : PcieReq) : Option PageFault := agentFault s c (reqNeed r) r.va.toNat (reqSize r)

/-- Does a request wait at a home? -/
def reqWaits (s : State) (c : Ctx) (r : PcieReq) : Bool := agentWaits s c (reqNeed r) r.va.toNat (reqSize r)

/-- A request that waits has reached its homes. -/
def reqReach (s : State) (c : Ctx) (r : PcieReq) : State := agentReach s c (reqNeed r) r.va.toNat (reqSize r)

/-- The completion of a request sent last. -/
def pcieAnswer (s : State) (m : Nat) (r : PcieReply) : State := s.modMod m fun x => { x with pcie := r }

/-- Perform a request whose pages translate; it completes successfully. -/
def pciePerform (s : State) (c : Ctx) (r : PcieReq) : State :=
  match r.data with
  | some bs => pcieAnswer (agentWrite s c r.va.toNat bs) c.m (.success [])
  | none =>
    let (bs, s) := agentRead s c r.va.toNat r.size
    pcieAnswer s c.m (.success bs)

/-- Report the page fault of a request to the supervisor node of its port (R334, R349): true when it could not be. The core
and slot of the record are no group's: free (log 26). -/
def pcieReport (s : State) (c : Ctx) (port : Nat) (r : PcieReq) (f : PageFault) : State × Bool :=
  let pr : Pair := ⟨c.m, c.vf, c.ctx, f.page⟩
  if s.pairs.contains pr then (s, false)
  else
    let sup := (nth (s.mod c.m).psup port 0).toNat
    let e := nodeEntry s c.m sup
    if sup < 0x3FF && e.assigned && (s.queue c.m sup).enAt s.cyc then
      let who := (Config.freeWord s.freeCount).toNat
      let bs := recordBytes 2 sup e.part c.vf (f.page * 65536) (c.ctx + who % 2 ^ 12 * 2 ^ 16 + who / 2 ^ 12 % 64 * 2 ^ 32)
        (2 + r.data.isSome.toNat * 4 + f.poisoned.toNat * 16)
      (deliverRecord { s with pairs := s.pairs ++ [pr], freeCount := s.freeCount + 1 } c.m sup sup bs, false)
    else (s, true)

/-- Hold a request: on a page, or, `ready`, only until its lines can be accessed. -/
def holdPcie (s : State) (m port slot page : Nat) (ready : Bool) (r : PcieReq) : State :=
  State.modMod { s with nextId := s.nextId + 1 } m fun x =>
    { x with heldPcie := x.heldPcie ++ [⟨s.nextId, port, slot, page, r, ready⟩] }

/-- A request under its slot's context: held on a page fault, reported unless `again` says that page was resolved; held
until its lines can be accessed; or performed (R334, R349). -/
def pcieTry (s : State) (c : Ctx) (port slot : Nat) (again : Option Nat) (r : PcieReq) : State :=
  match reqFault s c r with
  | some f =>
    if again = some f.page && !s.pairs.contains ⟨c.m, c.vf, c.ctx, f.page⟩ then pcieAnswer s c.m .completerAbort
    else
      let (s, dead) := pcieReport s c port r f
      if dead then pcieAnswer s c.m .completerAbort else holdPcie s c.m port slot f.page false r
  | none => if reqWaits s c r then holdPcie (reqReach s c r) c.m port slot 0 true r else pciePerform s c r

/-- PCIE_REQUEST (R349): request `pcie` arrives at root port `b` of module `a`. -/
def execPcieRequest (s : State) : Out :=
  let m := s.ev.a
  let port := s.ev.b
  match s.ev.pcie with
  | none => .next s
  | some r =>
    let slot := r.pasid.getD 0
    match (if 15 < slot then none else slotCtx s m port slot) with
    | none => .next (pcieAnswer s m .unsupportedRequest)
    | some c => .next (pcieTry s c port slot none r)

/-- COMPLETION_TIMEOUT (R349): held request number `b` of module `a` runs out of time; no byte of it is performed. -/
def execCompletionTimeout (s : State) : Out :=
  match (s.mod s.ev.a).heldPcie[s.ev.b]? with
  | none => .next s
  | some h => .next (pcieAnswer (s.modMod s.ev.a fun x => { x with heldPcie := x.heldPcie.filter fun y => y.id ≠ h.id }) s.ev.a .completerAbort)

/-- A held request tried again; `again` names the page just resolved (R334, R349). -/
def retryHeld (s : State) (m : Nat) (again : Option Nat) (dead : Bool) (h : HeldPcie) : State :=
  let s := s.modMod m fun x => { x with heldPcie := x.heldPcie.filter fun y => y.id ≠ h.id }
  match slotCtx s m h.port h.slot with
  | none => pcieAnswer s m .completerAbort
  | some c => if dead then pcieAnswer s m .completerAbort else pcieTry s c h.port h.slot again h.req

/-- Requests that wait only for lines go on as soon as these can be accessed. -/
def settlePcie (s : State) : State :=
  s.modules.foldl (fun s x => (x.heldPcie.filter (·.ready)).foldl (fun s h => match slotCtx s x.num h.port h.slot with
    | some c => if (reqFault s c h.req).isNone && reqWaits s c h.req then reqReach s c h.req else retryHeld s x.num none false h
    | none => retryHeld s x.num none false h) s) s

/-- The held requests of a pair that has been resolved (R334, R349). -/
def resolvePcie (s : State) (pr : Pair) (dead : Bool) : State :=
  ((s.mod pr.m).heldPcie.filter fun h => !h.ready && h.page = pr.page && match slotCtx s pr.m h.port h.slot with
    | some c => c.vf = pr.vf && c.ctx = pr.ctx
    | none => false).foldl (fun s h => retryHeld s pr.m (some pr.page) dead h) s

end Sys2Proof.Machine
end

