-- ==== Sys2Proof/Machine/Tables.lean ====
section
/-!
DEFINITION. The region table's instructions and the chunk graphs of a die's fabric unit (17_tables.md R297 to R300, R306 to
R308; 12_ordering_far_agents_and_engines.md R249).
-/
namespace Sys2Proof.Machine

/-! ## Region table (R298, R300) -/

/-- Do the image words of a region entry have an error of their own: reserved bits, `SRC`, `WRG`, `FMT` (R298)? -/
def Region.illFormed (r : Region) : Bool :=
  r.w0.extractLsb' 56 8 ≠ 0 || r.w2.extractLsb' 31 33 ≠ 0 || r.src = 3 || !([1, 2, 4].contains r.wrg) || r.fmt = 15

/-- Does a window exceed its region, or overlap a sealed window of the team (R298)? -/
def windowBad (t : Team) (r : Region) : Bool :=
  regionSize t r.wrg < 128 * (r.woff + (r.rows - 1) * r.stride + r.perRow) ||
  t.regions.any fun q => q.sealed && (q.keys t).any fun k => (r.keys t).contains k

/-- Does `MC` name a core other than the issuer's with no team of the band (R298)? -/
def castBad (s : State) (t : Team) (r : Region) : Bool :=
  (List.range 4).any fun c => r.mc.getLsbD c && c ≠ t.core % 4 && (bandTeam s t (t.core - t.core % 4 + c)).isNone

/-- Make local lines empty (R173). -/
def emptyLines (s : State) (ks : List Nat) : State :=
  let s := ks.foldl State.emptyLine s
  { s with lpoison := s.lpoison.filter fun k => !ks.contains k }

/-- `bind` (R298). -/
def execBind (f : EpqForm) (s : State) : Out :=
  let q := f.q.toNat
  let e := f.p.toNat
  withOps s f.sp { sr := [q, q + 1, q + 2] } fun s x =>
    if 61 < q then .trap (trapAll .illopnd)
    else
      let old := x.t.region e
      let r : Region := { old with w0 := scalarReg s x q, w1 := scalarReg s x (q + 1), w2 := scalarReg s x (q + 2), st := 1 }
      if old.sealed || r.illFormed || windowBad x.t r || castBad s x.t r then .trap (trapAll .illopnd)
      else if old.st = 2 then .wait
      else if hasRest s x.g then .pause s
      else
        let s := (finishPlain s x f.sp x.g).modRegion x.t.uid e fun _ => r
        .done (emptyLines s (r.keys x.t))

/-- `unbind` (R298). -/
def execUnbind (f : EpForm) (s : State) : Out :=
  withOps s f.sp {} fun s x =>
    let r := x.t.region f.p.toNat
    if r.st = 2 then .wait
    else if r.sealed then .trap (trapAll .illopnd)
    else .done ((finishPlain s x f.sp x.g).modRegion x.t.uid f.p.toNat fun r => { r with st := 0 })

/-- The handle of a seal (R300). -/
def sealHandle (t : Team) (e : Nat) (seq : BitVec 16) : DWord :=
  BitVec.ofNat 64 (t.core % 64 + e * 64 + t.gen.toNat * 2 ^ 16 + seq.toNat * 2 ^ 32)

/-- `seal` (R300). Every lane store to the window has been performed at its bank when it issues. -/
def execSeal (f : EpqForm) (s : State) : Out :=
  let e := f.p.toNat
  withOps s f.sp { sw := [f.q.toNat] } fun s x =>
    let r := x.t.region e
    if r.st = 0 || r.st = 2 then .trap (trapAll .illopnd)
    else if hasRest s x.g then .pause s
    else
      let seq := (s.core x.g.core).sealSeq + 1
      let s := finishPlain s x f.sp (x.g.putScalar f.q.toNat (sealHandle x.t e seq))
      let s := s.modCore x.g.core fun c => { c with sealSeq := seq }
      .done (s.modRegion x.t.uid e fun r => { r with sealed := true, ssq := seq })

/-- `unseal` (R300). -/
def execUnseal (f : EpForm) (s : State) : Out :=
  withOps s f.sp {} fun s x =>
    if 0 < (x.t.region f.p.toNat).rcnt then .wait
    else .done ((finishPlain s x f.sp x.g).modRegion x.t.uid f.p.toNat fun r => { r with sealed := false })

/-! ## Chunks (Table Tables 8) -/

namespace Chunk
/-- Fields of a chunk. -/
def op (c : Chunk) : Nat := (c.extractLsb' 0 4).toNat
/-- See `op`. -/
def sb (c : Chunk) : Nat := (c.extractLsb' 4 3).toNat
/-- See `op`. -/
def db (c : Chunk) : Nat := (c.extractLsb' 7 3).toNat
/-- See `op`. -/
def sm (c : Chunk) : Nat := (c.extractLsb' 10 4).toNat
/-- See `op`. -/
def dm (c : Chunk) : Nat := (c.extractLsb' 14 4).toNat
/-- See `op`. -/
def dep (c : Chunk) : Nat := (c.extractLsb' 18 8).toNat
/-- See `op`. -/
def cb (c : Chunk) : Nat := (c.extractLsb' 26 3).toNat
/-- See `op`. -/
def ce (c : Chunk) : Bool := c.getLsbD 29
/-- See `op`. -/
def ns (c : Chunk) : Nat := (c.extractLsb' 30 2).toNat
/-- Lines of the chunk. -/
def lines (c : Chunk) : Nat := (c.extractLsb' 32 16).toNat + 1
/-- See `op`. -/
def soff (c : Chunk) : DWord := c.extractLsb' 64 64
/-- See `op`. -/
def doff (c : Chunk) : DWord := c.extractLsb' 128 64
/-- See `op`. -/
def coff (c : Chunk) : DWord := c.extractLsb' 192 64
/-- The chunks it names as successors, each once. -/
def sucs (c : Chunk) : List Nat :=
  (([(c.extractLsb' 48 8).toNat, (c.extractLsb' 56 8).toNat] : List Nat).take c.ns).eraseDups
/-- Does it hold staging lines (R307)? -/
def staged (c : Chunk) : Bool := (c.op = 1 || c.op = 2) && c.sm ≠ c.dm
end Chunk

/-- Staging lines of a graph (R307). -/
def stageLines (cs : List Chunk) : Nat := (cs.filter Chunk.staged).foldl (fun n c => n + c.lines) 0

/-- Chunks that name chunk `i` as a successor. -/
def predsOf (cs : List Chunk) (i : Nat) : List Nat := (List.range cs.length).filter fun j => (nth cs j 0).sucs.contains i

/-- Can the chunks be put in order: taking away, again and again, those whose predecessors are gone, leaves none? -/
def acyclic (cs : List Chunk) : Bool :=
  let step (gone : List Nat) : List Nat := (List.range cs.length).filter fun i => (predsOf cs i).all fun j => gone.contains j
  ((List.range cs.length).foldl (fun gone _ => step gone) []).length = cs.length

/-- Is a graph one `cgload` refuses (R307)? -/
def graphBad (s : State) (cs : List Chunk) : Bool :=
  cs.zipIdx.any (fun p =>
    3 < p.1.op || p.1.dep ≠ (predsOf cs p.2).length || p.1.sucs.any (fun k => cs.length ≤ k) || p.1.ns = 3 ||
    !s.inFabric p.1.sm || !s.inFabric p.1.dm || p.1.coff.toNat % 8 ≠ 0) ||
  !acyclic cs || 131072 < stageLines cs

/-! ## `cgload` (R307) -/

/-- What reading bytes as a plain load comes to (R198). -/
inductive PlainRead where
  | data (v : Nat) (s : State)
  | stop (r : Res)

/-- The pieces of a run of bytes, within lines. -/
def cutRun : Nat → Nat → Nat → List (Nat × Nat)
  | 0, _, _ => []
  | fuel + 1, va, n => if n = 0 then [] else
      let k := min n (128 - va % 128)
      (va, k) :: cutRun fuel (va + k) (n - k)

/-- Read bytes of global memory as plain loads of a scalar access would: faults hold the group, poison traps, a line in a
round waits, and so does an acquire of the group under way (R198, R202, R221). A leased copy the core holds does not stay behind what is read (R233). -/
def plainRead (s : State) (x : Issue) (va n : Nat) : PlainRead :=
  let found := (cutRun (n / 128 + 2) va n).map fun p => (p, translateFor s x true .read (p.1 % 2 ^ 56))
  let faults : List (LaneOp × PageFault) := found.filterMap fun p => match p.2 with
    | .error f => some (⟨0, p.1.1, 0, 0⟩, f)
    | .ok _ => none
  if !faults.isEmpty then .stop (scalarTrap (holdFaults s x false faults))
  else
    let ga (p : (Nat × Nat) × Except PageFault Page) : Option (Nat × Page) := match p.2 with
      | .ok g => match g.phys with | .dram a => some (a, g) | _ => none
      | .error _ => none
    let at_ := found.filterMap ga
    match at_.find? fun p => s.poison.contains (p.1 / 128), at_.find? fun p => cutOff s x.m (lineMod (p.1 / 128)) with
    | some _, _ => .stop (.trap { kind := .poison, addr := va })
    | _, some _ => .stop (.trap { kind := .unreach, addr := va })
    | none, none =>
      if at_.any (fun p => homeWaits s (p.1 / 128) false || noPath s x.m (lineMod (p.1 / 128)) ||
          earlierReq s x (p.1 / 128) || meetsPacket s x.g.core x.g.slot (p.1 / 128)) ||
        meetsLog s x.g.core x.g.slot va n || copyHolds s x.g.core x.g.slot (va % 2 ^ 56) n ||
        x.g.txns.any (fun t => t.acquire.isSome) then
        .stop (.held (reachHomes s false ((at_.map fun p => p.1 / 128).filter fun l => !noPath s x.m (lineMod l))))
      else
        let (v, s, _) := found.foldl (fun (acc : Nat × State × Nat) p =>
          let (v, s) := match ga p with
            | some (a, g) =>
              let (v, s) := homeRead acc.2.1 (originOf acc.2.1 x.t.tctx g) a p.1.2
              (v, refreshLease s x.g.core (a / 128) ((BitVec.allOnes 128 >>> (128 - p.1.2)) <<< (a % 128)))
            | none => ((freeLine acc.2.1.freeCount).toNat % 2 ^ (8 * p.1.2), { acc.2.1 with freeCount := acc.2.1.freeCount + 4 })
          (acc.1 + v * 2 ^ (8 * acc.2.2), s, acc.2.2 + p.1.2)) (0, s, 0)
        .data v s

/-- The graph in a slot of a die. -/
def State.graph? (s : State) (die slot : Nat) : Option Graph := s.graphs.find? fun g => g.die == die && g.slot == slot

/-- The lowest free graph slot of a die (R325). -/
def freeGraphSlot (s : State) (die : Nat) : Option Nat := (List.range 64).find? fun i => (s.graph? die i).isNone

/-- `cgload` (R306, R307). -/
def execCgload (f : EpqForm) (s : State) : Out :=
  withOps s f.sp { sr := [f.p.toNat], sw := [f.q.toNat] } fun s x =>
    let v := scalarReg s x f.p.toNat
    let die := coreDie x.g.core
    let answer (s : State) (n : Nat) : State := finishPlain s x f.sp (x.g.putScalar f.q.toNat (BitVec.ofNat 64 n))
    if v.getLsbD 63 then
      let slot := (v.extractLsb' 0 6).toNat
      match s.graph? die slot with
      | none => .done (answer s 0)
      | some g =>
        if g.vf ≠ x.t.vf then .trap (trapAll .illopnd)
        else if s.runs.any fun r => r.die == die && r.slot == slot then .wait
        else .done (answer { s with graphs := s.graphs.filter fun g => !(g.die == die && g.slot == slot) } 0)
    else match plainRead s x v.toNat 64 with
    | .stop r => r
    | .data h _ =>
      let n := h % 256 + 1
      match plainRead s x v.toNat (64 + 32 * n) with
      | .stop r => r
      | .data img s =>
        let cs : List Chunk := (List.range n).map fun i => BitVec.ofNat 256 (img / 2 ^ (512 + 256 * i))
        match freeGraphSlot s die with
        | none => .trap (trapAll .illopnd)
        | some slot =>
          if graphBad s cs then .trap (trapAll .illopnd)
          else .done (answer { s with graphs := s.graphs ++ [⟨die, slot, x.t.vf, cs⟩] } slot)

/-! ## `cgrun` and `cgwait` (R307) -/

/-- Post a run (R307). -/
def postRun (s : State) (x : Issue) (f : EpqkForm) (slot : Nat) : State :=
  let k := f.k.toNat
  let id := s.nextId
  let n := x.g.cseq + 1
  let run : CRun := {
    id := id, die := coreDie x.g.core, slot := slot, core := x.g.core, gslot := x.g.slot, seq := n, vf := x.t.vf
    ctx := x.t.ctx, l0 := x.t.l0, pl := x.t.pl, node := x.t.node
    ordinal := ((scalarReg s x f.p.toNat).extractLsb' 32 32).toNat
    bases := (List.range 8).map fun i => if i < k then scalarReg s x (f.p.toNat + 1 + i) else 0
    active := false, states := [], poison := false, skipped := false, lost := false, failed := [], retried := [] }
  let g := { x.g.putScalar f.q.toNat (BitVec.ofNat 64 n) with cseq := n, cruns := x.g.cruns ++ [⟨n, id, none, false⟩] }
  finishPlain { s with runs := s.runs ++ [run], nextId := id + 1 } x f.sp g

/-- `cgrun` (R247, R307). -/
def execCgrun (f : EpqkForm) (s : State) : Out :=
  let p := f.p.toNat
  let k := f.k.toNat
  withOps s f.sp { sr := (List.range (min k 8 + 1)).map (p + ·), sw := [f.q.toNat] } fun s x =>
    let slot := ((scalarReg s x p).extractLsb' 0 6).toNat
    if 8 < k || 63 < p + k || !((s.graph? (coreDie x.g.core) slot).any fun g => g.vf == x.t.vf) then .trap (trapAll .illopnd)
    else withRelease s x (oscOf x.g) fun s => .done (postRun s x f slot)

/-- `cgwait` (R247, R307). -/
def execCgwait (f : EpqForm) (s : State) : Out :=
  withOps s f.sp { sr := [f.p.toNat], sw := [f.q.toNat] } fun s x =>
    let m := min (scalarReg s x f.p.toNat).toNat x.g.cseq
    let mine := x.g.cruns.filter fun r => r.seq ≤ m
    if mine.any fun r => r.status.isNone then .wait
    else
      let v : DWord := mine.foldl (fun v r => v ||| r.status.getD 0) 0 ||| BitVec.ofNat 64 (mine.length % 2 ^ 16 * 2 ^ 32)
      let g := { x.g.putScalar f.q.toNat v with cruns := x.g.cruns.filter fun r => m < r.seq }
      .done (withAcquire (finishPlain s x f.sp g) x)

/-! ## Runs (R308) -/

/-- The chunks of a run. -/
def runChunks (s : State) (r : CRun) : List Chunk := ((s.graph? r.die r.slot).map (·.chunks)).getD []
/-- A run by its number. -/
def State.run? (s : State) (id : Nat) : Option CRun := s.runs.find? fun r => r.id == id
/-- Replace a run by `f` of it. -/
def State.modRun (s : State) (id : Nat) (f : CRun → CRun) : State := { s with runs := mapWhere (fun r => r.id == id) f s.runs }

/-- Staging lines of a die in use. -/
def stagedLines (s : State) (die : Nat) : Nat :=
  (s.runs.filter fun r => r.die == die && r.active).foldl (fun n r => n + stageLines (runChunks s r)) 0

/-- May a run activate (R308)? -/
def activates (s : State) (r : CRun) : Bool :=
  !r.active && stagedLines s r.die + stageLines (runChunks s r) ≤ 131072 &&
  s.runs.all fun q => q.die != r.die || q.active || q.id == r.id || r.ordinal < q.ordinal || (r.ordinal == q.ordinal && r.id < q.id)

/-- RUN_ACTIVATE (R308): run `a` takes its staging; its chunks without predecessors start. -/
def execRunActivate (s : State) : Out :=
  match s.run? s.ev.a with
  | none => .next s
  | some r =>
    if activates s r then
      .next (s.modRun r.id fun r => { r with
        active := true
        states := (runChunks s r).map fun c => if c.dep = 0 then ChunkState.started else .waiting c.dep })
    else .next s

/-- Is a chunk over? -/
def ChunkState.over : ChunkState → Bool
  | .done => true
  | .skipped => true
  | _ => false

/-- A run whose chunks are all over completes: its group learns its status and its staging is free (R307, R308). -/
def endRun (s : State) (id : Nat) : State :=
  match s.run? id with
  | none => s
  | some r =>
    if !r.active || !r.states.all ChunkState.over then s
    else
      let v : DWord := BitVec.ofNat 64 (r.poison.toNat + 2 * r.skipped.toNat + 4 * r.lost.toNat)
      let s := s.modGroup r.core r.gslot fun g =>
        { g with cruns := mapWhere (fun q => q.id == id) (fun q => { q with status := some v }) g.cruns }
      { s with runs := s.runs.filter fun q => q.id ≠ id }

/-- The context a chunk's address translates under on a module (R306, R308). -/
def CRun.tctx (r : CRun) (m : Nat) : Ctx := ⟨m, r.vf, r.ctx, r.l0, r.pl⟩

/-- An address of a chunk: base plus signed offset. -/
def chunkVa (r : CRun) (b : Nat) (off : DWord) : Nat := (nth r.bases b 0 + off).toNat % 2 ^ 56

/-- A run of bytes an access of a chunk touches: context, need, pieces (address, size). -/
structure ChunkSpan where
  c : Ctx
  need : Need
  pieces : List (Nat × Nat)

/-- Line `j` of a chunk's source or destination, or its counter. -/
def chunkSpan (r : CRun) (m : Nat) (need : Need) (va n : Nat) : ChunkSpan := ⟨r.tctx m, need, cutRun 4 va n⟩

/-- Everything a chunk touches. -/
def chunkSpans (r : CRun) (c : Chunk) : List ChunkSpan :=
  (if c.op = 3 then [] else (List.range c.lines).flatMap fun j =>
    [chunkSpan r c.sm .read (chunkVa r c.sb c.soff + 128 * j) 128, chunkSpan r c.dm .write (chunkVa r c.db c.doff + 128 * j) 128]) ++
  (if c.ce then [chunkSpan r c.dm .write (chunkVa r c.cb c.coff) 8] else [])

/-- Where an address of chunk `i` of a run lies: a page resolved unmappable for the chunk stays so, whatever its entry says by then
(R308, R334). -/
def chunkPage (s : State) (r : CRun) (i : Nat) (c : Ctx) (need : Need) (va : Nat) : Except PageFault Page :=
  if r.failed.contains (i, va % 2 ^ 56 / 65536) then .error ⟨va % 2 ^ 56 / 65536, false⟩ else translate s c need (va % 2 ^ 56)

/-- The faults of a span that are not yet resolved as unmappable. -/
def spanFaults (s : State) (r : CRun) (i : Nat) (p : ChunkSpan) : List (ChunkSpan × PageFault) :=
  p.pieces.filterMap fun q => match chunkPage s r i p.c p.need q.1 with
    | .error f => if r.failed.contains (i, f.page) then none else some (p, f)
    | .ok _ => none

/-- The global addresses a span reaches. -/
def spanGas (s : State) (r : CRun) (i : Nat) (p : ChunkSpan) : List Nat :=
  p.pieces.filterMap fun q => match chunkPage s r i p.c p.need q.1 with
    | .ok g => match g.phys with | .dram a => some a | _ => none
    | .error _ => none

/-- Report the first fault of a chunk: the chunk is held, or the page counts as unmappable at once (R308, R334). -/
def chunkFault (s : State) (r : CRun) (i : Nat) (p : ChunkSpan) (f : PageFault) : State :=
  let m := coreMod r.core
  let dead := r.retried.contains (i, f.page) && !s.pairs.contains ⟨m, r.vf, r.ctx, f.page⟩
  let (s, dead) := if dead then (s, true)
    else raisePageFault s (r.tctx m) m r.node f (2 + if p.need = .write then 4 else 0) r.core r.gslot
  s.modRun r.id fun r =>
    if dead then { r with failed := (i, f.page) :: r.failed }
    else { r with states := r.states.set i (.held f.page) }

/-- Read a span: value, and whether a byte of it is poisoned or, of a source, on an unmappable page (R308). -/
def spanRead (s : State) (r : CRun) (i : Nat) (p : ChunkSpan) : LineData × Bool × State :=
  let (v, b, s, _) := p.pieces.foldl (fun (acc : Nat × Bool × State × Nat) q =>
    let (v, b, s) := match chunkPage acc.2.2.1 r i p.c p.need q.1 with
      | .error _ => (0, decide (p.need = .read), acc.2.2.1)
      | .ok g => match g.phys with
        | .dram a =>
          let (v, s) := homeRead acc.2.2.1 (originOf acc.2.2.1 p.c g) a q.2
          (v, s.poison.contains (a / 128), s)
        | _ => ((freeLine acc.2.2.1.freeCount).toNat, false, { acc.2.2.1 with freeCount := acc.2.2.1.freeCount + 4 })
    (acc.1 + v % 2 ^ (8 * q.2) * 2 ^ (8 * acc.2.2.2), acc.2.1 || b, s, acc.2.2.2 + q.2)) (0, false, s, 0)
  (BitVec.ofNat 1024 v, b, s)

/-- Write a span, poisoned or not; a loss record for each piece on an unmappable page, and whether there was one (R308). -/
def spanWrite (s : State) (r : CRun) (i : Nat) (p : ChunkSpan) (v : LineData) (poisoned : Bool) : State × Bool :=
  let (s, lost, _) := p.pieces.foldl (fun (acc : State × Bool × Nat) q =>
    let (s, lost) := match chunkPage acc.1 r i p.c p.need q.1 with
      | .error _ => (lossRecord acc.1 (coreMod r.core) r.node q.1 0 6 r.core (q.2 / 4), true)
      | .ok g => match g.phys with
        | .dram a => (outerWriteLine acc.1 (originOf acc.1 p.c g) g.wtag a (leBytes q.2 (v.toNat / 2 ^ (8 * acc.2.2))) poisoned, acc.2.1)
        | _ => (acc.1, acc.2.1)
    (s, acc.2.1 || lost, acc.2.2 + q.2)) (s, false, 0)
  (s, lost)

/-- Line of a chunk: what is written from the source and what stands at the destination (R119, R306). -/
def chunkData (op : Nat) (src dst : LineData) : LineData :=
  if op = 0 then src
  else BitVec.ofNat 1024 ((List.range 32).foldl (fun n i =>
    let a : Word := dst.extractLsb' (32 * i) 32
    let b : Word := src.extractLsb' (32 * i) 32
    let w := if op = 1 then (f32Add homeEnv a b).1 else (bfAdd2 .rne a b).1
    n + w.toNat * 2 ^ (32 * i)) 0)

/-- Perform line `j` of chunk `i`. -/
def chunkLine (r : CRun) (i : Nat) (c : Chunk) (s : State) (j : Nat) : State :=
  let src := chunkSpan r c.sm .read (chunkVa r c.sb c.soff + 128 * j) 128
  let dst := chunkSpan r c.dm .write (chunkVa r c.db c.doff + 128 * j) 128
  let (a, bad, s) := spanRead s r i src
  let (b, bad, s) := if c.op = 0 then (0, bad, s) else
    let (b, bad2, s) := spanRead s r i dst
    (b, bad || bad2, s)
  let (s, lost) := spanWrite s r i dst (chunkData c.op a b) bad
  s.modRun r.id fun r => { r with poison := r.poison || bad, lost := r.lost || lost }

/-- Increment the counter of a chunk, or count the increment that is dropped (R249, R308, R315). -/
def chunkCount (s : State) (r : CRun) (i : Nat) (c : Chunk) : State :=
  if !c.ce then s
  else match chunkPage s r i (r.tctx c.dm) .write (chunkVa r c.cb c.coff) with
  | .error _ => countSyncErr s (coreMod r.core)
  | .ok g => match g.phys with
    | .dram ga =>
      if g.ty = 0 && ga % 8 = 0 && lookupNat (ga / 8) s.sync = some .counter then (cincAt (originOf s (r.tctx c.dm) g) s ga 1).1
      else countSyncErr s (lineMod (ga / 128))
    | _ => countSyncErr s c.dm

/-- The successors of a completed chunk have one predecessor less. -/
def CRun.finish (r : CRun) (i : Nat) (c : Chunk) : CRun :=
  { r with states := (r.states.set i .done).mapIdx fun j t => match t with
      | .waiting n => if c.sucs.contains j then (if n ≤ 1 then .started else .waiting (n - 1)) else t
      | t => t }

/-- Is there no path yet that a chunk needs, from its die's module to those it names and from these to its lines? -/
def chunkAway (s : State) (r : CRun) (i : Nat) (c : Chunk) : Bool :=
  let m := r.die / 4
  (c.op ≠ 3 && noPath s m c.sm) || noPath s m c.dm ||
  (chunkSpans r c).any fun p => (spanGas s r i p).any fun a => noPath s p.c.m (lineMod (a / 128))

/-- Does a chunk wait at the home of a line it touches: for a round, a cut-off holder, sharers to be told, translations under way
(R187, R245, R254, R256)? -/
def chunkWaits (s : State) (r : CRun) (i : Nat) (c : Chunk) : Bool :=
  (chunkSpans r c).any fun p => (spanGas s r i p).any fun a =>
    homeWaits s (a / 128) (decide (p.need = .write)) || (decide (p.need = .write) && tableBusy s (a / 128) s.nextId)

/-- A chunk that waits has reached the homes of its lines. -/
def chunkReach (s : State) (r : CRun) (i : Nat) (c : Chunk) : State :=
  (chunkSpans r c).foldl (fun s p => reachHomes s (decide (p.need = .write)) ((spanGas s r i p).map (· / 128))) s

/-- A chunk is over: what held it is forgotten, its successors have one predecessor less. -/
def CRun.pass (r : CRun) (i : Nat) (c : Chunk) : CRun :=
  { r.finish i c with
    failed := r.failed.filter fun f => f.1 ≠ i
    retried := r.retried.filter fun f => f.1 ≠ i }

/-- CHUNK_COMPLETE (R249, R306, R308): chunk `b` of run `a` is performed, then its counter and successors. -/
def execChunkComplete (s : State) : Out :=
  match s.run? s.ev.a with
  | none => .next s
  | some r =>
    let i := s.ev.b
    match r.states[i]?, (runChunks s r)[i]? with
    | some .started, some c =>
      match ((chunkSpans r c).flatMap (spanFaults s r i)) with
      | (p, f) :: _ => if noPath s (r.die / 4) p.c.m then .next s else .next (chunkFault s r i p f)
      | [] =>
        if chunkAway s r i c then .next s
        else if chunkWaits s r i c then .next (chunkReach s r i c)
        else
          let s := if c.op = 3 then s else (List.range c.lines).foldl (chunkLine r i c) s
          let s := chunkCount s r i c
          .next (endRun (s.modRun r.id fun r => r.pass i c) r.id)
    | _, _ => .next s

/-- Chunks reached from a list through successors. -/
def reachFrom (cs : List Chunk) : Nat → List Nat → List Nat
  | 0, l => l
  | n + 1, l => reachFrom cs n ((l ++ l.flatMap fun i => (nth cs i 0).sucs).eraseDups)

/-- Is a module of a chunk unreachable for 200 µs from the die's module (R308)? -/
def chunkCut (s : State) (r : CRun) (c : Chunk) : Bool := (c.op ≠ 3 && cutOff s (r.die / 4) c.sm) || cutOff s (r.die / 4) c.dm

/-- CHUNK_SKIP (R308): chunk `b` of run `a` is skipped with all its successors. -/
def execChunkSkip (s : State) : Out :=
  match s.run? s.ev.a with
  | none => .next s
  | some r =>
    let cs := runChunks s r
    let i := s.ev.b
    match r.states[i]?, cs[i]? with
    | some .started, some c =>
      if chunkCut s r c then
        let gone := reachFrom cs cs.length [i]
        .next (endRun (s.modRun r.id fun r => { r with
          skipped := true
          states := r.states.mapIdx fun j t => if gone.contains j then .skipped else t }) r.id)
      else .next s
    | _, _ => .next s

end Sys2Proof.Machine
end

