-- ==== Sys2Proof/Machine/Csr.lean ====
section
/-!
DEFINITION. `csrr`, `csrw` and the registers they reach (06_register_state.md R130 to R134; 17_tables.md R303; 18_counters.md
R322, R323; 21_faults_and_recovery.md R331, R334, R337; 23 R347, R349, R351 to R353), and the writes of device registers
by application cores.
-/
namespace Sys2Proof.Machine

/-! ## Numbers (Table Registers 6) -/

/-- Minimum privilege level of a register and whether it is an HV register; none where the number is not assigned. -/
def csrAccess (n : Nat) : Option (Nat × Bool) :=
  if n < 4 then some (0, false)
  else if 0x100 ≤ n && n ≤ 0x102 then some (0, false)
  else if n = 0x200 || n = 0x201 then some (1, false)
  else if (0x210 ≤ n && n ≤ 0x218) || n = 0x220 || n = 0x221 || (0x230 ≤ n && n ≤ 0x233) then some (2, true)
  else if (0x400 ≤ n && n ≤ 0x406) || (0x410 ≤ n && n ≤ 0x416) || (0x420 ≤ n && n ≤ 0x422) || (0x430 ≤ n && n ≤ 0x432) ||
    (0x440 ≤ n && n ≤ 0x447) || n = 0x480 || n = 0x481 || (0x500 ≤ n && n ≤ 0x53F) || n = 0x600 || (0x640 ≤ n && n ≤ 0x64F) then
    some (2, false)
  else if n = 0x620 || (0x6A0 ≤ n && n ≤ 0x6A3) then some (2, true)
  else if 0x660 ≤ n && n ≤ 0x69F then some (1, false)
  else none

/-! ## Reading -/

/-- `RBLK` (Table Registers 6). -/
def rblk (g : Group) : DWord :=
  BitVec.ofNat 64 (g.arch.blocks.zipIdx.foldl (fun n p => n + match p.1 with
    | .unallocated => 0
    | .resident _ => 2 ^ p.2
    | .spilled _ => 2 ^ p.2 + 2 ^ (16 + p.2)) 0)

/-- A doubleword of a reservation-table entry (Table Matrix 5). -/
def MEntry.dword (e : MEntry) (j : Nat) : DWord :=
  match j with
  | 0 => e.gang
  | 1 => e.wd
  | 2 => BitVec.ofNat 64 (e.hold.toNat + e.arr.toNat * 2 ^ 9 + e.rel.toNat * 2 ^ 15 + e.pri % 8 * 2 ^ 21 + e.age % 16 * 2 ^ 24 +
      e.wait % 16 * 2 ^ 28 + e.wlt.toNat * 2 ^ 32 + e.st.toNat * 2 ^ 33 + e.pseq.toNat * 2 ^ 48)
  | _ => 0

/-- `DSTAT` (Table Host 1). -/
def Mod.dstat (x : Mod) : DWord := BitVec.ofNat 64 (x.step.toNat * 256 + x.cause.toNat * 16 + x.done.toNat)
/-- `RADV` (Table Counters 6). -/
def Mod.radv (x : Mod) : DWord :=
  BitVec.ofNat 64 (x.advLast.toNat * 2 ^ 24 + x.advKind.toNat * 2 ^ 16 + x.nret * 2 ^ 8 + x.adv.toNat)
/-- `OLNK` (Table Host 4). -/
def Port.olnk (p : Port) : DWord :=
  BitVec.ofNat 64 (p.det.toNat * 2 ^ 14 + p.fail % 4 * 2 ^ 12 + p.pport % 16 * 2 ^ 8 + p.peer % 16 * 2 ^ 4 + p.st.toNat)
/-- `VFCFG` (Table Host 5). -/
def Vf.cfg (v : Vf) : DWord := BitVec.ofNat 64 (v.parts.toNat * 2 ^ 16 + v.cap.toNat * 2 + v.en.toNat)
/-- `VFSTAT` (Table Registers 7). -/
def Vf.stat (v : Vf) : DWord := BitVec.ofNat 64 (v.cap.toNat * 2 + v.scap.toNat)

/-- Is every group of a virtual function on a module parked or stopped, by a group fault too (R332, R337)? -/
def vfParked (s : State) (m vf : Nat) : Bool :=
  s.groups.all fun g => coreMod g.core != m || match s.team? g.team with
    | some t => t.vf != vf || g.parkedNow || g.faulted
    | none => true

/-- `PRESTAT` takes the bits of the requests whose virtual functions stand parked; only a lift clears one (R337). -/
def notePrestat (s : State) : State :=
  if s.modules.all fun x => x.preReq &&& ~~~x.preStat = 0 then s
  else
    let bits (x : Mod) : BitVec 32 := (List.range 32).foldl (fun (b : BitVec 32) v =>
      if x.preReq.getLsbD v && vfParked s x.num v then b ||| (1#32 <<< v) else b) x.preStat
    { s with modules := s.modules.map fun x => { x with preStat := bits x } }

/-- Read and clear a count of a core's module or, for `GENDROP`, of the core (R322, R336). -/
def rcRead (s : State) (core n : Nat) : DWord × State :=
  let m := coreMod core
  let x := s.mod m
  match n with
  | 0x420 => (BitVec.ofNat 64 (s.core core).gendrop, s.modCore core fun c => { c with gendrop := 0 })
  | 0x421 => (BitVec.ofNat 64 x.syncwr, s.modMod m fun x => { x with syncwr := 0 })
  | 0x422 => (BitVec.ofNat 64 x.syncerr, s.modMod m fun x => { x with syncerr := 0 })
  | 0x430 => (BitVec.ofNat 64 x.cecc, s.modMod m fun x => { x with cecc := 0 })
  | 0x431 => (BitVec.ofNat 64 x.uecc, s.modMod m fun x => { x with uecc := 0 })
  | 0x432 => (x.uepa, s.modMod m fun x => { x with uepa := 0 })
  | _ => (0, s)

/-- Device registers that a read leaves as they are (R322, R337, R347, R349, R351, R353). The `VF` field of a translation slot
is HV: below level 2 it reads zero (R4, Table Host 3). -/
def deviceReg (s : State) (core vsel pl n : Nat) : DWord :=
  let m := coreMod core
  let x := s.mod m
  if n < 0x410 then BitVec.ofNat 64 (nth x.counts (n - 0x400) 0)
  else if n < 0x420 then BitVec.ofNat 64 (nth (s.vf m vsel).counts (n - 0x410) 0)
  else if n = 0x440 then x.radv
  else if n < 0x445 then x.rcores.extractLsb' (64 * (n - 0x441)) 64
  else if n = 0x445 then x.rclu
  else if n = 0x446 then x.rport.setWidth 64
  else if n = 0x447 then x.radvf.setWidth 64
  else if n = 0x481 then x.preStat.setWidth 64
  else if n < 0x500 then 0
  else if n < 0x540 then ((s.engine (coreCluster core)).entry ((n - 0x500) / 4)).dword (n % 4)
  else if n = 0x600 then x.dstat
  else if n = 0x620 then BitVec.ofNat 64 x.pwrcap
  else if n < 0x650 then (nth x.ports (n - 0x640) ⟨0, false, 0, 0, 0⟩).olnk
  else if n < 0x6A0 then nth x.slots (n - 0x660) 0 &&& (if pl < 2 then 0x07FFFFFFFFFFFFFF else BitVec.allOnes 64)
  else (nth x.psup (n - 0x6A0) 0).setWidth 64

/-- Read register `n`: its value, and the state after a read that clears it. -/
def csrRead (s : State) (x : Issue) (n : Nat) : DWord × State :=
  let vsel := (s.vf x.m x.t.vf).vsel.toNat
  let v := s.vf x.m vsel
  match n with
  | 0x000 => (x.g.arch.fpcr.setWidth 64, s)
  | 0x001 => (x.g.arch.srseed, s)
  | 0x002 => (x.g.arch.gang, s)
  | 0x003 => (rblk x.g, s)
  | 0x100 => (x.g.trap.taddr, s)
  | 0x101 => (x.g.trap.tinsn, s)
  | 0x102 => (x.g.trap.tmask, s)
  | 0x200 => ((s.vf x.m x.t.vf).stat, s)
  | 0x201 => (0, s)
  | 0x218 => (v.lmode.setWidth 64, s)
  | 0x220 => (v.twmask.setWidth 64, s)
  | 0x221 => (v.dwmask.setWidth 64, s)
  | 0x230 => (BitVec.ofNat 64 vsel, s)
  | 0x231 => (v.cfg, s)
  | 0x232 => (0, s)
  | 0x233 => (v.skdb, s)
  | 0x480 => (0, s)
  | _ =>
    if n < 0x218 then ((nth v.leases (n - 0x210) 0).setWidth 64, s)
    else if (0x420 ≤ n && n ≤ 0x422) || (0x430 ≤ n && n ≤ 0x432) then rcRead s x.g.core n
    else (deviceReg s x.g.core vsel x.t.pl n, s)

/-! ## Writing -/

/-- FPCR after a write (Table Registers 5). -/
def fpcrWrite (old : BitVec 32) (v : DWord) : BitVec 32 :=
  let osc := v.extractLsb' 3 3
  let osc := if osc = 6 || osc = 7 then old.extractLsb' 3 3 else osc
  (v.extractLsb' 8 7).setWidth 32 <<< 8 ||| osc.setWidth 32 <<< 3 ||| (v.extractLsb' 0 3).setWidth 32

/-- A write of `PFRES` for a virtual function (R334). -/
def pfresWrite (s : State) (m vf : Nat) (v : DWord) : State :=
  let pr := pfresPair m vf v
  resolvePcie (resolvePair s pr (v.getLsbD 63)) pr (v.getLsbD 63)

/-- A group's pre-emption is lifted: it runs on, or resumes from its save slot (R51, R336, R337). -/
def Group.lift (g : Group) : Group :=
  { g with
    preempt := if g.preempt = .stopped then .stopped else .running
    parkMask := none
    badResume := g.badResume || (g.badSave && match g.preempt with | .parked _ => true | _ => false) }

/-- Is a group one of a virtual function on a module? -/
def groupOf (s : State) (m vf : Nat) (g : Group) : Bool :=
  coreMod g.core == m && match s.team? g.team with | some t => t.vf == vf | none => false

/-- A write of `PRECTL` (R48, R337). -/
def prectlWrite (s : State) (m : Nat) (v : DWord) : State :=
  let vf := (v.extractLsb' 0 5).toNat
  let bit := 1#32 <<< vf
  let ask (g : Group) : Group := if g.preempt = .running then { g with preempt := .asked s.cyc } else g
  if v.getLsbD 8 then
    State.modMod { s with groups := mapWhere (groupOf s m vf) ask s.groups } m fun x => { x with preReq := x.preReq ||| bit }
  else
    State.modMod { s with groups := mapWhere (groupOf s m vf) Group.lift s.groups } m fun x =>
      { x with preReq := x.preReq &&& ~~~bit, preStat := x.preStat &&& ~~~bit }

/-- A write of `VFCFG` (R352). -/
def vfcfgWrite (s : State) (m vf : Nat) (v : DWord) : State :=
  let busy := s.teams.any fun t => t.m == m && t.vf == vf
  s.modVf m vf fun y =>
    let cap := v.extractLsb' 1 3
    { y with
      parts := v.extractLsb' 16 16
      cap := if cap = 6 || cap = 7 then y.cap else cap
      en := v.getLsbD 0 || (y.en && busy) }

/-- A write of `VFSALT` (R352). -/
def vfsaltWrite (s : State) (m vf : Nat) (v : DWord) : State :=
  s.modVf m vf fun y => if y.en then y else { y with salt := v }

/-- A write of `PWRCAP` (R353). -/
def pwrcapWrite (s : State) (m : Nat) (v : DWord) : State :=
  s.modMod m fun x => if 600 ≤ v.toNat && v.toNat ≤ 1600 then { x with pwrcap := v.toNat } else x

/-- A write of a translation slot from a privilege level (R349, Table Host 3). -/
def slotWrite (s : State) (m vf pl i : Nat) (v : DWord) : State :=
  s.modMod m fun x => { x with slots := x.slots.mapIdx fun j old =>
    if j ≠ i then old
    else if 2 ≤ pl then v &&& 0xF80FFFFFFFFFFFFF
    else if (old.extractLsb' 59 5).toNat = vf then (old &&& 0xF800000000000000) ||| (v &&& 0x000FFFFFFFFFFFFF)
    else old }

/-- Write a device register, from a virtual function and a privilege level (R337, R349, R353). -/
def deviceWrite (s : State) (m vf pl n : Nat) (v : DWord) : State :=
  if n = 0x480 then prectlWrite s m v
  else if n = 0x620 then pwrcapWrite s m v
  else if 0x660 ≤ n && n ≤ 0x69F then slotWrite s m vf pl (n - 0x660) v
  else if 0x6A0 ≤ n && n ≤ 0x6A3 then s.modMod m fun y => { y with psup := y.psup.set (n - 0x6A0) (v.extractLsb' 0 10) }
  else s

/-- Write register `n` (R133, R303, R352). The group's own registers are written in the group. -/
def csrWrite (s : State) (x : Issue) (n : Nat) (v : DWord) : State :=
  let m := x.m
  let own := x.t.vf
  let vsel := (s.vf m own).vsel.toNat
  let arch (f : Arch → Arch) : State := s.modGroup x.g.core x.g.slot fun g => { g with arch := f g.arch }
  match n with
  | 0x000 => arch fun a => { a with fpcr := fpcrWrite a.fpcr v }
  | 0x001 => arch fun a => { a with srseed := v }
  | 0x200 => if v.getLsbD 0 then s.modVf m own fun y => { y with scap := false } else s
  | 0x201 => pfresWrite s m (if 2 ≤ x.t.pl then vsel else own) v
  | 0x218 => s.modVf m vsel fun y => if v.extractLsb' 0 2 = 1 || v.extractLsb' 0 2 = 2 then { y with lmode := v.extractLsb' 0 2 } else y
  | 0x220 => s.modVf m vsel fun y => if v.extractLsb' 0 24 = 0 then y else { y with twmask := v.extractLsb' 0 24 }
  | 0x221 => s.modVf m vsel fun y => if v.extractLsb' 0 16 = 0 then y else { y with dwmask := v.extractLsb' 0 16 }
  | 0x230 => s.modVf m own fun y => { y with vsel := v.extractLsb' 0 5 }
  | 0x231 => vfcfgWrite s m vsel v
  | 0x232 => vfsaltWrite s m vsel v
  | 0x233 => s.modVf m vsel fun y => { y with skdb := v &&& 0x000FFFFFFFFF8000 }
  | _ =>
    if 0x211 ≤ n && n ≤ 0x217 then
      s.modVf m vsel fun y => { y with leases := y.leases.set (n - 0x210) (v.extractLsb' 0 24) }
    else deviceWrite s m own x.t.pl n v

/-! ## The instructions (R133, R134) -/

/-- The number of a register: `Q` over `K`. -/
def csrNum (f : EpqkForm) : Nat := f.q.toNat * 128 + f.k.toNat

/-- What naming register `n` asks of an instruction: that the number is assigned, and its level, which an `HV` register does
not check (R94, R133). -/
def csrUse (n : Nat) (u : Use) : Use :=
  match csrAccess n with
  | none => { u with bad := true }
  | some (pl, hv) => { u with pl := if hv then 0 else pl }

/-- Does a level not reach an `HV` register, which then reads zero and ignores writes (R133)? -/
def csrHidden (n pl : Nat) : Bool := pl < ((csrAccess n).map Prod.fst).getD 0

/-- `csrr` (R133, R134). -/
def execCsrr (f : EpqkForm) (s : State) : Out :=
  withOps s f.sp (csrUse (csrNum f) { sw := [f.p.toNat] }) fun s x =>
    let (v, s) := if csrHidden (csrNum f) x.t.pl then (0, s) else csrRead s x (csrNum f)
    .done (finishPlain s x f.sp (x.g.putScalar f.p.toNat v))

/-- `csrw` (R133, R134). A write of `PFRES` waits until every earlier access of the group is complete at device scope
(R334). -/
def execCsrw (f : EpqkForm) (s : State) : Out :=
  withOps s f.sp (csrUse (csrNum f) { sr := [f.p.toNat] }) fun s x =>
    if csrNum f = 0x201 && !fenceReady s x.g 4 then .wait
    else
      let s := if csrNum f = 0x201 then releaseDo s x.g.core x.g.slot 4 else s
      let v := scalarReg s x f.p.toNat
      let s := finishPlain s x f.sp x.g
      .done (if csrHidden (csrNum f) x.t.pl then s else csrWrite s x (csrNum f) v)

/-! ## Register accesses of application cores -/

/-- An application core of a virtual function reads device register `n` at a privilege level (R349): none where the level is too
low or the number is not assigned. The registers of the issuing core or its cluster are no application core's: free (log 47). -/
def agentCsrRead (s : State) (c : Ctx) (n : Nat) : Option (DWord × State) :=
  if n < 0x400 then none
  else match csrAccess n with
  | none => none
  | some (pl, hv) =>
    if c.pl < pl then (if hv then some (0, s) else none)
    else if n = 0x420 || (0x500 ≤ n && n ≤ 0x53F) then
      some ((Config.freeWord s.freeCount).setWidth 64, { s with freeCount := s.freeCount + 1 })
    else if (0x421 ≤ n && n ≤ 0x422) || (0x430 ≤ n && n ≤ 0x432) then some (rcRead s (c.m * 256) n)
    else some (deviceReg s (c.m * 256) (s.vf c.m c.vf).vsel.toNat c.pl n, s)

/-- An application core writes device register `n` (R349). -/
def agentCsrWrite (s : State) (c : Ctx) (n : Nat) (v : DWord) : Option State :=
  if n < 0x400 then none
  else match csrAccess n with
  | none => none
  | some (pl, hv) => if c.pl < pl then (if hv then some s else none) else some (deviceWrite s c.m c.vf c.pl n v)

/-- PFRES (R334): the hypervisor or kernel of virtual function `b` resolves a fault pair of module `a`. -/
def execPfres (s : State) : Out := .next (pfresWrite s s.ev.a s.ev.b s.ev.v)
/-- PRECTL (R337). -/
def execPrectl (s : State) : Out := .next (prectlWrite s s.ev.a s.ev.v)
/-- VFCFG (R352). -/
def execVfcfg (s : State) : Out := .next (vfcfgWrite s s.ev.a s.ev.b s.ev.v)
/-- VFSALT (R352). -/
def execVfsalt (s : State) : Out := .next (vfsaltWrite s s.ev.a s.ev.b s.ev.v)
/-- PWRCAP (R353). -/
def execPwrcap (s : State) : Out := .next (pwrcapWrite s s.ev.a s.ev.v)
/-- RC_REGISTER_READ (R322): register `b` read at core `a`; its value is the reply. Before Dawn has run nothing is read so (R18). -/
def execRcRegisterRead (s : State) : Out :=
  if !(s.mod (coreMod s.ev.a)).done then .next s
  else
    let (v, s) := rcRead s s.ev.a s.ev.b
    .next { s with hostReply := v }

end Sys2Proof.Machine
end

