-- ==== Sys2Proof/WellFormed.lean ====
section
/-!
DEFINITION. Which instruction terms are legal encodings: the ILLINS rows of Table Formats 13
(04_formats_and_opcode_map.md R74, R81, R84, R85, R86, R87, R95). The decoder refuses a word whose term is not
well formed. An operand fault (ILLOPND) is no matter of well-formedness: it is raised when the instruction issues.
-/
namespace Sys2Proof

/-- `N` = 1 requires `D` = 0 (R81). -/
def nOk (n : Bool) (d : BitVec 7) : Bool := !n || d == 0#7

/-- The legal `POL` and `ORD` of a lane load (Table Formats 7, R84). -/
def loadOrdOk (pol : BitVec 2) (ord : BitVec 3) : Bool :=
  pol == 2#2 || ord == 0#3 || ord == 3#3 || ord == 1#3

/-- The legal `POL` and `ORD` of a lane store (Table Formats 7, R84). -/
def storeOrdOk (pol : BitVec 2) (ord : BitVec 3) : Bool :=
  pol == 2#2 || ord == 0#3 || ord == 3#3 || ord == 2#3

/-- Legal encodings; every event is legal, it has no encoding. -/
def Instr.wf (i : Instr) : Bool :=
  match i with
  | .iadd16 f => !(!f.imm && f.a == 0#5 && f.d == 0#5)
  | .isub16 _ => true
  | .and16 _ => true
  | .or16 _ => true
  | .xor16 _ => true
  | .shl16 _ => true
  | .shrl16 _ => true
  | .shra16 _ => true
  | .mov _ => true
  | .fadd16 _ => true
  | .fmul16 _ => true
  | .fmin16 _ => true
  | .fmax16 _ => true
  | .hadd216 _ => true
  | .hmul216 _ => true
  | .imax16 _ => true
  | .iadd f => nOk f.n f.d
  | .isub f => nOk f.n f.d
  | .imul f => nOk f.n f.d
  | .imulh f => nOk f.n f.d
  | .imulhu f => nOk f.n f.d
  | .imad f => nOk f.n f.d
  | .imin f => nOk f.n f.d
  | .imax f => nOk f.n f.d
  | .umin f => nOk f.n f.d
  | .umax f => nOk f.n f.d
  | .and f => nOk f.n f.d
  | .or f => nOk f.n f.d
  | .xor f => nOk f.n f.d
  | .andn f => nOk f.n f.d
  | .shl f => nOk f.n f.d
  | .shrl f => nOk f.n f.d
  | .shra f => nOk f.n f.d
  | .seteq f => nOk f.n f.d
  | .setlt f => nOk f.n f.d
  | .sel f => nOk f.n f.d
  | .fadd f => nOk f.n f.d
  | .fsub f => nOk f.n f.d
  | .fmul f => nOk f.n f.d
  | .ffma f => nOk f.n f.d
  | .fmin f => nOk f.n f.d
  | .fmax f => nOk f.n f.d
  | .fseteq f => nOk f.n f.d
  | .fsetlt f => nOk f.n f.d
  | .fsetle f => nOk f.n f.d
  | .hadd2 f => nOk f.n f.d
  | .hmul2 f => nOk f.n f.d
  | .hfma2 f => nOk f.n f.d
  | .ineg f => nOk f.n f.d
  | .iabs f => nOk f.n f.d
  | .popc f => nOk f.n f.d
  | .clz f => nOk f.n f.d
  | .ctz f => nOk f.n f.d
  | .brev f => nOk f.n f.d
  | .sext f => nOk f.n f.d && f.m.toNat ≤ 1
  | .zext f => nOk f.n f.d && f.m.toNat ≤ 1
  | .not f => nOk f.n f.d
  | .fneg f => nOk f.n f.d
  | .fabs f => nOk f.n f.d
  | .fsqrt f => nOk f.n f.d
  | .frsq f => nOk f.n f.d
  | .frcp f => nOk f.n f.d
  | .fexp2 f => nOk f.n f.d
  | .flog2 f => nOk f.n f.d
  | .fsin f => nOk f.n f.d
  | .fcos f => nOk f.n f.d
  | .ffloor f => nOk f.n f.d
  | .fceil f => nOk f.n f.d
  | .ftrunc f => nOk f.n f.d
  | .frint f => nOk f.n f.d
  | .cvt f => nOk f.n f.d && f.src != 15#4 && f.dst != 15#4
  | .cvts f => nOk f.n f.d && f.src != 15#4 && f.dst != 15#4
  | .cvtsr f => nOk f.n f.d && f.src != 15#4 && f.dst != 15#4
  | .pkb f => nOk f.n f.d && f.m.toNat ≤ 3
  | .pkh f => nOk f.n f.d && f.m.toNat ≤ 1
  | .pkn f => nOk f.n f.d && f.m.toNat ≤ 7
  | .upb f => nOk f.n f.d && f.m.toNat ≤ 3
  | .upbs f => nOk f.n f.d && f.m.toNat ≤ 3
  | .uph f => nOk f.n f.d && f.m.toNat ≤ 1
  | .uphs f => nOk f.n f.d && f.m.toNat ≤ 1
  | .upn f => nOk f.n f.d && f.m.toNat ≤ 7
  | .upns f => nOk f.n f.d && f.m.toNat ≤ 7
  | .qswx f => nOk f.n f.d
  | .qswy f => nOk f.n f.d
  | .qswd f => nOk f.n f.d
  | .qbc f => nOk f.n f.d && f.m.toNat ≤ 3
  | .qaddf f => nOk f.n f.d
  | .qaddi f => nOk f.n f.d
  | .qmaxf f => nOk f.n f.d
  | .shfl f => nOk f.n f.d
  | .shflup f => nOk f.n f.d
  | .shfldn f => nOk f.n f.d
  | .shflx f => nOk f.n f.d
  | .vany f => nOk f.n f.d
  | .vall f => nOk f.n f.d
  | .ballot f => nOk f.n f.d
  | .gaddi f => nOk f.n f.d
  | .gaddf f => nOk f.n f.d
  | .gmaxf f => nOk f.n f.d
  | .setltu f => nOk f.n f.d
  | .setle f => nOk f.n f.d
  | .setleu f => nOk f.n f.d
  | .setne f => nOk f.n f.d
  | .fsetne f => nOk f.n f.d
  | .fsetun f => nOk f.n f.d
  | .fclass f => nOk f.n f.d
  | .ldb f => nOk f.n f.d && loadOrdOk f.pol f.ord
  | .ldh f => nOk f.n f.d && loadOrdOk f.pol f.ord
  | .ldw f => nOk f.n f.d && loadOrdOk f.pol f.ord
  | .ldd f => nOk f.n f.d && loadOrdOk f.pol f.ord
  | .stb f => !f.n && storeOrdOk f.pol f.ord
  | .sth f => !f.n && storeOrdOk f.pol f.ord
  | .stw f => !f.n && storeOrdOk f.pol f.ord
  | .std f => !f.n && storeOrdOk f.pol f.ord
  | .atomAdd f => nOk f.n f.d && f.ord != 3#2
  | .atomAddd f => nOk f.n f.d && f.ord != 3#2
  | .atomAnd f => nOk f.n f.d && f.ord != 3#2 && !f.c
  | .atomOr f => nOk f.n f.d && f.ord != 3#2
  | .atomXor f => nOk f.n f.d && f.ord != 3#2 && !f.c
  | .atomMin f => nOk f.n f.d && f.ord != 3#2
  | .atomMax f => nOk f.n f.d && f.ord != 3#2
  | .atomUmin f => nOk f.n f.d && f.ord != 3#2
  | .atomUmax f => nOk f.n f.d && f.ord != 3#2
  | .atomXchg f => nOk f.n f.d && f.ord != 3#2 && !f.c
  | .atomCas f => nOk f.n f.d && f.ord != 3#2 && !f.c
  | .atomAddf f => nOk f.n f.d && f.ord != 3#2
  | .atomAdd2h f => nOk f.n f.d && f.ord != 3#2
  | .atomMaxf f => nOk f.n f.d && f.ord != 3#2
  | .atomMinf f => nOk f.n f.d && f.ord != 3#2
  | .atomIncw f => nOk f.n f.d && f.ord != 3#2 && !f.c
  | .skins f => nOk f.n f.d
  | .skdel f => nOk f.n f.d
  | .skqry f => nOk f.n f.d
  | .skrank f => nOk f.n f.d
  | .skmerge f => nOk f.n f.d
  | .skfold f => nOk f.n f.d
  | .skclear f => nOk f.n f.d
  | .skinfo f => nOk f.n f.d
  | .brc f => f.cond.toNat ≤ 5
  | .jmp _ => true
  | .call _ => true
  | .sadd _ => true
  | .ssub _ => true
  | .smul _ => true
  | .smulh _ => true
  | .sand _ => true
  | .sor _ => true
  | .sxor _ => true
  | .sandn _ => true
  | .sshl _ => true
  | .sshrl _ => true
  | .sshra _ => true
  | .smin _ => true
  | .smax _ => true
  | .sumin _ => true
  | .sumax _ => true
  | .sseteq _ => true
  | .ssetlt _ => true
  | .ssetltu _ => true
  | .ssel _ => true
  | .smov _ => true
  | .sld _ => true
  | .sldd _ => true
  | .sst _ => true
  | .sstd _ => true
  | .saddi _ => true
  | .rldw f => nOk f.n f.d
  | .rldd f => nOk f.n f.d
  | .rstw f => !f.n
  | .rstd f => !f.n
  | .raddi f => nOk f.n f.d
  | .raddf f => nOk f.n f.d
  | .rmaxf f => nOk f.n f.d
  | .rcas f => nOk f.n f.d
  | .rxchg f => nOk f.n f.d
  | .rredf f => nOk f.n f.d
  | .rredh f => nOk f.n f.d
  | .gang _ => true
  | .mreq _ => true
  | .mreqTry _ => true
  | .mwl _ => true
  | .mpass _ => true
  | .mrdy _ => true
  | .mwait _ => true
  | .mdrain _ => true
  | .mrel _ => true
  | .mscale _ => true
  | .touch _ => true
  | .close _ => true
  | .waitb _ => true
  | .bind _ => true
  | .unbind _ => true
  | .seal _ => true
  | .unseal _ => true
  | .emit _ => true
  | .emitTry _ => true
  | .qctlStat _ => true
  | .qctlEnable _ => true
  | .qctlDisable _ => true
  | .qctlInit _ => true
  | .qctlPeriod _ => true
  | .qctlSupervisor _ => true
  | .qctlClear _ => true
  | .cinit _ => true
  | .cinc _ => true
  | .cincRemote _ => true
  | .cwait _ => true
  | .cwaitPoll _ => true
  | .barinit _ => true
  | .barinitTeam _ => true
  | .bararr _ => true
  | .barwait _ => true
  | .bartest _ => true
  | .synkill _ => true
  | .trig _ => true
  | .cgload _ => true
  | .cgrun _ => true
  | .cgwait _ => true
  | .fence _ => true
  | .jmpi _ => true
  | .jmpiLink _ => true
  | .exit _ => true
  | .trap _ => true
  | .yield _ => true
  | .rfree _ => true
  | .csrr _ => true
  | .csrw _ => true
  | .sldi _ => true
  | .sldhi _ => true
  | .rfeRetry _ => true
  | .rfeSkip _ => true
  | .rfeReg _ => true
  | .ctxsave _ => true
  | .ctxload _ => true
  | .dusk _ => true
  | .walkCfg _ => true
  | .walkRun _ => true
  | .aadd _ => true
  | .aset _ => true
  | .amov _ => true
  | .aget _ => true
  | .pfres => true
  | .prectl => true
  | .vfcfg => true
  | .vfsalt => true
  | .pwrcap => true
  | .rcRegisterRead => true
  | .pdnStore => true
  | .rsvReserve => true
  | .coalesceTimeout => true
  | .placeBand => true
  | .activationReserving => true
  | .issuePriorityAgeing => true
  | .parkedSplitExchange => true
  | .gridTrigger => true
  | .gridComplete => true
  | .forcedStop => true
  | .blockFill => true
  | .loadReturn => true
  | .renewalReply => true
  | .leaseExpiry => true
  | .trackedRead => true
  | .leaseLoad => true
  | .ownershipRequest => true
  | .homeWrite => true
  | .commutativeUpdate => true
  | .partialDelivery => true
  | .invalidation => true
  | .acknowledgement => true
  | .l1Evict => true
  | .evictionNotice => true
  | .dramFill => true
  | .sideLogReplay => true
  | .copyArrival => true
  | .matrixGrant => true
  | .matrixOperationComplete => true
  | .packetArrival => true
  | .custodyAck => true
  | .linkDown => true
  | .linkTrainingComplete => true
  | .lossOfHome => true
  | .sharerPresumedUnreachable => true
  | .remoteUnreachable => true
  | .pathRestored => true
  | .runActivate => true
  | .chunkComplete => true
  | .chunkSkip => true
  | .parentArrival => true
  | .watchdogFire => true
  | .emitSpaceFreed => true
  | .pcieRequest => true
  | .completionTimeout => true
  | .getVersion => true
  | .getCapabilities => true
  | .negotiateAlgorithms => true
  | .getDigests => true
  | .getCertificate => true
  | .challenge => true
  | .getMeasurements => true
  | .unsupportedRequest => true
  | .dawn => true
  | .coolantBreach => true
  | .coolantRestored => true
  | .correctedError => true
  | .uncorrectableError => true
  | .coreRetire => true
  | .clusterRetire => true
  | .replaceAdvisory => true
  | .illegalEncoding => true
  | .fetchFault => true

/-- Does the row have an encoding? The events of engines, homes, fabric and host have none. -/
def Instr.hasEncoding (i : Instr) : Bool :=
  match i with
  | .iadd16 _ => true
  | .isub16 _ => true
  | .and16 _ => true
  | .or16 _ => true
  | .xor16 _ => true
  | .shl16 _ => true
  | .shrl16 _ => true
  | .shra16 _ => true
  | .mov _ => true
  | .fadd16 _ => true
  | .fmul16 _ => true
  | .fmin16 _ => true
  | .fmax16 _ => true
  | .hadd216 _ => true
  | .hmul216 _ => true
  | .imax16 _ => true
  | .iadd _ => true
  | .isub _ => true
  | .imul _ => true
  | .imulh _ => true
  | .imulhu _ => true
  | .imad _ => true
  | .imin _ => true
  | .imax _ => true
  | .umin _ => true
  | .umax _ => true
  | .and _ => true
  | .or _ => true
  | .xor _ => true
  | .andn _ => true
  | .shl _ => true
  | .shrl _ => true
  | .shra _ => true
  | .seteq _ => true
  | .setlt _ => true
  | .sel _ => true
  | .fadd _ => true
  | .fsub _ => true
  | .fmul _ => true
  | .ffma _ => true
  | .fmin _ => true
  | .fmax _ => true
  | .fseteq _ => true
  | .fsetlt _ => true
  | .fsetle _ => true
  | .hadd2 _ => true
  | .hmul2 _ => true
  | .hfma2 _ => true
  | .ineg _ => true
  | .iabs _ => true
  | .popc _ => true
  | .clz _ => true
  | .ctz _ => true
  | .brev _ => true
  | .sext _ => true
  | .zext _ => true
  | .not _ => true
  | .fneg _ => true
  | .fabs _ => true
  | .fsqrt _ => true
  | .frsq _ => true
  | .frcp _ => true
  | .fexp2 _ => true
  | .flog2 _ => true
  | .fsin _ => true
  | .fcos _ => true
  | .ffloor _ => true
  | .fceil _ => true
  | .ftrunc _ => true
  | .frint _ => true
  | .cvt _ => true
  | .cvts _ => true
  | .cvtsr _ => true
  | .pkb _ => true
  | .pkh _ => true
  | .pkn _ => true
  | .upb _ => true
  | .upbs _ => true
  | .uph _ => true
  | .uphs _ => true
  | .upn _ => true
  | .upns _ => true
  | .qswx _ => true
  | .qswy _ => true
  | .qswd _ => true
  | .qbc _ => true
  | .qaddf _ => true
  | .qaddi _ => true
  | .qmaxf _ => true
  | .shfl _ => true
  | .shflup _ => true
  | .shfldn _ => true
  | .shflx _ => true
  | .vany _ => true
  | .vall _ => true
  | .ballot _ => true
  | .gaddi _ => true
  | .gaddf _ => true
  | .gmaxf _ => true
  | .setltu _ => true
  | .setle _ => true
  | .setleu _ => true
  | .setne _ => true
  | .fsetne _ => true
  | .fsetun _ => true
  | .fclass _ => true
  | .ldb _ => true
  | .ldh _ => true
  | .ldw _ => true
  | .ldd _ => true
  | .stb _ => true
  | .sth _ => true
  | .stw _ => true
  | .std _ => true
  | .atomAdd _ => true
  | .atomAddd _ => true
  | .atomAnd _ => true
  | .atomOr _ => true
  | .atomXor _ => true
  | .atomMin _ => true
  | .atomMax _ => true
  | .atomUmin _ => true
  | .atomUmax _ => true
  | .atomXchg _ => true
  | .atomCas _ => true
  | .atomAddf _ => true
  | .atomAdd2h _ => true
  | .atomMaxf _ => true
  | .atomMinf _ => true
  | .atomIncw _ => true
  | .skins _ => true
  | .skdel _ => true
  | .skqry _ => true
  | .skrank _ => true
  | .skmerge _ => true
  | .skfold _ => true
  | .skclear _ => true
  | .skinfo _ => true
  | .brc _ => true
  | .jmp _ => true
  | .call _ => true
  | .sadd _ => true
  | .ssub _ => true
  | .smul _ => true
  | .smulh _ => true
  | .sand _ => true
  | .sor _ => true
  | .sxor _ => true
  | .sandn _ => true
  | .sshl _ => true
  | .sshrl _ => true
  | .sshra _ => true
  | .smin _ => true
  | .smax _ => true
  | .sumin _ => true
  | .sumax _ => true
  | .sseteq _ => true
  | .ssetlt _ => true
  | .ssetltu _ => true
  | .ssel _ => true
  | .smov _ => true
  | .sld _ => true
  | .sldd _ => true
  | .sst _ => true
  | .sstd _ => true
  | .saddi _ => true
  | .rldw _ => true
  | .rldd _ => true
  | .rstw _ => true
  | .rstd _ => true
  | .raddi _ => true
  | .raddf _ => true
  | .rmaxf _ => true
  | .rcas _ => true
  | .rxchg _ => true
  | .rredf _ => true
  | .rredh _ => true
  | .gang _ => true
  | .mreq _ => true
  | .mreqTry _ => true
  | .mwl _ => true
  | .mpass _ => true
  | .mrdy _ => true
  | .mwait _ => true
  | .mdrain _ => true
  | .mrel _ => true
  | .mscale _ => true
  | .touch _ => true
  | .close _ => true
  | .waitb _ => true
  | .bind _ => true
  | .unbind _ => true
  | .seal _ => true
  | .unseal _ => true
  | .emit _ => true
  | .emitTry _ => true
  | .qctlStat _ => true
  | .qctlEnable _ => true
  | .qctlDisable _ => true
  | .qctlInit _ => true
  | .qctlPeriod _ => true
  | .qctlSupervisor _ => true
  | .qctlClear _ => true
  | .cinit _ => true
  | .cinc _ => true
  | .cincRemote _ => true
  | .cwait _ => true
  | .cwaitPoll _ => true
  | .barinit _ => true
  | .barinitTeam _ => true
  | .bararr _ => true
  | .barwait _ => true
  | .bartest _ => true
  | .synkill _ => true
  | .trig _ => true
  | .cgload _ => true
  | .cgrun _ => true
  | .cgwait _ => true
  | .fence _ => true
  | .jmpi _ => true
  | .jmpiLink _ => true
  | .exit _ => true
  | .trap _ => true
  | .yield _ => true
  | .rfree _ => true
  | .csrr _ => true
  | .csrw _ => true
  | .sldi _ => true
  | .sldhi _ => true
  | .rfeRetry _ => true
  | .rfeSkip _ => true
  | .rfeReg _ => true
  | .ctxsave _ => true
  | .ctxload _ => true
  | .dusk _ => true
  | .walkCfg _ => true
  | .walkRun _ => true
  | .aadd _ => true
  | .aset _ => true
  | .amov _ => true
  | .aget _ => true
  | .pfres => false
  | .prectl => false
  | .vfcfg => false
  | .vfsalt => false
  | .pwrcap => false
  | .rcRegisterRead => false
  | .pdnStore => false
  | .rsvReserve => false
  | .coalesceTimeout => false
  | .placeBand => false
  | .activationReserving => false
  | .issuePriorityAgeing => false
  | .parkedSplitExchange => false
  | .gridTrigger => false
  | .gridComplete => false
  | .forcedStop => false
  | .blockFill => false
  | .loadReturn => false
  | .renewalReply => false
  | .leaseExpiry => false
  | .trackedRead => false
  | .leaseLoad => false
  | .ownershipRequest => false
  | .homeWrite => false
  | .commutativeUpdate => false
  | .partialDelivery => false
  | .invalidation => false
  | .acknowledgement => false
  | .l1Evict => false
  | .evictionNotice => false
  | .dramFill => false
  | .sideLogReplay => false
  | .copyArrival => false
  | .matrixGrant => false
  | .matrixOperationComplete => false
  | .packetArrival => false
  | .custodyAck => false
  | .linkDown => false
  | .linkTrainingComplete => false
  | .lossOfHome => false
  | .sharerPresumedUnreachable => false
  | .remoteUnreachable => false
  | .pathRestored => false
  | .runActivate => false
  | .chunkComplete => false
  | .chunkSkip => false
  | .parentArrival => false
  | .watchdogFire => false
  | .emitSpaceFreed => false
  | .pcieRequest => false
  | .completionTimeout => false
  | .getVersion => false
  | .getCapabilities => false
  | .negotiateAlgorithms => false
  | .getDigests => false
  | .getCertificate => false
  | .challenge => false
  | .getMeasurements => false
  | .unsupportedRequest => false
  | .dawn => false
  | .coolantBreach => false
  | .coolantRestored => false
  | .correctedError => false
  | .uncorrectableError => false
  | .coreRetire => false
  | .clusterRetire => false
  | .replaceAdvisory => false
  | .illegalEncoding => false
  | .fetchFault => false

end Sys2Proof
end

