-- ==== Sys2Proof/Decode.lean ====
section
/-!
DEFINITION. The decoder and, after it, the encoder (04_formats_and_opcode_map.md R73 to R95). A first halfword with
bit 0 = 0 is a 16-bit instruction, otherwise the instruction is 32 bits and, when bit 1 is 1, a mask word follows.
A word that is no legal instruction is refused by name.
-/
namespace Sys2Proof

/-- Why a stream of halfwords is no instruction; each is the fate ILLINS of Table Formats 13, but for `truncated`,
which no fetch of whole words gives. -/
inductive Reject where
  /-- The halfword 0x0000 as a first halfword (R74). -/
  | zeroHalfword
  /-- An unlisted `MAJ`, `FN`, `CLS`, `M`, a non-zero unused field, or a term that is not well formed. -/
  | illegalEncoding (w : BitVec 32)
  /-- Fewer halfwords than the instruction has. -/
  | truncated
  deriving DecidableEq, Repr

/-- The fields of `VForm` in an instruction word. -/
def VForm.ofWord (sp : Sp) (w : BitVec 32) : VForm :=
  ⟨sp, w.getLsbD 8, w.extractLsb' 9 7, w.extractLsb' 16 8, w.extractLsb' 24 8⟩

/-- The fields of `XForm` in an instruction word. -/
def XForm.ofWord (sp : Sp) (w : BitVec 32) : XForm :=
  ⟨sp, w.getLsbD 8, w.extractLsb' 9 7, w.extractLsb' 16 8⟩

/-- The fields of `XmForm` in an instruction word. -/
def XmForm.ofWord (sp : Sp) (w : BitVec 32) : XmForm :=
  ⟨sp, w.getLsbD 8, w.extractLsb' 9 7, w.extractLsb' 16 8, w.extractLsb' 28 4⟩

/-- The fields of `CvtForm` in an instruction word. -/
def CvtForm.ofWord (sp : Sp) (w : BitVec 32) : CvtForm :=
  ⟨sp, w.getLsbD 8, w.extractLsb' 9 7, w.extractLsb' 16 8, w.extractLsb' 24 4, w.extractLsb' 28 4⟩

/-- The fields of `MForm` in an instruction word. -/
def MForm.ofWord (sp : Sp) (w : BitVec 32) : MForm :=
  ⟨sp, w.getLsbD 8, w.extractLsb' 9 7, w.extractLsb' 16 4, w.extractLsb' 20 7, w.extractLsb' 27 2, w.extractLsb' 29 3⟩

/-- The fields of `AtomForm` in an instruction word. -/
def AtomForm.ofWord (sp : Sp) (w : BitVec 32) : AtomForm :=
  ⟨sp, w.getLsbD 8, w.extractLsb' 9 7, w.extractLsb' 16 4, w.extractLsb' 20 7, w.extractLsb' 2 2, w.getLsbD 31⟩

/-- The fields of `SkForm` in an instruction word. -/
def SkForm.ofWord (sp : Sp) (w : BitVec 32) : SkForm :=
  ⟨sp, w.getLsbD 8, w.extractLsb' 9 7, w.extractLsb' 16 4, w.extractLsb' 20 7⟩

/-- The fields of `BrForm` in an instruction word. -/
def BrForm.ofWord (sp : Sp) (w : BitVec 32) : BrForm :=
  ⟨sp, w.extractLsb' 8 8, w.extractLsb' 16 3, w.extractLsb' 19 13⟩

/-- The fields of `JForm` in an instruction word. -/
def JForm.ofWord (sp : Sp) (w : BitVec 32) : JForm :=
  ⟨sp, w.extractLsb' 9 23⟩

/-- The fields of `SrForm` in an instruction word. -/
def SrForm.ofWord (sp : Sp) (w : BitVec 32) : SrForm :=
  ⟨sp, w.extractLsb' 8 6, w.extractLsb' 14 6, w.extractLsb' 20 6⟩

/-- The fields of `SmovForm` in an instruction word. -/
def SmovForm.ofWord (sp : Sp) (w : BitVec 32) : SmovForm :=
  ⟨sp, w.extractLsb' 8 6, w.extractLsb' 14 6⟩

/-- The fields of `SmemForm` in an instruction word. -/
def SmemForm.ofWord (sp : Sp) (w : BitVec 32) : SmemForm :=
  ⟨sp, w.extractLsb' 8 6, w.extractLsb' 14 4, w.extractLsb' 20 6⟩

/-- The fields of `SiForm` in an instruction word. -/
def SiForm.ofWord (sp : Sp) (w : BitVec 32) : SiForm :=
  ⟨sp, w.extractLsb' 8 6, w.extractLsb' 14 6, w.extractLsb' 20 12⟩

/-- The fields of `RmForm` in an instruction word. -/
def RmForm.ofWord (sp : Sp) (w : BitVec 32) : RmForm :=
  ⟨sp, w.getLsbD 8, w.extractLsb' 9 7, w.extractLsb' 16 4, w.extractLsb' 20 6⟩

/-- The fields of `EsForm` in an instruction word. -/
def EsForm.ofWord (sp : Sp) (_w : BitVec 32) : EsForm :=
  ⟨sp⟩

/-- The fields of `EpForm` in an instruction word. -/
def EpForm.ofWord (sp : Sp) (w : BitVec 32) : EpForm :=
  ⟨sp, w.extractLsb' 13 6⟩

/-- The fields of `EqForm` in an instruction word. -/
def EqForm.ofWord (sp : Sp) (w : BitVec 32) : EqForm :=
  ⟨sp, w.extractLsb' 19 6⟩

/-- The fields of `EkForm` in an instruction word. -/
def EkForm.ofWord (sp : Sp) (w : BitVec 32) : EkForm :=
  ⟨sp, w.extractLsb' 25 7⟩

/-- The fields of `EpqForm` in an instruction word. -/
def EpqForm.ofWord (sp : Sp) (w : BitVec 32) : EpqForm :=
  ⟨sp, w.extractLsb' 13 6, w.extractLsb' 19 6⟩

/-- The fields of `EpqkForm` in an instruction word. -/
def EpqkForm.ofWord (sp : Sp) (w : BitVec 32) : EpqkForm :=
  ⟨sp, w.extractLsb' 13 6, w.extractLsb' 19 6, w.extractLsb' 25 7⟩

/-- The fields of `EmitForm` in an instruction word. -/
def EmitForm.ofWord (sp : Sp) (w : BitVec 32) : EmitForm :=
  ⟨sp, w.extractLsb' 13 6, w.extractLsb' 19 6, w.extractLsb' 25 6⟩

/-- The fields of `SyncForm` in an instruction word. -/
def SyncForm.ofWord (sp : Sp) (w : BitVec 32) : SyncForm :=
  ⟨sp, w.extractLsb' 13 6, w.extractLsb' 19 4, w.extractLsb' 25 6⟩

/-- The fields of `FenceForm` in an instruction word. -/
def FenceForm.ofWord (sp : Sp) (w : BitVec 32) : FenceForm :=
  ⟨sp, w.extractLsb' 13 2, w.extractLsb' 19 6⟩

/-- The fields of `CtxForm` in an instruction word. -/
def CtxForm.ofWord (sp : Sp) (w : BitVec 32) : CtxForm :=
  ⟨sp, w.extractLsb' 13 4, w.extractLsb' 19 4⟩

/-- The fields of `DuskForm` in an instruction word. -/
def DuskForm.ofWord (sp : Sp) (w : BitVec 32) : DuskForm :=
  ⟨sp, w.extractLsb' 13 6, w.extractLsb' 19 6, w.getLsbD 25⟩

/-- The fields of `AaddForm` in an instruction word. -/
def AaddForm.ofWord (sp : Sp) (w : BitVec 32) : AaddForm :=
  ⟨sp, w.extractLsb' 13 6, w.extractLsb' 19 4, w.extractLsb' 25 7⟩

/-- The fields of `AsetForm` in an instruction word. -/
def AsetForm.ofWord (sp : Sp) (w : BitVec 32) : AsetForm :=
  ⟨sp, w.extractLsb' 13 6, w.extractLsb' 19 4, w.extractLsb' 25 5⟩

/-- The fields of `AgetForm` in an instruction word. -/
def AgetForm.ofWord (sp : Sp) (w : BitVec 32) : AgetForm :=
  ⟨sp, w.extractLsb' 13 6, w.extractLsb' 19 4, w.extractLsb' 25 2⟩

/-- The fields of a 16-bit instruction. -/
def ShortForm.ofHalf (h : BitVec 16) : ShortForm := ⟨h.getLsbD 15, h.extractLsb' 10 5, h.extractLsb' 5 5⟩

/-- The 16-bit form selected by `OP` (Table Formats 2). -/
def decodeShort (op : Nat) (f : ShortForm) : Option Instr :=
  match op with
  | 0 => some (.iadd16 f)
  | 1 => some (.isub16 f)
  | 2 => some (.and16 f)
  | 3 => some (.or16 f)
  | 4 => some (.xor16 f)
  | 5 => some (.shl16 f)
  | 6 => some (.shrl16 f)
  | 7 => some (.shra16 f)
  | 8 => some (.mov f)
  | 9 => some (.fadd16 f)
  | 10 => some (.fmul16 f)
  | 11 => some (.fmin16 f)
  | 12 => some (.fmax16 f)
  | 13 => some (.hadd216 f)
  | 14 => some (.hmul216 f)
  | 15 => some (.imax16 f)
  | _ => none

/-- The V form selected by `MAJ` 0x00 to 0x1F (Table Formats 11). -/
def decodeV (maj : Nat) (f : VForm) : Option Instr :=
  match maj with
  | 0 => some (.iadd f)
  | 1 => some (.isub f)
  | 2 => some (.imul f)
  | 3 => some (.imulh f)
  | 4 => some (.imulhu f)
  | 5 => some (.imad f)
  | 6 => some (.imin f)
  | 7 => some (.imax f)
  | 8 => some (.umin f)
  | 9 => some (.umax f)
  | 10 => some (.and f)
  | 11 => some (.or f)
  | 12 => some (.xor f)
  | 13 => some (.andn f)
  | 14 => some (.shl f)
  | 15 => some (.shrl f)
  | 16 => some (.shra f)
  | 17 => some (.seteq f)
  | 18 => some (.setlt f)
  | 19 => some (.sel f)
  | 20 => some (.fadd f)
  | 21 => some (.fsub f)
  | 22 => some (.fmul f)
  | 23 => some (.ffma f)
  | 24 => some (.fmin f)
  | 25 => some (.fmax f)
  | 26 => some (.fseteq f)
  | 27 => some (.fsetlt f)
  | 28 => some (.fsetle f)
  | 29 => some (.hadd2 f)
  | 30 => some (.hmul2 f)
  | 31 => some (.hfma2 f)
  | _ => none

/-- X, `MAJ` 0x20: integer unary. -/
def decodeIntUnary (sp : Sp) (w : BitVec 32) : Option Instr :=
  match (w.extractLsb' 24 4).toNat with
  | 0 => if w &&& 0xF0000000#32 = 0x00000000#32 then some (.ineg (.ofWord sp w)) else none
  | 1 => if w &&& 0xF0000000#32 = 0x00000000#32 then some (.iabs (.ofWord sp w)) else none
  | 2 => if w &&& 0xF0000000#32 = 0x00000000#32 then some (.popc (.ofWord sp w)) else none
  | 3 => if w &&& 0xF0000000#32 = 0x00000000#32 then some (.clz (.ofWord sp w)) else none
  | 4 => if w &&& 0xF0000000#32 = 0x00000000#32 then some (.ctz (.ofWord sp w)) else none
  | 5 => if w &&& 0xF0000000#32 = 0x00000000#32 then some (.brev (.ofWord sp w)) else none
  | 6 => some (.sext (.ofWord sp w))
  | 7 => some (.zext (.ofWord sp w))
  | 8 => if w &&& 0xF0000000#32 = 0x00000000#32 then some (.not (.ofWord sp w)) else none
  | _ => none

/-- X, `MAJ` 0x21: float unary. -/
def decodeFloatUnary (sp : Sp) (w : BitVec 32) : Option Instr :=
  match (w.extractLsb' 24 4).toNat with
  | 0 => if w &&& 0xF0000000#32 = 0x00000000#32 then some (.fneg (.ofWord sp w)) else none
  | 1 => if w &&& 0xF0000000#32 = 0x00000000#32 then some (.fabs (.ofWord sp w)) else none
  | 2 => if w &&& 0xF0000000#32 = 0x00000000#32 then some (.fsqrt (.ofWord sp w)) else none
  | 3 => if w &&& 0xF0000000#32 = 0x00000000#32 then some (.frsq (.ofWord sp w)) else none
  | 4 => if w &&& 0xF0000000#32 = 0x00000000#32 then some (.frcp (.ofWord sp w)) else none
  | 5 => if w &&& 0xF0000000#32 = 0x00000000#32 then some (.fexp2 (.ofWord sp w)) else none
  | 6 => if w &&& 0xF0000000#32 = 0x00000000#32 then some (.flog2 (.ofWord sp w)) else none
  | 7 => if w &&& 0xF0000000#32 = 0x00000000#32 then some (.fsin (.ofWord sp w)) else none
  | 8 => if w &&& 0xF0000000#32 = 0x00000000#32 then some (.fcos (.ofWord sp w)) else none
  | 9 => if w &&& 0xF0000000#32 = 0x00000000#32 then some (.ffloor (.ofWord sp w)) else none
  | 10 => if w &&& 0xF0000000#32 = 0x00000000#32 then some (.fceil (.ofWord sp w)) else none
  | 11 => if w &&& 0xF0000000#32 = 0x00000000#32 then some (.ftrunc (.ofWord sp w)) else none
  | 12 => if w &&& 0xF0000000#32 = 0x00000000#32 then some (.frint (.ofWord sp w)) else none
  | _ => none

/-- X, `MAJ` 0x25: pack and unpack. -/
def decodePack (sp : Sp) (w : BitVec 32) : Option Instr :=
  match (w.extractLsb' 24 4).toNat with
  | 0 => some (.pkb (.ofWord sp w))
  | 1 => some (.pkh (.ofWord sp w))
  | 2 => some (.pkn (.ofWord sp w))
  | 3 => some (.upb (.ofWord sp w))
  | 4 => some (.upbs (.ofWord sp w))
  | 5 => some (.uph (.ofWord sp w))
  | 6 => some (.uphs (.ofWord sp w))
  | 7 => some (.upn (.ofWord sp w))
  | 8 => some (.upns (.ofWord sp w))
  | _ => none

/-- X, `MAJ` 0x26: quad exchanges. -/
def decodeQuad (sp : Sp) (w : BitVec 32) : Option Instr :=
  match (w.extractLsb' 24 4).toNat with
  | 0 => if w &&& 0xF0000000#32 = 0x00000000#32 then some (.qswx (.ofWord sp w)) else none
  | 1 => if w &&& 0xF0000000#32 = 0x00000000#32 then some (.qswy (.ofWord sp w)) else none
  | 2 => if w &&& 0xF0000000#32 = 0x00000000#32 then some (.qswd (.ofWord sp w)) else none
  | 3 => some (.qbc (.ofWord sp w))
  | 4 => if w &&& 0xF0000000#32 = 0x00000000#32 then some (.qaddf (.ofWord sp w)) else none
  | 5 => if w &&& 0xF0000000#32 = 0x00000000#32 then some (.qaddi (.ofWord sp w)) else none
  | 6 => if w &&& 0xF0000000#32 = 0x00000000#32 then some (.qmaxf (.ofWord sp w)) else none
  | _ => none

/-- X, `MAJ` 0x27: group shuffles, votes and reductions. -/
def decodeGroup (sp : Sp) (w : BitVec 32) : Option Instr :=
  match (w.extractLsb' 24 4).toNat with
  | 0 => if w &&& 0xF0000000#32 = 0x00000000#32 then some (.shfl (.ofWord sp w)) else none
  | 1 => if w &&& 0xF0000000#32 = 0x00000000#32 then some (.shflup (.ofWord sp w)) else none
  | 2 => if w &&& 0xF0000000#32 = 0x00000000#32 then some (.shfldn (.ofWord sp w)) else none
  | 3 => if w &&& 0xF0000000#32 = 0x00000000#32 then some (.shflx (.ofWord sp w)) else none
  | 4 => if w &&& 0xF0000000#32 = 0x00000000#32 then some (.vany (.ofWord sp w)) else none
  | 5 => if w &&& 0xF0000000#32 = 0x00000000#32 then some (.vall (.ofWord sp w)) else none
  | 6 => if w &&& 0xF0000000#32 = 0x00000000#32 then some (.ballot (.ofWord sp w)) else none
  | 7 => if w &&& 0xF0000000#32 = 0x00000000#32 then some (.gaddi (.ofWord sp w)) else none
  | 8 => if w &&& 0xF0000000#32 = 0x00000000#32 then some (.gaddf (.ofWord sp w)) else none
  | 9 => if w &&& 0xF0000000#32 = 0x00000000#32 then some (.gmaxf (.ofWord sp w)) else none
  | _ => none

/-- X, `MAJ` 0x28: two-address compares. -/
def decodeCompare (sp : Sp) (w : BitVec 32) : Option Instr :=
  match (w.extractLsb' 24 4).toNat with
  | 0 => if w &&& 0xF0000000#32 = 0x00000000#32 then some (.setltu (.ofWord sp w)) else none
  | 1 => if w &&& 0xF0000000#32 = 0x00000000#32 then some (.setle (.ofWord sp w)) else none
  | 2 => if w &&& 0xF0000000#32 = 0x00000000#32 then some (.setleu (.ofWord sp w)) else none
  | 3 => if w &&& 0xF0000000#32 = 0x00000000#32 then some (.setne (.ofWord sp w)) else none
  | 4 => if w &&& 0xF0000000#32 = 0x00000000#32 then some (.fsetne (.ofWord sp w)) else none
  | 5 => if w &&& 0xF0000000#32 = 0x00000000#32 then some (.fsetun (.ofWord sp w)) else none
  | 6 => if w &&& 0xF0000000#32 = 0x00000000#32 then some (.fclass (.ofWord sp w)) else none
  | _ => none

/-- SR, `MAJ` 0x3A (Table Formats 12). -/
def decodeSr (sp : Sp) (w : BitVec 32) : Option Instr :=
  match (w.extractLsb' 26 6).toNat with
  | 0 => some (.sadd (.ofWord sp w))
  | 1 => some (.ssub (.ofWord sp w))
  | 2 => some (.smul (.ofWord sp w))
  | 3 => some (.smulh (.ofWord sp w))
  | 4 => some (.sand (.ofWord sp w))
  | 5 => some (.sor (.ofWord sp w))
  | 6 => some (.sxor (.ofWord sp w))
  | 7 => some (.sandn (.ofWord sp w))
  | 8 => some (.sshl (.ofWord sp w))
  | 9 => some (.sshrl (.ofWord sp w))
  | 10 => some (.sshra (.ofWord sp w))
  | 11 => some (.smin (.ofWord sp w))
  | 12 => some (.smax (.ofWord sp w))
  | 13 => some (.sumin (.ofWord sp w))
  | 14 => some (.sumax (.ofWord sp w))
  | 15 => some (.sseteq (.ofWord sp w))
  | 16 => some (.ssetlt (.ofWord sp w))
  | 17 => some (.ssetltu (.ofWord sp w))
  | 18 => some (.ssel (.ofWord sp w))
  | 19 => if w &&& 0x03F00000#32 = 0x00000000#32 then some (.smov (.ofWord sp w)) else none
  | 20 => if w &&& 0x000C0000#32 = 0x00000000#32 then some (.sld (.ofWord sp w)) else none
  | 21 => if w &&& 0x000C0000#32 = 0x00000000#32 then some (.sldd (.ofWord sp w)) else none
  | 22 => if w &&& 0x000C0000#32 = 0x00000000#32 then some (.sst (.ofWord sp w)) else none
  | 23 => if w &&& 0x000C0000#32 = 0x00000000#32 then some (.sstd (.ofWord sp w)) else none
  | _ => none

/-- RM, `MAJ` 0x3C: remote instructions. -/
def decodeRm (sp : Sp) (w : BitVec 32) : Option Instr :=
  match (w.extractLsb' 26 6).toNat with
  | 0 => some (.rldw (.ofWord sp w))
  | 1 => some (.rldd (.ofWord sp w))
  | 2 => some (.rstw (.ofWord sp w))
  | 3 => some (.rstd (.ofWord sp w))
  | 4 => some (.raddi (.ofWord sp w))
  | 5 => some (.raddf (.ofWord sp w))
  | 6 => some (.rmaxf (.ofWord sp w))
  | 7 => some (.rcas (.ofWord sp w))
  | 8 => some (.rxchg (.ofWord sp w))
  | 9 => some (.rredf (.ofWord sp w))
  | 10 => some (.rredh (.ofWord sp w))
  | _ => none

/-- E, `MAJ` 0x3D: matrix engine. -/
def decodeMatrix (sp : Sp) (w : BitVec 32) : Option Instr :=
  match (w.extractLsb' 8 5).toNat with
  | 0 => if w &&& 0xFFF80000#32 = 0x00000000#32 then some (.gang (.ofWord sp w)) else none
  | 1 => if w &&& 0xFFF80000#32 = 0x00000000#32 then some (.mreq (.ofWord sp w)) else if w &&& 0xFFF80000#32 = 0x02000000#32 then some (.mreqTry (.ofWord sp w)) else none
  | 2 => if w &&& 0xFE000000#32 = 0x00000000#32 then some (.mwl (.ofWord sp w)) else none
  | 3 => if w &&& 0xFE000000#32 = 0x00000000#32 then some (.mpass (.ofWord sp w)) else none
  | 4 => if w &&& 0xFFFFE000#32 = 0x00000000#32 then some (.mrdy (.ofWord sp w)) else none
  | 5 => if w &&& 0xFE000000#32 = 0x00000000#32 then some (.mwait (.ofWord sp w)) else none
  | 6 => if w &&& 0xFE000000#32 = 0x00000000#32 then some (.mdrain (.ofWord sp w)) else none
  | 7 => if w &&& 0xFFFFE000#32 = 0x00000000#32 then some (.mrel (.ofWord sp w)) else none
  | 8 => if w &&& 0xFFF80000#32 = 0x00000000#32 then some (.mscale (.ofWord sp w)) else none
  | _ => none

/-- E, `MAJ` 0x3E: queues, tables, counters. -/
def decodeEngine (sp : Sp) (w : BitVec 32) : Option Instr :=
  match (w.extractLsb' 8 5).toNat with
  | 0 => if w &&& 0xFFF80000#32 = 0x00000000#32 then some (.touch (.ofWord sp w)) else none
  | 1 => if w &&& 0xFFF80000#32 = 0x00000000#32 then some (.close (.ofWord sp w)) else none
  | 2 => if w &&& 0xFFF80000#32 = 0x00000000#32 then some (.waitb (.ofWord sp w)) else none
  | 3 => if w &&& 0xFE000000#32 = 0x00000000#32 then some (.bind (.ofWord sp w)) else none
  | 4 => if w &&& 0xFFF80000#32 = 0x00000000#32 then some (.unbind (.ofWord sp w)) else none
  | 5 => if w &&& 0xFE000000#32 = 0x00000000#32 then some (.seal (.ofWord sp w)) else none
  | 6 => if w &&& 0xFFF80000#32 = 0x00000000#32 then some (.unseal (.ofWord sp w)) else none
  | 7 => if w &&& 0x80000000#32 = 0x00000000#32 then some (.emit (.ofWord sp w)) else if w &&& 0x80000000#32 = 0x80000000#32 then some (.emitTry (.ofWord sp w)) else none
  | 8 => if w &&& 0xFE000000#32 = 0x00000000#32 then some (.qctlStat (.ofWord sp w)) else if w &&& 0xFE000000#32 = 0x02000000#32 then some (.qctlEnable (.ofWord sp w)) else if w &&& 0xFE000000#32 = 0x04000000#32 then some (.qctlDisable (.ofWord sp w)) else if w &&& 0xFE000000#32 = 0x06000000#32 then some (.qctlInit (.ofWord sp w)) else if w &&& 0xFE000000#32 = 0x08000000#32 then some (.qctlPeriod (.ofWord sp w)) else if w &&& 0xFE000000#32 = 0x0A000000#32 then some (.qctlSupervisor (.ofWord sp w)) else if w &&& 0xFE000000#32 = 0x0C000000#32 then some (.qctlClear (.ofWord sp w)) else none
  | 9 => if w &&& 0x81800000#32 = 0x00000000#32 then some (.cinit (.ofWord sp w)) else none
  | 10 => if w &&& 0x81800000#32 = 0x00000000#32 then some (.cinc (.ofWord sp w)) else if w &&& 0x81800000#32 = 0x80000000#32 then some (.cincRemote (.ofWord sp w)) else none
  | 11 => if w &&& 0x81800000#32 = 0x00000000#32 then some (.cwait (.ofWord sp w)) else if w &&& 0x81800000#32 = 0x80000000#32 then some (.cwaitPoll (.ofWord sp w)) else none
  | 12 => if w &&& 0x81800000#32 = 0x00000000#32 then some (.barinit (.ofWord sp w)) else if w &&& 0x81800000#32 = 0x80000000#32 then some (.barinitTeam (.ofWord sp w)) else none
  | 13 => if w &&& 0x81800000#32 = 0x00000000#32 then some (.bararr (.ofWord sp w)) else none
  | 14 => if w &&& 0x81800000#32 = 0x00000000#32 then some (.barwait (.ofWord sp w)) else none
  | 15 => if w &&& 0x81800000#32 = 0x00000000#32 then some (.bartest (.ofWord sp w)) else none
  | 16 => if w &&& 0x81800000#32 = 0x00000000#32 then some (.synkill (.ofWord sp w)) else none
  | 17 => if w &&& 0xFFFFE000#32 = 0x00000000#32 then some (.trig (.ofWord sp w)) else none
  | 18 => if w &&& 0xFE000000#32 = 0x00000000#32 then some (.cgload (.ofWord sp w)) else none
  | 19 => some (.cgrun (.ofWord sp w))
  | 20 => if w &&& 0xFE000000#32 = 0x00000000#32 then some (.cgwait (.ofWord sp w)) else none
  | _ => none

/-- E, `MAJ` 0x3F: system. The mask-word class 0x1F has no row. -/
def decodeSystem (sp : Sp) (w : BitVec 32) : Option Instr :=
  match (w.extractLsb' 8 5).toNat with
  | 0 => if w &&& 0xFE078000#32 = 0x00000000#32 then some (.fence (.ofWord sp w)) else none
  | 1 => if w &&& 0xFFF80000#32 = 0x00000000#32 then some (.jmpi (.ofWord sp w)) else if w &&& 0xFFF80000#32 = 0x02000000#32 then some (.jmpiLink (.ofWord sp w)) else none
  | 2 => if w &&& 0xFFFFE000#32 = 0x00000000#32 then some (.exit (.ofWord sp w)) else none
  | 3 => if w &&& 0x01FFE000#32 = 0x00000000#32 then some (.trap (.ofWord sp w)) else none
  | 4 => if w &&& 0xFFFFE000#32 = 0x00000000#32 then some (.yield (.ofWord sp w)) else none
  | 5 => if w &&& 0xFE000000#32 = 0x00000000#32 then some (.rfree (.ofWord sp w)) else none
  | 6 => some (.csrr (.ofWord sp w))
  | 7 => some (.csrw (.ofWord sp w))
  | 8 => some (.sldi (.ofWord sp w))
  | 9 => some (.sldhi (.ofWord sp w))
  | 10 => if w &&& 0xFFFFE000#32 = 0x00000000#32 then some (.rfeRetry (.ofWord sp w)) else if w &&& 0xFFFFE000#32 = 0x02000000#32 then some (.rfeSkip (.ofWord sp w)) else if w &&& 0xFFF80000#32 = 0x04000000#32 then some (.rfeReg (.ofWord sp w)) else none
  | 11 => if w &&& 0xFF860000#32 = 0x00000000#32 then some (.ctxsave (.ofWord sp w)) else none
  | 12 => if w &&& 0xFF860000#32 = 0x00000000#32 then some (.ctxload (.ofWord sp w)) else none
  | 13 => if w &&& 0xFC000000#32 = 0x00000000#32 then some (.dusk (.ofWord sp w)) else none
  | 14 => if w &&& 0xFFF80000#32 = 0x00000000#32 then some (.walkCfg (.ofWord sp w)) else if w &&& 0xFE07E000#32 = 0x02000000#32 then some (.walkRun (.ofWord sp w)) else none
  | 15 => if w &&& 0x01800000#32 = 0x00000000#32 then some (.aadd (.ofWord sp w)) else none
  | 16 => if w &&& 0xC1800000#32 = 0x00000000#32 then some (.aset (.ofWord sp w)) else none
  | 17 => if w &&& 0xFF860000#32 = 0x00000000#32 then some (.amov (.ofWord sp w)) else none
  | 18 => if w &&& 0xF9800000#32 = 0x00000000#32 then some (.aget (.ofWord sp w)) else none
  | _ => none

/-- A, `MAJ` 0x37: sketch instructions. -/
def decodeSketch (sp : Sp) (w : BitVec 32) : Option Instr :=
  match (w.extractLsb' 27 5).toNat with
  | 0 => some (.skins (.ofWord sp w))
  | 1 => some (.skdel (.ofWord sp w))
  | 2 => some (.skqry (.ofWord sp w))
  | 3 => some (.skrank (.ofWord sp w))
  | 4 => some (.skmerge (.ofWord sp w))
  | 5 => some (.skfold (.ofWord sp w))
  | 6 => some (.skclear (.ofWord sp w))
  | 7 => some (.skinfo (.ofWord sp w))
  | _ => none

/-- A, `MAJ` 0x34 to 0x36: the atomic selected by `FN`[3:0] (Table Formats 12). -/
def decodeAtom (fn : Nat) (f : AtomForm) : Option Instr :=
  match fn with
  | 0 => some (.atomAdd f)
  | 1 => some (.atomAddd f)
  | 2 => some (.atomAnd f)
  | 3 => some (.atomOr f)
  | 4 => some (.atomXor f)
  | 5 => some (.atomMin f)
  | 6 => some (.atomMax f)
  | 7 => some (.atomUmin f)
  | 8 => some (.atomUmax f)
  | 9 => some (.atomXchg f)
  | 10 => some (.atomCas f)
  | 11 => some (.atomAddf f)
  | 12 => some (.atomAdd2h f)
  | 13 => some (.atomMaxf f)
  | 14 => some (.atomMinf f)
  | 15 => some (.atomIncw f)
  | _ => none

/-- A 32-bit word, without the check of well-formedness: the format `MAJ` selects (Table Formats 11). -/
def decodeRaw (sp : Sp) (w : BitVec 32) : Option Instr :=
  let maj := (w.extractLsb' 2 6).toNat
  if maj < 0x20 then decodeV maj (.ofWord sp w)
  else match maj with
  | 0x20 => decodeIntUnary sp w
  | 0x21 => decodeFloatUnary sp w
  | 0x22 => some (.cvt (.ofWord sp w))
  | 0x23 => some (.cvts (.ofWord sp w))
  | 0x24 => some (.cvtsr (.ofWord sp w))
  | 0x25 => decodePack sp w
  | 0x26 => decodeQuad sp w
  | 0x27 => decodeGroup sp w
  | 0x28 => decodeCompare sp w
  | 0x2C => some (.ldb (.ofWord sp w))
  | 0x2D => some (.ldh (.ofWord sp w))
  | 0x2E => some (.ldw (.ofWord sp w))
  | 0x2F => some (.ldd (.ofWord sp w))
  | 0x30 => some (.stb (.ofWord sp w))
  | 0x31 => some (.sth (.ofWord sp w))
  | 0x32 => some (.stw (.ofWord sp w))
  | 0x33 => some (.std (.ofWord sp w))
  | 0x34 => decodeAtom (w.extractLsb' 27 4).toNat (.ofWord sp w)
  | 0x35 => decodeAtom (w.extractLsb' 27 4).toNat (.ofWord sp w)
  | 0x36 => decodeAtom (w.extractLsb' 27 4).toNat (.ofWord sp w)
  | 0x37 => decodeSketch sp w
  | 0x38 => some (.brc (.ofWord sp w))
  | 0x39 => if w.getLsbD 8 then some (.call (.ofWord sp w)) else some (.jmp (.ofWord sp w))
  | 0x3A => decodeSr sp w
  | 0x3B => some (.saddi (.ofWord sp w))
  | 0x3C => decodeRm sp w
  | 0x3D => decodeMatrix sp w
  | 0x3E => decodeEngine sp w
  | 0x3F => decodeSystem sp w
  | _ => none

/-- A 32-bit instruction word with the mask word that follows it when `S` = 1 (R77, R89). -/
def decode32 (w mask : BitVec 32) : Except Reject Instr :=
  match decodeRaw (if w.getLsbD 1 then some mask else none) w with
  | some i => if i.wf then .ok i else .error (.illegalEncoding w)
  | none => .error (.illegalEncoding w)

/-- A 16-bit instruction (R74, R76). -/
def decode16 (h : BitVec 16) : Except Reject Instr :=
  if h = 0#16 then .error .zeroHalfword
  else match decodeShort (h.extractLsb' 1 4).toNat (.ofHalf h) with
    | some i => .ok i
    | none => .error (.illegalEncoding (h.setWidth 32))

/-- A stream of halfwords, first halfword first (R73). -/
def decode (hs : List (BitVec 16)) : Except Reject Instr :=
  match hs with
  | [] => .error .truncated
  | h0 :: rest =>
    if h0.getLsbD 0 = false then decode16 h0
    else match rest with
      | [] => .error .truncated
      | h1 :: rest2 =>
        if h0.getLsbD 1 = false then decode32 (h1 ++ h0) 0#32
        else match rest2 with
          | m0 :: m1 :: _ => decode32 (h1 ++ h0) (m1 ++ m0)
          | _ => .error .truncated

/-- Bytes as stored, each halfword low byte first (R2). -/
def halvesOfBytes : List Byte → List (BitVec 16)
  | b0 :: b1 :: rest => (b1 ++ b0) :: halvesOfBytes rest
  | _ => []

/-- The low `n` bytes of a number, least significant first (R2). -/
def bytesOfNat : Nat → Nat → List Byte
  | 0, _ => []
  | n + 1, w => BitVec.ofNat 8 w :: bytesOfNat n (w / 256)

/-- The instruction the decoder reads from the bits `w`, numbered as the opcode table numbers them; the bits from
`nbits` up are zero. -/
def decodeTableWord (nbits w : Nat) : Option Instr :=
  match decode (halvesOfBytes (bytesOfNat 8 (w % 2 ^ nbits))) with
  | .ok i => some i
  | .error _ => none

/-! ## The encoder -/

/-- `S`, bit [1]. -/
def spBit (sp : Sp) : BitVec 1 := BitVec.ofBool sp.isSome

/-- The 16-bit form (Table Formats 1). -/
def ShortForm.half (op : BitVec 4) (f : ShortForm) : BitVec 16 :=
  BitVec.ofBool f.imm ++ f.a ++ f.d ++ op ++ 0#1

/-- Format V (Table Formats 3). -/
def VForm.word (maj : BitVec 6) (f : VForm) : BitVec 32 :=
  f.b ++ f.a ++ f.d ++ BitVec.ofBool f.n ++ maj ++ spBit f.sp ++ 1#1

/-- Format X with `M` = 0. -/
def XForm.word (maj : BitVec 6) (fn : BitVec 4) (f : XForm) : BitVec 32 :=
  0#4 ++ fn ++ f.a ++ f.d ++ BitVec.ofBool f.n ++ maj ++ spBit f.sp ++ 1#1

/-- Format X with `M`. -/
def XmForm.word (maj : BitVec 6) (fn : BitVec 4) (f : XmForm) : BitVec 32 :=
  f.m ++ fn ++ f.a ++ f.d ++ BitVec.ofBool f.n ++ maj ++ spBit f.sp ++ 1#1

/-- A conversion. -/
def CvtForm.word (maj : BitVec 6) (f : CvtForm) : BitVec 32 :=
  f.dst ++ f.src ++ f.a ++ f.d ++ BitVec.ofBool f.n ++ maj ++ spBit f.sp ++ 1#1

/-- Format M. -/
def MForm.word (maj : BitVec 6) (f : MForm) : BitVec 32 :=
  f.ord ++ f.pol ++ f.off ++ f.ar ++ f.d ++ BitVec.ofBool f.n ++ maj ++ spBit f.sp ++ 1#1

/-- Format A, atomics: the major is 0b1101 with `ord`. -/
def AtomForm.word (fn : BitVec 4) (f : AtomForm) : BitVec 32 :=
  BitVec.ofBool f.c ++ fn ++ f.off ++ f.ar ++ f.d ++ BitVec.ofBool f.n ++ 0xD#4 ++ f.ord ++ spBit f.sp ++ 1#1

/-- Format A, sketch instructions. -/
def SkForm.word (fn : BitVec 5) (f : SkForm) : BitVec 32 :=
  fn ++ f.off ++ f.ar ++ f.d ++ BitVec.ofBool f.n ++ 0x37#6 ++ spBit f.sp ++ 1#1

/-- Format B. -/
def BrForm.word (f : BrForm) : BitVec 32 :=
  f.off ++ f.cond ++ f.a ++ 0x38#6 ++ spBit f.sp ++ 1#1

/-- Format J. -/
def JForm.word (l : BitVec 1) (f : JForm) : BitVec 32 :=
  f.off ++ l ++ 0x39#6 ++ spBit f.sp ++ 1#1

/-- Format SR. -/
def SrForm.word (fn : BitVec 6) (f : SrForm) : BitVec 32 :=
  fn ++ f.b ++ f.a ++ f.d ++ 0x3A#6 ++ spBit f.sp ++ 1#1

/-- `smov`. -/
def SmovForm.word (fn : BitVec 6) (f : SmovForm) : BitVec 32 :=
  fn ++ 0#6 ++ f.a ++ f.d ++ 0x3A#6 ++ spBit f.sp ++ 1#1

/-- A scalar load or store. -/
def SmemForm.word (fn : BitVec 6) (f : SmemForm) : BitVec 32 :=
  fn ++ f.b ++ 0#2 ++ f.ar ++ f.d ++ 0x3A#6 ++ spBit f.sp ++ 1#1

/-- Format SI. -/
def SiForm.word (f : SiForm) : BitVec 32 :=
  f.imm ++ f.a ++ f.d ++ 0x3B#6 ++ spBit f.sp ++ 1#1

/-- Format RM. -/
def RmForm.word (fn : BitVec 6) (f : RmForm) : BitVec 32 :=
  fn ++ f.k ++ f.ar ++ f.d ++ BitVec.ofBool f.n ++ 0x3C#6 ++ spBit f.sp ++ 1#1

/-- Format E: `K`, `Q`, `P`, `CLS`, `MAJ` (Table Formats 3). -/
def eWord (maj : BitVec 6) (cls : BitVec 5) (k : BitVec 7) (q p : BitVec 6) (sp : Sp) : BitVec 32 :=
  k ++ q ++ p ++ cls ++ maj ++ spBit sp ++ 1#1

/-- The instruction word of an instruction; the halfword of a 16-bit one, zero-extended; 0 for an event. -/
def encode (i : Instr) : BitVec 32 :=
  match i with
  | .iadd16 f => (f.half 0#4).setWidth 32
  | .isub16 f => (f.half 1#4).setWidth 32
  | .and16 f => (f.half 2#4).setWidth 32
  | .or16 f => (f.half 3#4).setWidth 32
  | .xor16 f => (f.half 4#4).setWidth 32
  | .shl16 f => (f.half 5#4).setWidth 32
  | .shrl16 f => (f.half 6#4).setWidth 32
  | .shra16 f => (f.half 7#4).setWidth 32
  | .mov f => (f.half 8#4).setWidth 32
  | .fadd16 f => (f.half 9#4).setWidth 32
  | .fmul16 f => (f.half 10#4).setWidth 32
  | .fmin16 f => (f.half 11#4).setWidth 32
  | .fmax16 f => (f.half 12#4).setWidth 32
  | .hadd216 f => (f.half 13#4).setWidth 32
  | .hmul216 f => (f.half 14#4).setWidth 32
  | .imax16 f => (f.half 15#4).setWidth 32
  | .iadd f => f.word 0x00#6
  | .isub f => f.word 0x01#6
  | .imul f => f.word 0x02#6
  | .imulh f => f.word 0x03#6
  | .imulhu f => f.word 0x04#6
  | .imad f => f.word 0x05#6
  | .imin f => f.word 0x06#6
  | .imax f => f.word 0x07#6
  | .umin f => f.word 0x08#6
  | .umax f => f.word 0x09#6
  | .and f => f.word 0x0A#6
  | .or f => f.word 0x0B#6
  | .xor f => f.word 0x0C#6
  | .andn f => f.word 0x0D#6
  | .shl f => f.word 0x0E#6
  | .shrl f => f.word 0x0F#6
  | .shra f => f.word 0x10#6
  | .seteq f => f.word 0x11#6
  | .setlt f => f.word 0x12#6
  | .sel f => f.word 0x13#6
  | .fadd f => f.word 0x14#6
  | .fsub f => f.word 0x15#6
  | .fmul f => f.word 0x16#6
  | .ffma f => f.word 0x17#6
  | .fmin f => f.word 0x18#6
  | .fmax f => f.word 0x19#6
  | .fseteq f => f.word 0x1A#6
  | .fsetlt f => f.word 0x1B#6
  | .fsetle f => f.word 0x1C#6
  | .hadd2 f => f.word 0x1D#6
  | .hmul2 f => f.word 0x1E#6
  | .hfma2 f => f.word 0x1F#6
  | .ineg f => f.word 0x20#6 0#4
  | .iabs f => f.word 0x20#6 1#4
  | .popc f => f.word 0x20#6 2#4
  | .clz f => f.word 0x20#6 3#4
  | .ctz f => f.word 0x20#6 4#4
  | .brev f => f.word 0x20#6 5#4
  | .sext f => f.word 0x20#6 6#4
  | .zext f => f.word 0x20#6 7#4
  | .not f => f.word 0x20#6 8#4
  | .fneg f => f.word 0x21#6 0#4
  | .fabs f => f.word 0x21#6 1#4
  | .fsqrt f => f.word 0x21#6 2#4
  | .frsq f => f.word 0x21#6 3#4
  | .frcp f => f.word 0x21#6 4#4
  | .fexp2 f => f.word 0x21#6 5#4
  | .flog2 f => f.word 0x21#6 6#4
  | .fsin f => f.word 0x21#6 7#4
  | .fcos f => f.word 0x21#6 8#4
  | .ffloor f => f.word 0x21#6 9#4
  | .fceil f => f.word 0x21#6 10#4
  | .ftrunc f => f.word 0x21#6 11#4
  | .frint f => f.word 0x21#6 12#4
  | .cvt f => f.word 0x22#6
  | .cvts f => f.word 0x23#6
  | .cvtsr f => f.word 0x24#6
  | .pkb f => f.word 0x25#6 0#4
  | .pkh f => f.word 0x25#6 1#4
  | .pkn f => f.word 0x25#6 2#4
  | .upb f => f.word 0x25#6 3#4
  | .upbs f => f.word 0x25#6 4#4
  | .uph f => f.word 0x25#6 5#4
  | .uphs f => f.word 0x25#6 6#4
  | .upn f => f.word 0x25#6 7#4
  | .upns f => f.word 0x25#6 8#4
  | .qswx f => f.word 0x26#6 0#4
  | .qswy f => f.word 0x26#6 1#4
  | .qswd f => f.word 0x26#6 2#4
  | .qbc f => f.word 0x26#6 3#4
  | .qaddf f => f.word 0x26#6 4#4
  | .qaddi f => f.word 0x26#6 5#4
  | .qmaxf f => f.word 0x26#6 6#4
  | .shfl f => f.word 0x27#6 0#4
  | .shflup f => f.word 0x27#6 1#4
  | .shfldn f => f.word 0x27#6 2#4
  | .shflx f => f.word 0x27#6 3#4
  | .vany f => f.word 0x27#6 4#4
  | .vall f => f.word 0x27#6 5#4
  | .ballot f => f.word 0x27#6 6#4
  | .gaddi f => f.word 0x27#6 7#4
  | .gaddf f => f.word 0x27#6 8#4
  | .gmaxf f => f.word 0x27#6 9#4
  | .setltu f => f.word 0x28#6 0#4
  | .setle f => f.word 0x28#6 1#4
  | .setleu f => f.word 0x28#6 2#4
  | .setne f => f.word 0x28#6 3#4
  | .fsetne f => f.word 0x28#6 4#4
  | .fsetun f => f.word 0x28#6 5#4
  | .fclass f => f.word 0x28#6 6#4
  | .ldb f => f.word 0x2C#6
  | .ldh f => f.word 0x2D#6
  | .ldw f => f.word 0x2E#6
  | .ldd f => f.word 0x2F#6
  | .stb f => f.word 0x30#6
  | .sth f => f.word 0x31#6
  | .stw f => f.word 0x32#6
  | .std f => f.word 0x33#6
  | .atomAdd f => f.word 0#4
  | .atomAddd f => f.word 1#4
  | .atomAnd f => f.word 2#4
  | .atomOr f => f.word 3#4
  | .atomXor f => f.word 4#4
  | .atomMin f => f.word 5#4
  | .atomMax f => f.word 6#4
  | .atomUmin f => f.word 7#4
  | .atomUmax f => f.word 8#4
  | .atomXchg f => f.word 9#4
  | .atomCas f => f.word 10#4
  | .atomAddf f => f.word 11#4
  | .atomAdd2h f => f.word 12#4
  | .atomMaxf f => f.word 13#4
  | .atomMinf f => f.word 14#4
  | .atomIncw f => f.word 15#4
  | .skins f => f.word 0#5
  | .skdel f => f.word 1#5
  | .skqry f => f.word 2#5
  | .skrank f => f.word 3#5
  | .skmerge f => f.word 4#5
  | .skfold f => f.word 5#5
  | .skclear f => f.word 6#5
  | .skinfo f => f.word 7#5
  | .brc f => f.word
  | .jmp f => f.word 0#1
  | .call f => f.word 1#1
  | .sadd f => f.word 0#6
  | .ssub f => f.word 1#6
  | .smul f => f.word 2#6
  | .smulh f => f.word 3#6
  | .sand f => f.word 4#6
  | .sor f => f.word 5#6
  | .sxor f => f.word 6#6
  | .sandn f => f.word 7#6
  | .sshl f => f.word 8#6
  | .sshrl f => f.word 9#6
  | .sshra f => f.word 10#6
  | .smin f => f.word 11#6
  | .smax f => f.word 12#6
  | .sumin f => f.word 13#6
  | .sumax f => f.word 14#6
  | .sseteq f => f.word 15#6
  | .ssetlt f => f.word 16#6
  | .ssetltu f => f.word 17#6
  | .ssel f => f.word 18#6
  | .smov f => f.word 19#6
  | .sld f => f.word 20#6
  | .sldd f => f.word 21#6
  | .sst f => f.word 22#6
  | .sstd f => f.word 23#6
  | .saddi f => f.word
  | .rldw f => f.word 0#6
  | .rldd f => f.word 1#6
  | .rstw f => f.word 2#6
  | .rstd f => f.word 3#6
  | .raddi f => f.word 4#6
  | .raddf f => f.word 5#6
  | .rmaxf f => f.word 6#6
  | .rcas f => f.word 7#6
  | .rxchg f => f.word 8#6
  | .rredf f => f.word 9#6
  | .rredh f => f.word 10#6
  | .gang f => eWord 0x3D#6 0#5 0#7 0#6 f.p f.sp
  | .mreq f => eWord 0x3D#6 1#5 0#7 0#6 f.p f.sp
  | .mreqTry f => eWord 0x3D#6 1#5 1#7 0#6 f.p f.sp
  | .mwl f => eWord 0x3D#6 2#5 0#7 f.q f.p f.sp
  | .mpass f => eWord 0x3D#6 3#5 0#7 f.q f.p f.sp
  | .mrdy f => eWord 0x3D#6 4#5 0#7 0#6 0#6 f.sp
  | .mwait f => eWord 0x3D#6 5#5 0#7 f.q f.p f.sp
  | .mdrain f => eWord 0x3D#6 6#5 0#7 f.q f.p f.sp
  | .mrel f => eWord 0x3D#6 7#5 0#7 0#6 0#6 f.sp
  | .mscale f => eWord 0x3D#6 8#5 0#7 0#6 f.p f.sp
  | .touch f => eWord 0x3E#6 0#5 0#7 0#6 f.p f.sp
  | .close f => eWord 0x3E#6 1#5 0#7 0#6 f.p f.sp
  | .waitb f => eWord 0x3E#6 2#5 0#7 0#6 f.p f.sp
  | .bind f => eWord 0x3E#6 3#5 0#7 f.q f.p f.sp
  | .unbind f => eWord 0x3E#6 4#5 0#7 0#6 f.p f.sp
  | .seal f => eWord 0x3E#6 5#5 0#7 f.q f.p f.sp
  | .unseal f => eWord 0x3E#6 6#5 0#7 0#6 f.p f.sp
  | .emit f => eWord 0x3E#6 7#5 (0#1 ++ f.k) f.q f.p f.sp
  | .emitTry f => eWord 0x3E#6 7#5 (1#1 ++ f.k) f.q f.p f.sp
  | .qctlStat f => eWord 0x3E#6 8#5 0#7 f.q f.p f.sp
  | .qctlEnable f => eWord 0x3E#6 8#5 1#7 f.q f.p f.sp
  | .qctlDisable f => eWord 0x3E#6 8#5 2#7 f.q f.p f.sp
  | .qctlInit f => eWord 0x3E#6 8#5 3#7 f.q f.p f.sp
  | .qctlPeriod f => eWord 0x3E#6 8#5 4#7 f.q f.p f.sp
  | .qctlSupervisor f => eWord 0x3E#6 8#5 5#7 f.q f.p f.sp
  | .qctlClear f => eWord 0x3E#6 8#5 6#7 f.q f.p f.sp
  | .cinit f => eWord 0x3E#6 9#5 (0#1 ++ f.r) (0#2 ++ f.ar) f.p f.sp
  | .cinc f => eWord 0x3E#6 10#5 (0#1 ++ f.r) (0#2 ++ f.ar) f.p f.sp
  | .cincRemote f => eWord 0x3E#6 10#5 (1#1 ++ f.r) (0#2 ++ f.ar) f.p f.sp
  | .cwait f => eWord 0x3E#6 11#5 (0#1 ++ f.r) (0#2 ++ f.ar) f.p f.sp
  | .cwaitPoll f => eWord 0x3E#6 11#5 (1#1 ++ f.r) (0#2 ++ f.ar) f.p f.sp
  | .barinit f => eWord 0x3E#6 12#5 (0#1 ++ f.r) (0#2 ++ f.ar) f.p f.sp
  | .barinitTeam f => eWord 0x3E#6 12#5 (1#1 ++ f.r) (0#2 ++ f.ar) f.p f.sp
  | .bararr f => eWord 0x3E#6 13#5 (0#1 ++ f.r) (0#2 ++ f.ar) f.p f.sp
  | .barwait f => eWord 0x3E#6 14#5 (0#1 ++ f.r) (0#2 ++ f.ar) f.p f.sp
  | .bartest f => eWord 0x3E#6 15#5 (0#1 ++ f.r) (0#2 ++ f.ar) f.p f.sp
  | .synkill f => eWord 0x3E#6 16#5 (0#1 ++ f.r) (0#2 ++ f.ar) f.p f.sp
  | .trig f => eWord 0x3E#6 17#5 0#7 0#6 0#6 f.sp
  | .cgload f => eWord 0x3E#6 18#5 0#7 f.q f.p f.sp
  | .cgrun f => eWord 0x3E#6 19#5 f.k f.q f.p f.sp
  | .cgwait f => eWord 0x3E#6 20#5 0#7 f.q f.p f.sp
  | .fence f => eWord 0x3F#6 0#5 0#7 f.scope (0#4 ++ f.kind) f.sp
  | .jmpi f => eWord 0x3F#6 1#5 0#7 0#6 f.p f.sp
  | .jmpiLink f => eWord 0x3F#6 1#5 1#7 0#6 f.p f.sp
  | .exit f => eWord 0x3F#6 2#5 0#7 0#6 0#6 f.sp
  | .trap f => eWord 0x3F#6 3#5 f.k 0#6 0#6 f.sp
  | .yield f => eWord 0x3F#6 4#5 0#7 0#6 0#6 f.sp
  | .rfree f => eWord 0x3F#6 5#5 0#7 f.q f.p f.sp
  | .csrr f => eWord 0x3F#6 6#5 f.k f.q f.p f.sp
  | .csrw f => eWord 0x3F#6 7#5 f.k f.q f.p f.sp
  | .sldi f => eWord 0x3F#6 8#5 f.k f.q f.p f.sp
  | .sldhi f => eWord 0x3F#6 9#5 f.k f.q f.p f.sp
  | .rfeRetry f => eWord 0x3F#6 10#5 0#7 0#6 0#6 f.sp
  | .rfeSkip f => eWord 0x3F#6 10#5 1#7 0#6 0#6 f.sp
  | .rfeReg f => eWord 0x3F#6 10#5 2#7 0#6 f.p f.sp
  | .ctxsave f => eWord 0x3F#6 11#5 0#7 (0#2 ++ f.ar) (0#2 ++ f.p) f.sp
  | .ctxload f => eWord 0x3F#6 12#5 0#7 (0#2 ++ f.ar) (0#2 ++ f.p) f.sp
  | .dusk f => eWord 0x3F#6 13#5 (0#6 ++ BitVec.ofBool f.keep) f.q f.p f.sp
  | .walkCfg f => eWord 0x3F#6 14#5 0#7 0#6 f.p f.sp
  | .walkRun f => eWord 0x3F#6 14#5 1#7 f.q 0#6 f.sp
  | .aadd f => eWord 0x3F#6 15#5 f.k (0#2 ++ f.ar) f.p f.sp
  | .aset f => eWord 0x3F#6 16#5 (0#2 ++ f.k) (0#2 ++ f.ar) f.p f.sp
  | .amov f => eWord 0x3F#6 17#5 0#7 (0#2 ++ f.ar) (0#2 ++ f.p) f.sp
  | .aget f => eWord 0x3F#6 18#5 (0#5 ++ f.k) (0#2 ++ f.ar) f.p f.sp
  | .pfres => 0#32
  | .prectl => 0#32
  | .vfcfg => 0#32
  | .vfsalt => 0#32
  | .pwrcap => 0#32
  | .rcRegisterRead => 0#32
  | .pdnStore => 0#32
  | .rsvReserve => 0#32
  | .coalesceTimeout => 0#32
  | .placeBand => 0#32
  | .activationReserving => 0#32
  | .issuePriorityAgeing => 0#32
  | .parkedSplitExchange => 0#32
  | .gridTrigger => 0#32
  | .gridComplete => 0#32
  | .forcedStop => 0#32
  | .blockFill => 0#32
  | .loadReturn => 0#32
  | .renewalReply => 0#32
  | .leaseExpiry => 0#32
  | .trackedRead => 0#32
  | .leaseLoad => 0#32
  | .ownershipRequest => 0#32
  | .homeWrite => 0#32
  | .commutativeUpdate => 0#32
  | .partialDelivery => 0#32
  | .invalidation => 0#32
  | .acknowledgement => 0#32
  | .l1Evict => 0#32
  | .evictionNotice => 0#32
  | .dramFill => 0#32
  | .sideLogReplay => 0#32
  | .copyArrival => 0#32
  | .matrixGrant => 0#32
  | .matrixOperationComplete => 0#32
  | .packetArrival => 0#32
  | .custodyAck => 0#32
  | .linkDown => 0#32
  | .linkTrainingComplete => 0#32
  | .lossOfHome => 0#32
  | .sharerPresumedUnreachable => 0#32
  | .remoteUnreachable => 0#32
  | .pathRestored => 0#32
  | .runActivate => 0#32
  | .chunkComplete => 0#32
  | .chunkSkip => 0#32
  | .parentArrival => 0#32
  | .watchdogFire => 0#32
  | .emitSpaceFreed => 0#32
  | .pcieRequest => 0#32
  | .completionTimeout => 0#32
  | .getVersion => 0#32
  | .getCapabilities => 0#32
  | .negotiateAlgorithms => 0#32
  | .getDigests => 0#32
  | .getCertificate => 0#32
  | .challenge => 0#32
  | .getMeasurements => 0#32
  | .unsupportedRequest => 0#32
  | .dawn => 0#32
  | .coolantBreach => 0#32
  | .coolantRestored => 0#32
  | .correctedError => 0#32
  | .uncorrectableError => 0#32
  | .coreRetire => 0#32
  | .clusterRetire => 0#32
  | .replaceAdvisory => 0#32
  | .illegalEncoding => 0#32
  | .fetchFault => 0#32

/-- The safe-point mask word an instruction carries, if it has one (R89); no 16-bit instruction and no event has. -/
def Instr.sp (i : Instr) : Sp :=
  match i with
  | .iadd16 _ => none
  | .isub16 _ => none
  | .and16 _ => none
  | .or16 _ => none
  | .xor16 _ => none
  | .shl16 _ => none
  | .shrl16 _ => none
  | .shra16 _ => none
  | .mov _ => none
  | .fadd16 _ => none
  | .fmul16 _ => none
  | .fmin16 _ => none
  | .fmax16 _ => none
  | .hadd216 _ => none
  | .hmul216 _ => none
  | .imax16 _ => none
  | .iadd f => f.sp
  | .isub f => f.sp
  | .imul f => f.sp
  | .imulh f => f.sp
  | .imulhu f => f.sp
  | .imad f => f.sp
  | .imin f => f.sp
  | .imax f => f.sp
  | .umin f => f.sp
  | .umax f => f.sp
  | .and f => f.sp
  | .or f => f.sp
  | .xor f => f.sp
  | .andn f => f.sp
  | .shl f => f.sp
  | .shrl f => f.sp
  | .shra f => f.sp
  | .seteq f => f.sp
  | .setlt f => f.sp
  | .sel f => f.sp
  | .fadd f => f.sp
  | .fsub f => f.sp
  | .fmul f => f.sp
  | .ffma f => f.sp
  | .fmin f => f.sp
  | .fmax f => f.sp
  | .fseteq f => f.sp
  | .fsetlt f => f.sp
  | .fsetle f => f.sp
  | .hadd2 f => f.sp
  | .hmul2 f => f.sp
  | .hfma2 f => f.sp
  | .ineg f => f.sp
  | .iabs f => f.sp
  | .popc f => f.sp
  | .clz f => f.sp
  | .ctz f => f.sp
  | .brev f => f.sp
  | .sext f => f.sp
  | .zext f => f.sp
  | .not f => f.sp
  | .fneg f => f.sp
  | .fabs f => f.sp
  | .fsqrt f => f.sp
  | .frsq f => f.sp
  | .frcp f => f.sp
  | .fexp2 f => f.sp
  | .flog2 f => f.sp
  | .fsin f => f.sp
  | .fcos f => f.sp
  | .ffloor f => f.sp
  | .fceil f => f.sp
  | .ftrunc f => f.sp
  | .frint f => f.sp
  | .cvt f => f.sp
  | .cvts f => f.sp
  | .cvtsr f => f.sp
  | .pkb f => f.sp
  | .pkh f => f.sp
  | .pkn f => f.sp
  | .upb f => f.sp
  | .upbs f => f.sp
  | .uph f => f.sp
  | .uphs f => f.sp
  | .upn f => f.sp
  | .upns f => f.sp
  | .qswx f => f.sp
  | .qswy f => f.sp
  | .qswd f => f.sp
  | .qbc f => f.sp
  | .qaddf f => f.sp
  | .qaddi f => f.sp
  | .qmaxf f => f.sp
  | .shfl f => f.sp
  | .shflup f => f.sp
  | .shfldn f => f.sp
  | .shflx f => f.sp
  | .vany f => f.sp
  | .vall f => f.sp
  | .ballot f => f.sp
  | .gaddi f => f.sp
  | .gaddf f => f.sp
  | .gmaxf f => f.sp
  | .setltu f => f.sp
  | .setle f => f.sp
  | .setleu f => f.sp
  | .setne f => f.sp
  | .fsetne f => f.sp
  | .fsetun f => f.sp
  | .fclass f => f.sp
  | .ldb f => f.sp
  | .ldh f => f.sp
  | .ldw f => f.sp
  | .ldd f => f.sp
  | .stb f => f.sp
  | .sth f => f.sp
  | .stw f => f.sp
  | .std f => f.sp
  | .atomAdd f => f.sp
  | .atomAddd f => f.sp
  | .atomAnd f => f.sp
  | .atomOr f => f.sp
  | .atomXor f => f.sp
  | .atomMin f => f.sp
  | .atomMax f => f.sp
  | .atomUmin f => f.sp
  | .atomUmax f => f.sp
  | .atomXchg f => f.sp
  | .atomCas f => f.sp
  | .atomAddf f => f.sp
  | .atomAdd2h f => f.sp
  | .atomMaxf f => f.sp
  | .atomMinf f => f.sp
  | .atomIncw f => f.sp
  | .skins f => f.sp
  | .skdel f => f.sp
  | .skqry f => f.sp
  | .skrank f => f.sp
  | .skmerge f => f.sp
  | .skfold f => f.sp
  | .skclear f => f.sp
  | .skinfo f => f.sp
  | .brc f => f.sp
  | .jmp f => f.sp
  | .call f => f.sp
  | .sadd f => f.sp
  | .ssub f => f.sp
  | .smul f => f.sp
  | .smulh f => f.sp
  | .sand f => f.sp
  | .sor f => f.sp
  | .sxor f => f.sp
  | .sandn f => f.sp
  | .sshl f => f.sp
  | .sshrl f => f.sp
  | .sshra f => f.sp
  | .smin f => f.sp
  | .smax f => f.sp
  | .sumin f => f.sp
  | .sumax f => f.sp
  | .sseteq f => f.sp
  | .ssetlt f => f.sp
  | .ssetltu f => f.sp
  | .ssel f => f.sp
  | .smov f => f.sp
  | .sld f => f.sp
  | .sldd f => f.sp
  | .sst f => f.sp
  | .sstd f => f.sp
  | .saddi f => f.sp
  | .rldw f => f.sp
  | .rldd f => f.sp
  | .rstw f => f.sp
  | .rstd f => f.sp
  | .raddi f => f.sp
  | .raddf f => f.sp
  | .rmaxf f => f.sp
  | .rcas f => f.sp
  | .rxchg f => f.sp
  | .rredf f => f.sp
  | .rredh f => f.sp
  | .gang f => f.sp
  | .mreq f => f.sp
  | .mreqTry f => f.sp
  | .mwl f => f.sp
  | .mpass f => f.sp
  | .mrdy f => f.sp
  | .mwait f => f.sp
  | .mdrain f => f.sp
  | .mrel f => f.sp
  | .mscale f => f.sp
  | .touch f => f.sp
  | .close f => f.sp
  | .waitb f => f.sp
  | .bind f => f.sp
  | .unbind f => f.sp
  | .seal f => f.sp
  | .unseal f => f.sp
  | .emit f => f.sp
  | .emitTry f => f.sp
  | .qctlStat f => f.sp
  | .qctlEnable f => f.sp
  | .qctlDisable f => f.sp
  | .qctlInit f => f.sp
  | .qctlPeriod f => f.sp
  | .qctlSupervisor f => f.sp
  | .qctlClear f => f.sp
  | .cinit f => f.sp
  | .cinc f => f.sp
  | .cincRemote f => f.sp
  | .cwait f => f.sp
  | .cwaitPoll f => f.sp
  | .barinit f => f.sp
  | .barinitTeam f => f.sp
  | .bararr f => f.sp
  | .barwait f => f.sp
  | .bartest f => f.sp
  | .synkill f => f.sp
  | .trig f => f.sp
  | .cgload f => f.sp
  | .cgrun f => f.sp
  | .cgwait f => f.sp
  | .fence f => f.sp
  | .jmpi f => f.sp
  | .jmpiLink f => f.sp
  | .exit f => f.sp
  | .trap f => f.sp
  | .yield f => f.sp
  | .rfree f => f.sp
  | .csrr f => f.sp
  | .csrw f => f.sp
  | .sldi f => f.sp
  | .sldhi f => f.sp
  | .rfeRetry f => f.sp
  | .rfeSkip f => f.sp
  | .rfeReg f => f.sp
  | .ctxsave f => f.sp
  | .ctxload f => f.sp
  | .dusk f => f.sp
  | .walkCfg f => f.sp
  | .walkRun f => f.sp
  | .aadd f => f.sp
  | .aset f => f.sp
  | .amov f => f.sp
  | .aget f => f.sp
  | .pfres => none
  | .prectl => none
  | .vfcfg => none
  | .vfsalt => none
  | .pwrcap => none
  | .rcRegisterRead => none
  | .pdnStore => none
  | .rsvReserve => none
  | .coalesceTimeout => none
  | .placeBand => none
  | .activationReserving => none
  | .issuePriorityAgeing => none
  | .parkedSplitExchange => none
  | .gridTrigger => none
  | .gridComplete => none
  | .forcedStop => none
  | .blockFill => none
  | .loadReturn => none
  | .renewalReply => none
  | .leaseExpiry => none
  | .trackedRead => none
  | .leaseLoad => none
  | .ownershipRequest => none
  | .homeWrite => none
  | .commutativeUpdate => none
  | .partialDelivery => none
  | .invalidation => none
  | .acknowledgement => none
  | .l1Evict => none
  | .evictionNotice => none
  | .dramFill => none
  | .sideLogReplay => none
  | .copyArrival => none
  | .matrixGrant => none
  | .matrixOperationComplete => none
  | .packetArrival => none
  | .custodyAck => none
  | .linkDown => none
  | .linkTrainingComplete => none
  | .lossOfHome => none
  | .sharerPresumedUnreachable => none
  | .remoteUnreachable => none
  | .pathRestored => none
  | .runActivate => none
  | .chunkComplete => none
  | .chunkSkip => none
  | .parentArrival => none
  | .watchdogFire => none
  | .emitSpaceFreed => none
  | .pcieRequest => none
  | .completionTimeout => none
  | .getVersion => none
  | .getCapabilities => none
  | .negotiateAlgorithms => none
  | .getDigests => none
  | .getCertificate => none
  | .challenge => none
  | .getMeasurements => none
  | .unsupportedRequest => none
  | .dawn => none
  | .coolantBreach => none
  | .coolantRestored => none
  | .correctedError => none
  | .uncorrectableError => none
  | .coreRetire => none
  | .clusterRetire => none
  | .replaceAdvisory => none
  | .illegalEncoding => none
  | .fetchFault => none

/-- Is the instruction a 16-bit one (R73)? -/
def Instr.isShort (i : Instr) : Bool := i.hasEncoding && !(encode i).getLsbD 0

/-- The halfwords of an instruction, its mask word included, as the memory holds them (R2, R73, R89). -/
def encodeHalves (i : Instr) : List (BitVec 16) :=
  let w := encode i
  if i.isShort then [w.extractLsb' 0 16]
  else [w.extractLsb' 0 16, w.extractLsb' 16 16] ++
    (match i.sp with
     | some m => [m.extractLsb' 0 16, m.extractLsb' 16 16]
     | none => [])

/-- Bytes an instruction occupies, its mask word included (R73, R91). -/
def Instr.size (i : Instr) : Nat := 2 * (encodeHalves i).length

end Sys2Proof
end

