-- ==== Sys2Proof/Machine/Fetch.lean ====
section
/-!
DEFINITION. Fetching an instruction (04_formats_and_opcode_map.md R73 to R75, R94): its halfwords through the group's
translation, the traps and page faults of a fetch (21_faults_and_recovery.md R329, R334), and the two events an
instruction that cannot be decoded ends in.
-/
namespace Sys2Proof.Machine

/-- Why a halfword cannot be fetched. -/
inductive FetchStop where
  | trap (i : TrapInfo)
  | fault (f : PageFault)
  deriving DecidableEq, Repr

/-- A trap of a fetch at the halfword's address. -/
def fetchInfo (k : TrapKind) (va : VAddr) : TrapInfo := { kind := k, addr := va.toNat, fetch := true }

/-- Does the walk end in a leaf that denies a fetch for good: `EX` = 0, `SUP` at `PL` 0, or a bad frame (R329)? -/
def fetchDenied (s : State) (c : Ctx) (va : Nat) : Bool :=
  match walkFrom s c.m va 4 0 c.l0 with
  | .error _ => false
  | .ok (e, level) =>
    let offBits := 46 - 10 * level
    let frame := bitsOf e 13 39 * 8192
    bitsOf e 52 4 = 0 && bitsOf e 2 2 = 0 && bitsOf e 11 2 ≠ 3 &&
    (!pageAllows c.pl .exec e || (frame % 2 ^ offBits = 0 && physOf s c.m (frame + va % 2 ^ offBits) = .bad))

/-- Has the group's fetch been held on a page that a `PFRES` then called unmappable (R334)? -/
def fetchFailed (g : Group) (va : VAddr) : Bool := g.faultFetch && g.failedPages.contains (va.toNat / 65536)

/-- Fetch one halfword. -/
def fetchHalf (s : State) (g : Group) (t : Team) (va : VAddr) : Except FetchStop (BitVec 16) :=
  if fetchFailed g va then .error (.trap (fetchInfo .page va))
  else match translate s t.tctx .exec va.toNat with
  | .ok p => match p.phys with
    | .dram ga =>
      if s.poison.contains (ga / 128) then .error (.trap (fetchInfo .poison va))
      else if cutOff s (coreMod g.core) (lineMod (ga / 128)) then .error (.trap (fetchInfo .unreach va))
      else .ok (s.byteAt (ga + 1) ++ s.byteAt ga)
    | _ => .error (.trap (fetchInfo .fetch va))
  | .error f =>
    if fetchDenied s t.tctx va.toNat then .error (.trap (fetchInfo .fetch va))
    else if g.retried.contains f.page && !s.pairs.contains ⟨coreMod g.core, t.vf, t.ctx, f.page⟩ then .error (.trap (fetchInfo .page va))
    else .error (.fault f)

/-- Fetch the halfwords the first ones ask for (R94): those fetched, and why it stopped, if it did. -/
def fetchHalves (s : State) (g : Group) (t : Team) (pc : VAddr) : List (BitVec 16) × Option FetchStop :=
  match fetchHalf s g t pc with
  | .error e => ([], some e)
  | .ok h0 =>
    if !h0.getLsbD 0 then ([h0], none)
    else match fetchHalf s g t (pc + 2) with
      | .error e => ([h0], some e)
      | .ok h1 =>
        if !h0.getLsbD 1 then ([h0, h1], none)
        else match fetchHalf s g t (pc + 4) with
          | .error e => ([h0, h1], some e)
          | .ok m0 => match fetchHalf s g t (pc + 6) with
            | .error e => ([h0, h1], some e)
            | .ok m1 => ([h0, h1, m0, m1], none)

/-- The instruction word of the halfwords fetched; the halfwords that could not be fetched are free (log 4). -/
def fetchedWord (n : Nat) : List (BitVec 16) → BitVec 32
  | [] => (Config.freeWord n).setWidth 32
  | [h0] => if h0.getLsbD 0 then (Config.freeWord n).setWidth 16 ++ h0 else h0.setWidth 32
  | h0 :: h1 :: _ => h1 ++ h0

/-- The issuing instruction of a split. -/
def curOf (s : State) (g : Group) (sp : Split) (hs : List (BitVec 16)) : Cur :=
  ⟨g.core, g.slot, sp.slot, sp.pc, sp.pc + BitVec.ofNat 56 (2 * hs.length), fetchedWord s.freeCount hs⟩

/-- What issuing a split comes to. -/
inductive Fetched where
  /-- an instruction to execute -/
  | run (i : Instr) (s : State)
  /-- nothing more to do in this turn -/
  | stop (s : State)
  deriving DecidableEq, Repr

/-- Can the group issue at all: not parked, not faulted, not held by a page, not at a safe point that waits for the reply of a
load in Twilight (R226)? -/
def Group.mayIssue (g : Group) : Bool :=
  !g.faulted && g.heldPages.isEmpty && g.parkMask.isNone && (match g.preempt with | .parked _ => false | .stopped => false | _ => true)

/-- The fetch of a group meets page faults: the group is held and the fault reported (R334). R127's list of group switches does
not name it: the latches stay (DESIGN CHOICE, log 89). -/
def holdFetch (s : State) (g : Group) (t : Team) (split : Nat) (f : PageFault) : State :=
  let (s, dead) := raisePageFault s t.tctx (coreMod g.core) t.node f 10 g.core g.slot
  s.modGroup g.core g.slot fun g =>
    let g := { g with faultSplit := split, faultFetch := true }
    if dead then { g with failedPages := f.page :: g.failedPages } else { g with heldPages := [f.page] }

/-- The issuing split's traps of a fetch other than FETCH, which has an event of its own. -/
def fetchTrap (s : State) (i : TrapInfo) : State :=
  match s.issue? with
  | some x => takeTrap s x i
  | none => s

/-- Is the core's module clocked: Dawn has run, and the coolant is within its limits (R347, R353)? -/
def coreRuns (s : State) (core : Nat) : Bool := (s.mod (coreMod core)).done && (s.mod (coreMod core)).cool

/-- The state in which a group's released reservation is posted again; none while it must wait, or where there is none (R50). -/
def repostDue (s : State) (g : Group) : Option State := g.savedRes.bind (repost s g)

/-- May a split not issue now: it is held, an instruction of another split holds the whole group (R168, R314, R345), or a split
held in a lower slot has still to issue its instruction again (R275)? -/
def splitBarred (g : Group) (p : Split) : Bool :=
  p.held || (g.arch.splits.any fun q => q.holds && q.slot != p.slot) || g.arch.parked.any (·.holds) ||
  (decide (0 < p.heldAt) && g.arch.splits.any fun q => decide (q.slot < p.slot) && decide (0 < q.heldAt) && !q.held && !q.stalled)

/-- Fetch and decode the next instruction of a split, or what stops it. A faulted group leaves once its accesses are
complete (R332). -/
def fetchSplit (s : State) (core slot split : Nat) : Fetched :=
  match s.group? core slot with
  | none => .stop s
  | some g =>
    if g.faulted then
      .stop (if !hasFlight s g && !hasLog s core slot then faultLeave s core slot else s)
    else if !g.mayIssue || !coreRuns s core then .stop s
    else if g.savedRes.isSome then .stop ((repostDue s g).getD s)
    else match s.team? g.team, g.arch.splits.find? (fun p => p.slot == split) with
    | some t, some sp =>
      if splitBarred g sp then .stop s
      else
        let (hs, stop) := fetchHalves s g t sp.pc
        let c := curOf s g sp hs
        match stop with
        | some (.fault f) => .stop (holdFetch s g t split f)
        | some (.trap i) =>
          let s := { s with cur := some c, freeCount := s.freeCount + 1 }
          if i.kind = .fetch then .run .fetchFault { s with ev := { v := BitVec.ofNat 64 i.addr } }
          else .stop (fetchTrap s i)
        | none =>
          let s := { s with cur := some c }
          match decode hs with
          | .ok i => .run i s
          | .error _ => .run .illegalEncoding { s with ev := { v := c.word.setWidth 64 } }
    | _, _ => .stop s

/-- ILLEGAL_ENCODING (R74, R77, R88, R95): an encoding that is no instruction raises ILLINS for the whole split. -/
def execIllegalEncoding (s : State) : Out := trapHere s (trapAll .illins)

/-- FETCH_FAULT (R75): FETCH at the instruction's first halfword, with the halfword address in `v`. -/
def execFetchFault (s : State) : Out := trapHere s (fetchInfo .fetch (s.ev.v.setWidth 56))

end Sys2Proof.Machine
end

