-- ==== Sys2Proof/Machine/Sha3.lean ====
section
/-!
DEFINITION. SHA3-256 (FIPS 202), with which Dawn extends the measurements (23_host_fabric_and_bring_up.md R348). The manual
names the function and does not give it: PRESUMED (log 27).
-/
namespace Sys2Proof.Machine

/-- Rotate a lane left. -/
def rotLane (v : DWord) (n : Nat) : DWord := (v <<< (n % 64)) ||| (v >>> ((64 - n % 64) % 64)) &&& (if n % 64 = 0 then 0 else BitVec.allOnes 64)

/-- Round constants of Keccak-f[1600]. -/
def keccakRC : List DWord :=
  [0x0000000000000001, 0x0000000000008082, 0x800000000000808A, 0x8000000080008000, 0x000000000000808B, 0x0000000080000001,
   0x8000000080008081, 0x8000000000008009, 0x000000000000008A, 0x0000000000000088, 0x0000000080008009, 0x000000008000000A] ++
  [0x000000008000808B, 0x800000000000008B, 0x8000000000008089, 0x8000000000008003, 0x8000000000008002, 0x8000000000000080,
   0x000000000000800A, 0x800000008000000A, 0x8000000080008081, 0x8000000000008080, 0x0000000080000001, 0x8000000080008008]

/-- Rotation offsets, lane x + 5y. -/
def keccakRot : List Nat :=
  [0, 1, 62, 28, 27, 36, 44, 6, 55, 20, 3, 10, 43, 25, 39, 41, 45, 15, 21, 8, 18, 2, 61, 56, 14]

/-- One round of Keccak-f[1600]. -/
def keccakRound (a : List DWord) (rc : DWord) : List DWord :=
  let at_ (l : List DWord) (x y : Nat) : DWord := nth l (x % 5 + 5 * (y % 5)) 0
  let c := (List.range 5).map fun x => (List.range 5).foldl (fun v y => v ^^^ at_ a x y) (0 : DWord)
  let d := (List.range 5).map fun x => nth c ((x + 4) % 5) 0 ^^^ rotLane (nth c ((x + 1) % 5) 0) 1
  let t := (List.range 25).map fun i => nth a i 0 ^^^ nth d (i % 5) 0
  -- the lane that moves to (x, y) comes from (x + 3y, x)
  let b := (List.range 25).map fun i =>
    let x := i % 5
    let y := i / 5
    let j := (x + 3 * y) % 5 + 5 * x
    rotLane (nth t j 0) (nth keccakRot j 0)
  (List.range 25).map fun i =>
    let x := i % 5
    let y := i / 5
    let v := at_ b x y ^^^ (~~~(at_ b (x + 1) y) &&& at_ b (x + 2) y)
    if i = 0 then v ^^^ rc else v

/-- The permutation. -/
def keccakF (a : List DWord) : List DWord := keccakRC.foldl keccakRound a

/-- SHA3-256 of at most 135 bytes, one block: the digest, byte 0 lowest. -/
def sha3Short (bs : List Byte) : BitVec 256 :=
  let pad : List Byte := bs ++ [0x06] ++ List.replicate (135 - bs.length) 0
  let block := (ofBytes pad ||| 2 ^ (8 * 136 - 1))
  let a := (List.range 25).map fun i => if i < 17 then BitVec.ofNat 64 (block / 2 ^ (64 * i)) else (0 : DWord)
  let r := keccakF a
  BitVec.ofNat 256 ((List.range 4).foldl (fun n i => n + (nth r i 0).toNat * 2 ^ (64 * i)) 0)

/-- An index extended by a digest: SHA3-256 of the two, one after the other (R348). -/
def extendMeasurement (m digest : BitVec 256) : BitVec 256 := sha3Short (leBytes 32 m.toNat ++ leBytes 32 digest.toNat)

end Sys2Proof.Machine
end

