-- ==== Sys2Proof/Machine/System.lean ====
section
/-!
DEFINITION. `ctxsave`, `ctxload`, `dusk`, the walker (08_control_group_and_system_instructions.md R167 to R169; 21 R338,
R339; 22 R342, R343; 15_queues.md R268), the forced stop (02 R50) and the fill of a spilled block (06 R122).
-/
namespace Sys2Proof.Machine

/-! ## The context image (Table Control 5) -/

/-- The allocated blocks of a group, as a mask of bits [14:0]. -/
def allocMask (g : Group) : Nat := (rblk g).toNat % 2 ^ 15

/-- The doublewords of the header, by byte offset. -/
def imageHeader (g : Group) : List (Nat × DWord) :=
  [(0, g.trap.tpc), (8, g.trap.tcause), (16, g.arch.fpcr.setWidth 64), (24, g.arch.srseed), (32, g.arch.gang),
   (40, BitVec.ofNat 64 (allocMask g)), (48, BitVec.ofNat 64 (g.width + g.trap.handler.toNat * 256)), (56, 0)]

/-- The doublewords of the scalar registers. -/
def imageScalars (g : Group) : List (Nat × DWord) := (List.range 48).map fun n => (64 + 8 * n, nth g.arch.sregs n 0)

/-- The doublewords of the address registers, and the zeros above them. -/
def imageAregs (g : Group) : List (Nat × DWord) :=
  ((List.range 16).flatMap fun j =>
    let a := addrReg g j
    [(448 + 32 * j, a.ptr.setWidth 64), (456 + 32 * j, a.base.setWidth 64), (464 + 32 * j, a.limit.setWidth 64),
     (472 + 32 * j, a.perm.setWidth 64)]) ++ (List.range 8).map fun i => (960 + 8 * i, (0 : DWord))

/-- The doublewords of the allocated blocks. -/
def imageBlocks (g : Group) : List (Nat × DWord) :=
  (List.range 15).flatMap fun b =>
    if !(allocMask g).testBit b then [] else (List.range (4 * g.width)).map fun e =>
      let x := nth g.arch.blocks b .unallocated
      (1024 + 32 * g.width * b + 8 * e, (x.get (2 * e + 1) ++ x.get (2 * e) : DWord))

/-- The image a `ctxsave` of some parts writes. -/
def ctxImage (g : Group) (parts : BitVec 4) : List (Nat × DWord) :=
  (if parts.getLsbD 0 then imageHeader g else []) ++ (if parts.getLsbD 1 then imageScalars g else []) ++
  (if parts.getLsbD 2 then imageAregs g else []) ++ (if parts.getLsbD 3 then imageBlocks g else [])

/-- Bytes of the image (R167). -/
def ctxSize (w : Nat) (parts : BitVec 4) : Nat := 1024 + if parts.getLsbD 3 then 480 * w else 0

/-- The checks of R167 on the address register, in the order of R197. -/
def ctxCheck (x : Issue) (a : AReg) (n : Nat) (write : Bool) : Option TrapInfo :=
  let ea := a.ptr.toNat
  let t (k : TrapKind) : Option TrapInfo := some { kind := k, addr := ea, write := write }
  if !(if write then a.wr else a.rd) then t .perm
  else if a.rgn ≠ 0 && a.rgn ≠ 4 then t .attr
  else if outOfBounds x a n ea then t .bounds
  else if ea % 128 ≠ 0 then t .align
  else none

/-- The registers of the allocated blocks of the issuing group, those an earlier access has still to allocate among them
(R129). -/
def allocRegs (s : State) : List Nat :=
  match s.issue? with
  | some x => ((List.range 15).filter fun b => (allocMask x.g).testBit b || blockReserved x.g b).flatMap fun b => (List.range 8).map (8 * b + ·)
  | none => []

/-- The accesses of a `ctxsave`: 8 bytes each, to a region of global memory or of the S region. -/
def ctxStoreKind : Kind := ⟨8, AReg.wr, [0, 4], [0, 1], true, false, false⟩

/-- `ctxsave` (R167). -/
def execCtxsave (f : CtxForm) (s : State) : Out :=
  withOps s f.sp { lr := if f.p.getLsbD 3 then allocRegs s else [], sr := if f.p.getLsbD 1 then List.range 48 else [] } fun s x =>
    let a := addrReg x.g f.ar.toNat
    match ctxCheck x a (ctxSize x.g.width f.p) true with
    | some t => .trap t
    | none =>
      let ops := (ctxImage x.g f.p).map fun w => (⟨0, a.ptr.toNat + w.1, w.2, 0⟩ : LaneOp)
      match storeOp s (plainLane x) f.sp a ctxStoreKind ⟨0, 0, .plain, false⟩ ops with
      | .done s' => .done (s'.modGroup x.g.core x.g.slot fun g => { g with arch := { g.arch with helpers := x.g.arch.helpers } })
      | r => scalarTrap r

/-- The accesses of a `ctxload`, of the same regions. -/
def ctxLoadKind : Kind := ⟨8, AReg.rd, [0, 4], [0, 1], false, false, true⟩

/-- The doublewords a `ctxload` reads from an address, each as a lane of its own. -/
def ctxOps (ea n : Nat) : List LaneOp := (List.range (n / 8)).map fun i => ⟨i, ea + 8 * i, 0, 0⟩

/-- The number the doublewords of an image make. -/
def imageOf (vals : List (Nat × DWord)) : Nat := vals.foldl (fun v p => v + p.2.toNat * 2 ^ (64 * p.1)) 0

/-- Read the image from the S region once its lines are full; a wait at an empty line starts a copy (R173, R269). -/
def ctxLocal (s : State) (x : Issue) (a : AReg) (n : Nat) : PlainRead :=
  let key := localKey x.g.core (regionBase x.t 4 + a.ptr.toNat)
  let ks := (List.range ((key % 128 + n + 127) / 128)).map fun i => key / 128 + i
  if ks.any fun k => s.lpoison.contains k then .stop (.trap { kind := .poison, code := 1, addr := a.ptr.toNat })
  else if ks.any fun k => s.lineState k != some .full then .stop (.held (touchKeys s x.g.core x.g.slot x.g.team ks))
  else .data (memReadLE s.lmem key n) s

/-- Read the image from global memory by plain loads of the ownership policy (R167, R201): what the L1 holds at once, the rest
when the homes have replied, till when the split waits. -/
def ctxGlobal (s : State) (x : Issue) (a : AReg) (n : Nat) : PlainRead :=
  match x.sp.passTxn with
  | some id => match x.g.txns.find? fun t => t.id == id with
    | none => .stop .wait
    | some t => if 0 < t.out then .stop .wait else .data (imageOf t.lanes) s
  | none =>
    let y := plainLane x
    match checkLanes s y a ctxLoadKind (ctxOps a.ptr.toNat n) with
    | .error t => .stop (scalarTrap (.trap t))
    | .ok f =>
      if !f.faults.isEmpty then .stop (scalarTrap (holdFaults s x false f.faults))
      else match laneTrap y f.ok (loadCheck s x) with
      | some t => .stop (scalarTrap (.trap t))
      | none =>
        if accessStalls s x a ctxLoadKind f.ok then .stop .wait
        else if mustWait s x a ctxLoadKind f.ok || copyWaits s x a ctxLoadKind f then .stop (.pause s)
        else
          let id := s.nextId
          let r := loadLines { s with nextId := id + 1 } x ⟨0, 0, .plain, false⟩ false f.ok id
          let (direct, s') := directVals r.s x false f.ok
          let vals := gather64 (List.range (n / 8)) (direct ++ r.got)
          if r.asked = 0 then .data (imageOf vals) s'
          else .stop (.began (modSplit (s'.modGroup x.g.core x.g.slot fun g =>
            { g with txns := g.txns ++ [⟨id, x.active, .lanes 0 0, true, vals, r.asked, [], none⟩] }) x fun p => { p with passTxn := some id }))

/-- Block `b` as the image holds it. -/
def imageBlock (w img b : Nat) : Block :=
  .resident ((List.range (8 * w)).map fun e => BitVec.ofNat 32 (img / 2 ^ (8 * (1024 + 32 * w * b + 4 * e))))

/-- The group with the parts of an image loaded (R167). -/
def ctxRestore (g : Group) (parts : BitVec 4) (img : Nat) : Group :=
  let dw (o : Nat) : DWord := BitVec.ofNat 64 (img / 2 ^ (8 * o))
  let arch := g.arch
  let arch := if parts.getLsbD 0 then { arch with fpcr := fpcrWrite arch.fpcr (dw 16), srseed := dw 24 } else arch
  let arch := if parts.getLsbD 1 then { arch with sregs := (List.range 48).map fun n => dw (64 + 8 * n) } else arch
  let arch := if parts.getLsbD 3 then { arch with
    blocks := (List.range 15).map fun b => if (dw 40).getLsbD b then imageBlock g.width img b else .unallocated } else arch
  { g with arch := arch, badBlocks := if parts.getLsbD 3 then [] else g.badBlocks }

/-- Room for blocks that are not resident now. -/
def ctxRoom (s : State) (x : Issue) (g : Group) : Option State :=
  let need := 32 * x.g.width * (residentBlocks g - residentBlocks x.g)
  if need = 0 then some s else makeRoom need x.g.core x.g.slot 1024 s

/-- `ctxload` (R167). -/
def execCtxload (f : CtxForm) (s : State) : Out :=
  if f.p.getLsbD 2 then trapHere s (trapAll .illins)
  else withOps s f.sp {} fun s x =>
    let a := addrReg x.g f.ar.toNat
    let n := ctxSize x.g.width f.p
    match ctxCheck x a n false with
    | some t => .trap t
    | none =>
      if rowWaits s x a then .pause s
      else match (if a.rgn = 0 then ctxGlobal s x a n else ctxLocal s x a n) with
      | .stop r => r
      | .data img s =>
        if img / 2 ^ 384 % 256 ≠ x.g.width then .trap (trapAll .illopnd)
        else if x.g.txns.any fun t => x.sp.passTxn != some t.id then .wait
        else
          let g := ctxRestore { x.g with txns := [] } f.p img
          match ctxRoom s x g with
          | none => .pause s
          | some s => .done (finishPlain s x f.sp g)

/-! ## Dusk (R168) -/

/-- The cores of a partition of a module. -/
def partCores (s : State) (m p : Nat) : List Nat :=
  match s.partition? m p with
  | none => []
  | some y => y.clusters.flatMap fun cl => (List.range 4).map fun c => m * 256 + cl * 4 + c

/-- The clusters of a partition, counted over the fabric. -/
def partClusters (s : State) (m p : Nat) : List Nat :=
  match s.partition? m p with
  | none => []
  | some y => y.clusters.map fun cl => m * 64 + cl

/-- The nodes of a partition. -/
def partNodes (s : State) (m p : Nat) : List Nat :=
  (List.range 1024).filter fun n => let e := nodeEntry s m n; e.assigned && e.part = p

/-- The group stops for good: what it held in Twilight is dropped, it issues no more (R168, R226). -/
def Group.stop (g : Group) : Group :=
  let g := match g.twi with | some t => g.dropTwilight t | none => g
  { g with preempt := .stopped, heldPages := [], parkMask := none }

/-- A chunk that has not started, or is held on a page. -/
def ChunkState.unstarted : ChunkState → Bool
  | .waiting _ => true
  | .held _ => true
  | _ => false

/-- The unstarted chunks of the runs of a set of cores are abandoned, those held on a page too (R308, R339). -/
def abandonRuns (s : State) (cores : List Nat) : State :=
  let hit (r : CRun) : Bool := cores.contains r.core
  let drop (t : ChunkState) : ChunkState := if t.unstarted then .skipped else t
  let rs := (s.runs.filter hit).map (·.id)
  let s := { s with
    runs := (s.runs.filter fun r => !hit r || r.active).map fun r =>
      if hit r then { r with states := r.states.map drop, skipped := r.skipped || r.states.any ChunkState.unstarted } else r }
  rs.foldl endRun s

/-- Operations posted to the engines of a set of clusters that are not in progress are abandoned, with `ABT` (R293, R296). -/
def abandonOps (s : State) (cls : List Nat) : State :=
  let lost (e : Engine) (i : Nat) : List MTask := match e.running with
    | some (k, _) => if k = i then [] else (e.entry i).posted
    | none => (e.entry i).posted
  let gone := (s.engines.filter fun e => cls.contains e.cluster).flatMap fun e => (List.range 16).flatMap (lost e)
  let s := gone.foldl (fun s t => recordStatus s t abtStatus) s
  { s with engines := mapWhere (fun e => cls.contains e.cluster) (fun e =>
    { e with entries := e.entries.mapIdx fun i x => { x with posted := match e.running with
        | some (k, hs) => if k = i then hs else []
        | none => [] } }) s.engines }

/-- The queue of a node of the partition as `dusk` leaves it: disabled and frozen, as a `qctl` would (R263, R342). -/
def Queue.shut (cyc : Nat) (q : Queue) : Queue := { q.setEn cyc false with frozen := true }

/-- Step 1 and 2: the queues of the partition freeze, its launches are abandoned, its groups stop at once and unsaved: R48
has `dusk` request pre-emption, R168 has it stop groups at the next boundary without saving them; R168 is followed (DESIGN
CHOICE, log 88; R168, R342). -/
def startDrain (s : State) (m p : Nat) : State :=
  let cores := partCores s m p
  let s := (partNodes s m p).foldl (fun s n => s.modQueue m n (Queue.shut s.cyc)) s
  let mine (g : Group) : Bool := cores.contains g.core && !g.faulted
  let n := (s.groups.filter mine).length
  let s := (s.groups.filter mine).foldl (fun s g => withdrawArrival s g.core g.slot) s
  let s := { s with
    acts := s.acts.filter fun a => !(a.m == m && a.part == p)
    groups := mapWhere mine Group.stop s.groups }
  (abandonOps (abandonRuns s cores) (partClusters s m p)).modDrain m p fun d => { d with grp := n }

/-- Entries that wait for a page or a target are discarded and reported (R338). -/
def drainLog (s : State) (cores : List Nat) : State :=
  (s.log.filter fun e => cores.contains e.core && e.st ≠ 2 && !e.loss).foldl (fun s e => discardEntry s e 4) s

/-- Updates on their way to a home that has been lost are discarded and reported; the second half of an `add2h` is at its home (R245,
R250, R338). -/
def drainReqs (s : State) (m p : Nat) (cores : List Nat) : State :=
  (s.reqs.filter fun r => cores.contains r.core && !r.inRound && r.fn != .atomic 16 && cutOff s (coreMod r.core) (lineMod r.line)).foldl (fun s r =>
    let s := s.dropReq r.id
    if !r.fn.writes then s
    else match r.agent with
      | .group c k => reportLoss s c k (((r.accs.head?).map LaneAcc.va).getD 0) 0 4 (r.accs.map LaneAcc.lane).eraseDups.length
      | .sideLog _ => s.modDrain m p fun d => { d with rpt := d.rpt + 1 }) s

/-- Does a loss record of a partition's nodes wait at a full supervisor queue that stays in use (R265, R343)? -/
def lossOpen (s : State) (m p : Nat) : Bool :=
  s.queues.any fun q => q.m == m && (nodeEntry s m q.node).part != p &&
    q.waiting.any fun r => r.bytes.take 2 == leBytes 2 4 && (nodeEntry s m r.fromNode).part == p

/-- Is an arrival at a parent barrier under way on a module, to a home that a path reaches (R316, R343)? -/
def parentOpen (s : State) (m : Nat) : Bool :=
  s.parents.any fun p => p.m == m && match translate s ⟨p.m, p.vf, p.ctx, p.l0, p.pl⟩ .write p.va.toNat with
    | .ok g => (match g.phys with | .dram ga => !noPath s m (lineMod (ga / 128)) | _ => true)
    | .error _ => true

/-- Has the partition nothing outstanding left: faulted groups gone, logs and streams empty, losses published, no request in flight,
no arrival at a parent barrier, no step of a local access to take, no chunk started, no written line cut off (R338, R339, R343)? -/
def drained (s : State) (m p : Nat) (cores : List Nat) : Bool :=
  !lossOpen s m p && !parentOpen s m &&
  s.groups.all (fun g => !cores.contains g.core || !g.faulted) &&
  s.log.all (fun e => !cores.contains e.core || e.loss) &&
  s.runs.all (fun r => !cores.contains r.core || r.states.all ChunkState.over) &&
  s.reqs.all (fun r => !cores.contains r.core) &&
  s.streams.all (fun t => !cores.contains t.core || (t.buffer.isEmpty && t.flight.isEmpty)) &&
  s.rests.all (fun r => !cores.contains r.core || r.blocked s) &&
  s.l1.all fun c => !cores.contains c.core || !noPath s (coreMod c.core) (lineMod c.line) ||
    match c.kind with | .tracked => true | .leased .. => true | _ => false

/-- The operation in progress on a cluster completes; one whose lines nothing fills is abandoned (R286, R296). Then the
latch and the table are clear. -/
def clearEngine (s : State) (cl : Nat) : State :=
  let s := match (s.engine cl).running with
    | none => s
    | some (i, hs) => match reload s cl i hs with
      | none => s
      | some s' => if hs.all (taskReady s' (s'.engine cl).tile) then endOps s' (hs.foldl (fun s t => runTask s cl i t) s') cl i hs
        else hs.foldl (fun s t => recordStatus s t abtStatus) s
  s.modEngine cl fun e => { Engine.reset cl with nextPseq := e.nextPseq }

/-- Step 4 on a core: the L1 is written back and empty, the local store zero with every line empty, the generation one
higher (R168, R174). -/
def scrubCore (s : State) (core : Nat) : State :=
  let s := (s.l1.filter fun c => c.core == core).foldl (fun s c => evictCopy s core c.line) s
  let here (k per : Nat) : Bool := k / per = core
  let s := { s with
    lmem := s.lmem.filter fun c => !here c.1 localBytes
    lines := s.lines.filter fun l => !here l.1 (localBytes / 128)
    lpoison := s.lpoison.filter fun k => !here k (localBytes / 128) }
  s.modCore core fun c => { c with gen := c.gen + 1 }

/-- Records a queue holds (R168). -/
def Queue.held (q : Queue) : Nat := q.rsv - q.fre

/-- A queue emptied, so that its watchdog counts anew, or its records kept (R265, R268). -/
def Queue.dusk (keep : Bool) (tick : Nat) (q : Queue) : Queue :=
  if keep then
    { q with tkn := q.fre, completed := [], pubTicks := (List.range (q.pub - q.fre)).map fun i => (q.fre + i, tick) }
  else { q with pub := q.fre, rsv := q.fre, tkn := q.fre, done := [], completed := [], pubTicks := [], wcount := 0 }

/-- Step 5 for a node: its queue, and its credits with an emptied queue (R168, R268). -/
def duskNode (keep : Bool) (m : Nat) (s : State) (n : Nat) : State :=
  let s := s.modQueue m n fun q => (q.dusk keep s.ltick).shut s.cyc
  if keep then s
  else
    let s := { s with owed := s.owed.filter fun o => !(o.1 == m && o.2.1 == n) }
    (List.range 8).foldl (fun s i => setCredits s m n i 0) s

/-- The cores with something sent to a module, or held to be sent to it. -/
def sendersTo (s : State) (m : Nat) : List Nat :=
  ((s.streams.filter fun t => t.target == m).map (·.core) ++ (s.log.filter fun e => e.remote && e.peer == m).map (·.core)).eraseDups

/-- The receive windows of a module take a new epoch, those nothing has reached yet too (R274). -/
def newEpoch (s : State) (m : Nat) : State :=
  let s := (sendersTo s m).foldl (fun s c => s.setWindow (s.window c m)) s
  { s with windows := mapWhere (fun w => w.target == m) (fun w => { w with epo := w.epo + 1, reorder := [] }) s.windows }

/-- Steps 3 to 6 once nothing is outstanding; the result of Table Control 6. An activation that a `qctl` enable during the drain has
made ready is kept, to be placed after it (R168 speaks of stopped launches; DESIGN CHOICE, log 99). -/
def endDrain (s : State) (m p : Nat) (keep : Bool) : DWord × State :=
  let cores := partCores s m p
  let d := (s.drains.find? fun d => d.on && d.m == m && d.part == p).getD ⟨m, p, 0, 0, 0, true, 0, 0⟩
  let s := (partClusters s m p).foldl clearEngine s
  let s := { s with
    groups := s.groups.filter fun g => !cores.contains g.core
    rests := s.rests.filter fun r => !cores.contains r.core
    teams := s.teams.filter fun t => !cores.contains t.core }
  let s := cores.foldl scrubCore s
  let nodes := partNodes s m p
  let rec_ := if keep then 0 else nodes.foldl (fun n k => n + (s.queue m k).held) 0
  let s := nodes.foldl (duskNode keep m) s
  let gone (d : Drain) : Bool := (d.on && d.m == m && d.part == p) || (!d.on && cores.contains d.core)
  let s := newEpoch { s with drains := s.drains.filter fun d => !gone d } m
  let s := s.modMod m fun x => { x with parts := mapWhere (fun y => y.num == p) (fun y => { y with dusked := true }) x.parts }
  (BitVec.ofNat 64 (min d.rpt 65535 * 2 ^ 32 + min d.grp 65535 * 2 ^ 16 + min rec_ 65535), s)

/-- Is a drain the one the issuing split has asked for? -/
def Drain.mine (x : Issue) (p : Nat) (d : Drain) : Bool :=
  d.m == x.m && d.part == p && d.core == x.g.core && d.slot == x.g.slot && d.pc == x.cur.pc

/-- The drains of a partition that stand before the issuing split's own; a drain under way whose issuer is gone is the next
one's (log 63). -/
def drainsAhead (s : State) (x : Issue) (p : Nat) : List Drain :=
  ((s.drains.filter fun d => d.m == x.m && d.part == p).takeWhile fun d => !d.mine x p).filter fun d =>
    (s.group? d.core d.slot).isSome

/-- `dusk` (R168, R338, R339, R342, R343). The group waits while the drain is under way; drains of the partition that
reached it before go first. -/
def execDusk (f : DuskForm) (s : State) : Out :=
  withOps s f.sp { sr := [f.p.toNat], sw := [f.q.toNat], pl := 2 } fun s x =>
    let p := (scalarReg s x f.p.toNat).toNat % 256
    if (s.partition? x.m p).isNone || (s.corePart x.g.core).num = p then .trap (trapAll .illopnd)
    else
    let s := if s.drains.any (Drain.mine x p) then s
      else { s with drains := s.drains ++ [⟨x.m, p, x.g.core, x.g.slot, x.cur.pc, false, 0, 0⟩] }
    if !(drainsAhead s x p).isEmpty then .held (holdGroup s x)
    else if !s.drains.any fun d => d.on && d.mine x p then
      let orphan (d : Drain) : Bool := d.on && d.m == x.m && d.part == p && !d.mine x p
      .held (holdGroup (startDrain { s with drains := mapWhere (Drain.mine x p) (fun d => { d with on := true }) (s.drains.filter fun d => !orphan d) } x.m p) x)
    else
      let cores := partCores s x.m p
      let late (a : Activation) : Bool := a.m == x.m && a.part == p && (s.queue x.m a.node).frozen
      let s := { s with acts := s.acts.filter fun a => !late a }
      let s := drainReqs (abandonRuns (drainLog s cores) cores) x.m p cores
      if !drained s x.m p cores then .held (holdGroup s x)
      else
        let (v, s) := endDrain s x.m p f.keep
        .done (acquireDo (finishPlain s x f.sp (x.g.putScalar f.q.toNat v)) x.g.core x.t.vf 4)

/-! ## The walker (R169, Table Control 7) -/

/-- `walk cfg` (R169). -/
def execWalkCfg (f : EpForm) (s : State) : Out :=
  withOps s f.sp { sr := [f.p.toNat], pl := 3 } fun s x =>
    let v := scalarReg s x f.p.toNat
    if v.extractLsb' 21 43 ≠ 0 || v.toNat % 64 ≠ 0 then .trap (trapAll .illopnd)
    else
      let d := BitVec.ofNat 512 (memReadLE s.lmem (localKey x.g.core v.toNat) 64)
      .done ((finishPlain s x f.sp x.g).modCore x.g.core fun c => { c with walker := d })

/-- A field of the descriptor at a byte offset. -/
def walkField (d : BitVec 512) (off bits : Nat) : Nat := d.toNat / 2 ^ (8 * off) % 2 ^ bits

/-- An address of a walk: base plus coefficients times indices, or none where it leaves the space its base names; the L1 arrays
are not addressable (R170). -/
inductive WalkAt where
  | loc (key : Nat)
  | phys (ga : Nat)
  | bad
  deriving DecidableEq, Repr

/-- Access `k` (0 or 1) of a walk at the indices. Local addresses of the R region are bytes of the local store that no register
block or group area lies in (the spec does not say where these lie: DESIGN CHOICE, log 100). -/
def walkAt (s : State) (core : Nat) (d : BitVec 512) (k unit : Nat) (idx : List Nat) : WalkAt :=
  let base := walkField d (8 + 24 * k) 64
  let sum : Int := idx.zipIdx.foldl (fun (t : Int) p => t + signed 32 (walkField d (16 + 24 * k + 4 * p.2) 32) * (p.1 : Int)) (0 : Int)
  let a : Int := ((base % 2 ^ 63 : Nat) : Int) + sum
  let n := a.toNat
  if a < 0 || n % unit ≠ 0 then .bad
  else if base < 2 ^ 63 then (if n + unit ≤ localBytes - (s.corePart core).l1KiB * 1024 then .loc (localKey core n) else .bad)
  else if 2 ^ 52 ≤ n then .bad
  else match physOf s (coreMod core) n with
    | .dram ga => .phys ga
    | _ => .bad

/-- Read a unit. -/
def walkRead (s : State) (a : WalkAt) (unit : Nat) : Nat × State :=
  match a with
  | .loc key => (memReadLE s.lmem key unit, s)
  | .phys ga => homeRead s .hw ga unit
  | .bad => (0, s)

/-- Does an address of a walk wait for its line's home? -/
def WalkAt.waits (s : State) (core : Nat) (write : Bool) : WalkAt → Bool
  | .phys ga => lineWaits s (coreMod core) write (ga / 128)
  | _ => false

/-- A walk that waits has reached the line's home, if a path leads there; the walk itself begins anew. -/
def WalkAt.reach (s : State) (core : Nat) (write : Bool) : WalkAt → State
  | .phys ga => if noPath s (coreMod core) (lineMod (ga / 128)) then s else reachHomes s write [ga / 128]
  | _ => s

/-- Write a unit: operation 0 marks a local line full; a sync word written is one no longer (R310, R311); what only the hardware
writes stays (R259, R305). -/
def walkWrite (s : State) (op : Nat) (a : WalkAt) (unit v : Nat) : State :=
  match a with
  | .loc key =>
    let s := { s with lmem := memWriteLE s.lmem key unit v }
    let s := if op = 0 then s.setLine (key / 128) .full else s
    if unit = 128 then { s with lpoison := s.lpoison.filter (· ≠ key / 128) } else s
  | .phys ga =>
    let hit := (s.sync.map (·.1)).filter fun w => ga < 8 * w + 8 && 8 * w < ga + unit
    outerWriteLine (hit.foldl (fun s w => killWord s (8 * w)) s) .hw 1 ga (leBytes unit v)
  | .bad => s

/-- The pattern repeated over a unit. -/
def walkPat (d : BitVec 512) (unit : Nat) : Nat := (List.range (unit / 4)).foldl (fun n i => n + walkField d 56 32 * 2 ^ (32 * i)) 0

/-- How a walk ends: at its end, at a bad address, or at a line it must wait for, which it reads or writes. -/
inductive WalkEnd where
  | done
  | err
  | waits (at_ : WalkAt) (write : Bool)
  deriving DecidableEq, Repr

/-- Steps of a walk from index `i` on: end, count, state. -/
def walkLoop (core : Nat) (d : BitVec 512) (op unit : Nat) : Nat → Nat → Nat → State → WalkEnd × Nat × State
  | 0, _, cnt, s => (.done, cnt, s)
  | fuel + 1, i, cnt, s =>
    let n (j : Nat) : Nat := walkField d (2 * j) 16 + 1
    let idx := [i % n 0, i / n 0 % n 1, i / n 0 / n 1 % n 2, i / n 0 / n 1 / n 2]
    let x := walkAt s core d 0 unit idx
    let y := walkAt s core d 1 unit idx
    if x = .bad || y = .bad then (.err, cnt, s)
    else if x.waits s core (op = 0 || op = 3) then (.waits x (op = 0 || op = 3), cnt, s)
    else if op = 2 && y.waits s core true then (.waits y true, cnt, s)
    else
      let (cnt, s) := match op with
        | 0 => (cnt + 1, walkWrite s op x unit (walkPat d unit))
        | 1 =>
          let (v, s) := walkRead s x unit
          (if v = walkPat d unit then cnt else cnt + 1, s)
        | 2 =>
          let (v, s) := walkRead s x unit
          (cnt + 1, walkWrite s op y unit v)
        | _ =>
          let (v, s) := walkRead s x unit
          (cnt + 1, walkWrite s op x unit v)
      walkLoop core d op unit fuel (i + 1) cnt s

/-- `walk run` (R169). -/
def execWalkRun (f : EqForm) (s : State) : Out :=
  withOps s f.sp { sw := [f.q.toNat], pl := 3 } fun s x =>
    let d := (s.core x.g.core).walker
    let op := walkField d 60 8
    let u := walkField d 61 8
    if s.drains.any fun r => r.on && (partCores s r.m r.part).contains x.g.core then .wait
    else
      let total := (List.range 4).foldl (fun n j => n * (walkField d (2 * j) 16 + 1)) 1
      let (end_, cnt, t) := if 3 < op || u < 2 || 7 < u then (.err, 0, s) else walkLoop x.g.core d op (2 ^ u) total 0 0 s
      match end_ with
      | .waits a write => .held (a.reach s x.g.core write)
      | _ =>
        let v := min cnt (2 ^ 32 - 1) + if end_ = .err then 2 ^ 63 else 0
        let g := (t.group? x.g.core x.g.slot).getD x.g
        .done (finishPlain t x f.sp (g.putScalar f.q.toNat (BitVec.ofNat 64 v)))

/-! ## Forced stop and fill -/

/-- The group's reservation is released, to be posted again with its age and order; its posted operations complete first. A
member of a gang withdraws its arrival and gives up its share; the entry stays while another member holds it (R50, R296). -/
def forceRelease (s : State) (g : Group) : State :=
  match g.mentry with
  | none => s
  | some i =>
    let s := withdrawArrival s g.core g.slot
    let e := (s.engine (coreCluster g.core)).entry i
    let load := (e.posted.filter fun t => match t.op with | .load _ => true | _ => false).isEmpty
    let kept := { e with
      st := if e.st = 1 then 1 else 2, posted := [], wlt := e.loads, lwd := if load then e.lwd else e.wd
      touched := [], exited := false }
    let s := if e.gang = 0 then dropReservation s g.core g.slot
      else s.modEngine (coreCluster g.core) fun y => (y.modEntry i fun x => { x with away := x.away ||| memberBit s g e.gang }).reap i
    s.modGroup g.core g.slot fun g => { g with mentry := none, savedRes := some kept }

/-- FORCED_STOP (R50, R226): the group in slot `b` of core `a` was asked to stop 65,536 clocks ago and has not reached a
safe point. -/
def execForcedStop (s : State) : Out :=
  match s.group? s.ev.a s.ev.b with
  | none => .next s
  | some g => match g.preempt with
    | .asked since =>
      if s.cyc < since + Config.forcedStopClocks || g.twi.isSome || g.faulted then .next s
      else
        let s := s.modGroup g.core g.slot fun g => { g with
          preempt := .parked true
          arch := { g.arch with window := g.arch.window.map fun l => if l.n then l else { l with lost := true } } }
        .next (forceRelease s g)
    | _ => .next s

/-- A block filled. -/
def Block.fill : Block → Block
  | .spilled vs => .resident vs
  | b => b

/-- BLOCK_FILL (R122): spilled block `c` of the group in slot `b` of core `a` is filled, once there is room. -/
def execBlockFill (s : State) : Out :=
  match s.group? s.ev.a s.ev.b with
  | none => .next s
  | some g => match nth g.arch.blocks s.ev.c .unallocated with
    | .spilled _ => match makeRoom (32 * g.width) g.core g.slot 1024 s with
      | none => .next s
      | some s => .next (s.modGroup g.core g.slot fun g =>
          { g with arch := { g.arch with blocks := g.arch.blocks.mapIdx fun i b => if i = s.ev.c then b.fill else b } })
    | _ => .next s

end Sys2Proof.Machine
end

