-- ==== Sys2Proof/Machine/HostSide.lean ====
section
/-!
DEFINITION. Dawn, the SPDM responder, coolant, errors and retirement (23_host_fabric_and_bring_up.md R347, R348, R353;
21_faults_and_recovery.md R336, R340, R341; 18_counters.md R323).
-/
namespace Sys2Proof.Machine

/-! ## Dawn (R347, R348) -/

/-- Port `p` of module `a` in a fabric of `P` modules, up, as R350 cables it. -/
def Port.cabled (P a p : Nat) : Port :=
  let k := 16 / (P - 1)
  let peers := (List.range P).filter (· ≠ a)
  if P ≤ 1 then ⟨0, false, 0, 0, 0⟩
  else match peers[p / k]? with
    | none => ⟨0, false, 0, 0, 0⟩
    | some b =>
      let i := ((List.range P).filter (· ≠ b)).idxOf a
      ⟨3, false, 0, b, k * i + p % k⟩

/-- May firmware give a partition these sizes (R19, R170)? -/
def sizesOk (l1 r : Nat) : Bool := 128 ≤ l1 && l1 ≤ 512 && l1 % 64 = 0 && 128 ≤ r && r ≤ 1024 && r % 64 = 0

/-- A partition as firmware writes it (R347). -/
def Partition.ofInput (p : PartInput) : Partition := ⟨p.num, p.clusters, p.l1KiB, p.rKiB, p.spill, p.sideLog, false⟩

/-- The ports of a module once its links have been trained: a link that reaches another module or port than R350 gives is left
down. -/
def dawnPorts (P n : Nat) (bad : List Nat) : List Port :=
  (List.range 16).map fun p =>
    let c := Port.cabled P n p
    if bad.contains p && c.st = 3 then { c with st := 1 } else c

/-- What the steps of Dawn before step `k` leave of a module: its measurements, its partitions and node table where firmware put
them, its links (R347, R348, R350). -/
def Mod.before (P n k : Nat) (d : DawnInput) : Mod :=
  let x := Mod.reset n
  let x := if 2 ≤ k then { x with meas := (List.range 6).map fun i => extendMeasurement 0 (nth d.digests i 0) } else x
  let x := if 5 ≤ k then { x with
    parts := (d.parts.map fun l => l.map Partition.ofInput).getD [Partition.reset]
    nodeBase := d.nodeBase.getD Config.nodeBase } else x
  if 5 ≤ k then { x with ports := dawnPorts P n d.miscabled } else x

/-- A module of a fabric of `P` modules as Dawn leaves it, its clocks at 0 (R125, R321, R347, R348, R350). -/
def Mod.dawned (P n cyc ltick : Nat) (d : DawnInput) : Mod :=
  { Mod.before P n 6 d with
    done := true
    cyc0 := cyc
    ltick0 := ltick }

/-- Are a failing step and a cause ones that Table Host 1 lets `DSTAT` hold together? The steps that check images fail by the
signature, the self-test, the configuration and the fabric have a step each; of the last step no cause is said (log 109). -/
def failureOk (f : Nat × Nat) : Bool :=
  f ∈ [(1, 1), (2, 1), (3, 2), (4, 3), (5, 4)] || (f.1 = 6 && 1 ≤ f.2 && f.2 ≤ 4)

/-- The step at which a Dawn fails, with its cause: the one the input names, sizes that firmware may not set (R170), or a link that
is miscabled (R350), whichever comes first (log 109). -/
def dawnFailure (P n : Nat) (d : DawnInput) : Option (Nat × Nat) :=
  let sizes : Option (Nat × Nat) := if (d.parts.getD []).all fun p => sizesOk p.l1KiB p.rKiB then none else some (4, 3)
  let links : Option (Nat × Nat) := if d.miscabled.any fun p => p < 16 && (Port.cabled P n p).st = 3 then some (5, 4) else none
  leastBy Prod.fst ([d.failure, sizes, links].filterMap id)

/-- What belongs to a module is as Dawn leaves it: memory, local stores, caches and counters. -/
def clearModule (s : State) (m : Nat) : State :=
  let ga (a : Nat) : Bool := a / 2 ^ 40 = m
  { s with
    mem := s.mem.filter fun c => !ga c.1
    lmem := s.lmem.filter fun c => c.1 / localBytes / 256 ≠ m
    lines := s.lines.filter fun l => l.1 / (localBytes / 128) / 256 ≠ m
    poison := s.poison.filter fun l => lineMod l ≠ m
    lpoison := s.lpoison.filter fun k => k / (localBytes / 128) / 256 ≠ m
    cores := s.cores.filter fun c => coreMod c.gcn ≠ m }

/-- DAWN (R18, R274, R347, R350): the boot of module `a`, which has not booted; a failing step ends it, what the steps before did
stands. The module's receive windows take a new epoch, for it has been reset. -/
def execDawn (s : State) : Out :=
  let m := s.ev.a
  match s.ev.dawn with
  | none => .next s
  | some d =>
    let P := s.modules.length
    if (s.mod m).done || (s.mod m).step ≠ 0 || !s.inFabric m || !(d.failure.all failureOk) then .next s
    else match dawnFailure P m d with
    | some (step, cause) => .next ((if 4 ≤ step then clearModule s m else s).modMod m fun _ =>
        { Mod.before P m step d with step := BitVec.ofNat 8 step, cause := BitVec.ofNat 4 cause })
    | none => .next (newEpoch ((clearModule s m).modMod m fun _ => Mod.dawned P m s.cyc s.ltick d) m)

/-! ## Application cores (R18, R187, R349) -/

/-- A store of an application core under its context, once Dawn has run: a page fault leaves everything as it is, and so does a
store to a queue header that R259 bars; a device register is written under its privilege; a `PDN` store marks its index done; else as
an agent's access (R186, R259). -/
def hostStore (s : State) (c : Ctx) (va : Nat) (bs : List Byte) : State :=
  let fault : State := { s with hostFault := true }
  if !(s.mod c.m).done then s
  else if (agentFault s c .write va bs.length).isSome then fault
  else
    let s := { s with hostFault := false }
    let v : DWord := BitVec.ofNat 64 (ofBytes bs)
    match translate s c .write (va % 2 ^ 56) with
    | .error _ => fault
    | .ok g => match g.phys with
      | .device n => if g.ty = 2 then agentWrite s c va bs else if va % 8 = 0 && bs.length = 8 then (agentCsrWrite s c n v).getD fault else s
      | .dram ga => match s.headerQueue? (ga / 128) with
        | some q => if ga % 128 = 32 && bs.length = 8 then pdnStore s q.m q.node v else fault
        | none => if (agentLines s c .write va bs.length).any fun l => (s.headerQueue? l).isSome then fault else agentWrite s c va bs
      | _ => agentWrite s c va bs

/-- An 8-byte atomic add of an application core to the `RSV` of a queue header, performed at the home; the value before is its reply
(R259, R260). Elsewhere in a header an atomic is barred; no other location is this event's. -/
def hostReserve (s : State) (c : Ctx) (va : Nat) (v : DWord) : State :=
  let fault : State := { s with hostFault := true }
  if !(s.mod c.m).done then s
  else match translate s c .write (va % 2 ^ 56) with
    | .error _ => fault
    | .ok g => match g.phys with
      | .dram ga => match s.headerQueue? (ga / 128) with
        | some q =>
          if ga % 128 = 8 then
            let (r, s) := rsvAdd s q.m q.node v
            { s with hostReply := r, hostFault := false }
          else fault
        | none => s
      | _ => s

/-- The context of an event's access by an application core of module `a`. -/
def hostCtx (h : HostAt) (m : Nat) : Ctx := ⟨m, h.vf, h.ctx, h.l0, h.pl⟩

/-- PDN_STORE (R18, R259, R260, R263): an application core of module `a` stores `v` to the `PDN` that its virtual address names. -/
def execPdnStore (s : State) : Out :=
  .next (match s.ev.host with
    | some h => hostStore s (hostCtx h s.ev.a) h.va (leBytes 8 s.ev.v.toNat)
    | none => s)

/-- RSV_RESERVE (R18, R259, R260): an application core of module `a` adds `v` to the `RSV` that its virtual address names. -/
def execRsvReserve (s : State) : Out :=
  .next (match s.ev.host with
    | some h => hostReserve s (hostCtx h s.ev.a) h.va s.ev.v
    | none => s)

/-- A load of an application core under its context; its value is the reply. -/
def hostLoad (s : State) (c : Ctx) (va n : Nat) : State :=
  let fault : State := { s with hostFault := true }
  if !(s.mod c.m).done then s
  else if (agentFault s c .read va n).isSome then fault
  else
    let s := { s with hostFault := false }
    let plain : State :=
      let (bs, s) := agentRead s c va n
      { s with hostReply := BitVec.ofNat 64 (ofBytes bs) }
    match translate s c .read (va % 2 ^ 56) with
    | .error _ => fault
    | .ok g => match g.phys with
      | .device r => if va % 8 ≠ 0 || n ≠ 8 || g.ty = 2 then plain else match agentCsrRead s c r with
        | some (v, s) => { s with hostReply := v }
        | none => fault
      | _ => plain

/-- Does a turn of an application core wait at a home (R245, R256)? -/
def Turn.waits (s : State) : Turn → Bool
  | .hostStore c va bs => (s.mod c.m).done && (agentFault s c .write va bs.length).isNone && agentWaits s c .write va bs.length
  | .hostLoad c va n => (s.mod c.m).done && (agentFault s c .read va n).isNone && agentWaits s c .read va n
  | _ => false

/-- What an application core's access that waits has done: reached the homes. -/
def Turn.reach (s : State) : Turn → State
  | .hostStore c va bs => agentReach s c .write va bs.length
  | .hostLoad c va n => agentReach s c .read va n
  | _ => s

/-- What I3C reads of a module: its identity before Dawn, `DSTAT` after a Dawn that failed (R18, R347). Whether the identity is still
there once a Dawn has run is not said: it is not (DESIGN CHOICE, log 97). -/
def readIdentity (s : State) (m : Nat) : State :=
  let x := s.mod m
  if x.done then s else { s with hostReply := if x.step = 0 then Config.identity m else x.dstat }

/-- Does a partition stand as a `dusk` leaves it: no group, no team, no line in its cores (R168, R170)? -/
def partEmpty (s : State) (m p : Nat) : Bool :=
  let cores := partCores s m p
  s.groups.all (fun g => !cores.contains g.core) && s.teams.all (fun t => !cores.contains t.core) &&
  s.l1.all (fun c => !cores.contains c.core) && s.lines.all fun l => !cores.contains (l.1 / (localBytes / 128))

/-- Firmware sets the sizes of a partition that a `dusk` has emptied (R170). -/
def setSizes (s : State) (m p l1 r : Nat) : State :=
  if sizesOk l1 r && partEmpty s m p && (s.partition? m p).any (·.dusked) then
    s.modMod m fun x => { x with parts := mapWhere (fun y => y.num == p) (fun y => { y with l1KiB := l1, rKiB := r }) x.parts }
  else s

/-! ## SPDM (R348) -/

/-- Answer an SPDM request of module `a`, which answers once Dawn has finished. -/
def spdmAnswer (s : State) (k : Nat) (r : SpdmReply) : Out :=
  if (s.mod s.ev.a).done then
    .next (State.modMod { s with freeCount := s.freeCount + k } s.ev.a fun x => { x with spdm := r })
  else .next s

/-- GET_VERSION (R348). -/
def execGetVersion (s : State) : Out := spdmAnswer s 0 .version
/-- GET_CAPABILITIES (R348). -/
def execGetCapabilities (s : State) : Out := spdmAnswer s 0 .capabilities
/-- NEGOTIATE_ALGORITHMS (R348). -/
def execNegotiateAlgorithms (s : State) : Out := spdmAnswer s 0 .algorithms
/-- GET_DIGESTS (R348): the digest is the module's own: free (log 6). -/
def execGetDigests (s : State) : Out := spdmAnswer s 1 (.digests (Config.freeWord s.freeCount))
/-- GET_CERTIFICATE (R348). -/
def execGetCertificate (s : State) : Out := spdmAnswer s 1 (.certificate (Config.freeWord s.freeCount))
/-- CHALLENGE (R348). -/
def execChallenge (s : State) : Out := spdmAnswer s 1 (.challengeAuth (Config.freeWord s.freeCount))
/-- GET_MEASUREMENTS (R348): measurement index `b`, signed. An index that Dawn does not record has a free value. -/
def execGetMeasurements (s : State) : Out :=
  let v := if 1 ≤ s.ev.b && s.ev.b ≤ 6 then nth (s.mod s.ev.a).meas (s.ev.b - 1) 0 else Config.freeWord (s.freeCount + 1)
  spdmAnswer s 2 (.measurements v (Config.freeWord s.freeCount))
/-- Any other request (R348). -/
def execUnsupportedRequest (s : State) : Out := spdmAnswer s 0 .unsupported

/-! ## Coolant (R353) -/

/-- COOLANT_BREACH (R353): module `a` stops issue. -/
def execCoolantBreach (s : State) : Out :=
  .next (s.modMod s.ev.a fun x => if x.done then { x with cool := false, cause := 5, step := 0 } else x)
/-- COOLANT_RESTORED (R353). -/
def execCoolantRestored (s : State) : Out :=
  .next (s.modMod s.ev.a fun x => if x.done && !x.cool then { x with cool := true, cause := 0 } else x)

/-! ## Errors (R336, Table Faults 6) -/

/-- Count a corrected error. -/
def countCecc (s : State) (m : Nat) : State := s.modMod m fun x => { x with cecc := min (x.cecc + 1) (2 ^ 32 - 1) }

/-- Count an uncorrectable error of a line, if it has a physical address (R336). -/
def countUecc (s : State) (m : Nat) (line : Option Nat) : State :=
  let u : DWord := match line with
    | some l => BitVec.ofNat 64 (2 ^ 63 + linePa m l)
    | none => (Config.freeWord s.freeCount).setWidth 64 &&& 0x000FFFFFFFFFFFFF
  State.modMod { s with freeCount := s.freeCount + 1 } m fun x => { x with uecc := min (x.uecc + 1) (2 ^ 32 - 1), uepa := u }

/-- The lines whose tags point at the data entry of a line (R181). -/
def sharedLines (s : State) (line : Nat) : List Nat :=
  match (s.tag? line).bind fun t => t.data with
  | none => [line]
  | some e => (s.tags.filter fun t => t.data == some e && lineSlice t.line == lineSlice line).map (·.line)

/-- A data entry is poisoned with the lines that read it. -/
def poisonData (s : State) (line : Nat) : State :=
  let ls := sharedLines s line
  let here (d : DataEntry) (e : Nat × Nat) : Bool := d.slice == lineSlice line && d.set == e.1 && d.way == e.2
  let bad (d : DataEntry) : DataEntry := { d with poisoned := true }
  let datas := match (s.tag? line).bind fun t => t.data with
    | none => s.datas
    | some e => mapWhere (fun d => here d e) bad s.datas
  ls.foldl poisonLine { s with datas := datas }

/-- What an uncorrectable error does where it strikes (Table Faults 6). -/
def strike (s : State) (m : Nat) : ErrorSite → State
  | .dram line => countUecc (poisonLine s line) m (some line)
  | .l2 line => countUecc (poisonData s line) m (some line)
  | .l1Clean core line => countCecc (evictCopy s core line) m
  | .l1Dirty core line => countUecc (evictCopy (poisonLine s line) core line) m (some line)
  | .localLine core line =>
    let k := core * (localBytes / 128) + line
    countUecc (if s.lpoison.contains k then s else { s with lpoison := k :: s.lpoison }) m none
  | .regBlock core slot b => countUecc (s.modGroup core slot fun g => { g with badBlocks := b :: g.badBlocks }) m none
  | .groupArea core slot => countUecc (s.modGroup core slot fun g => { g with badArea := true }) m none
  | .saveSlot core slot => countUecc (s.modGroup core slot fun g => { g with badSave := true }) m none
  | .directory line =>
    countUecc (poisonLine { s with
      l1 := s.l1.filter fun c => c.line ≠ line
      dir := s.dir.filter fun d => d.line ≠ line } line) m (some line)
  | .syncTag word => countUecc (poisonLine (killWord s (8 * word)) (word / 16)) m (some (word / 16))

/-- CORRECTED_ERROR (R336). -/
def execCorrectedError (s : State) : Out := .next (countCecc s s.ev.a)

/-- UNCORRECTABLE_ERROR (R336). -/
def execUncorrectableError (s : State) : Out :=
  .next (match s.ev.site with | some w => strike s s.ev.a w | none => s)

/-! ## Retirement (R340, R341) -/

/-- What a retired core held of a line (R341): written bytes poison the line, a partial is reported lost, and rounds no
longer wait for the core. -/
def retireLine (s : State) (core : Nat) (c : L1Line) : State :=
  match c.kind with
  | .tracked =>
    let s := s.dropL1 core c.line
    let d := s.dirOf c.line
    if d.st = 1 && !d.crs then
      let ps := d.ptrs.filter fun q => q ≠ core
      s.setDir { d.setPtrs ps with st := if ps.isEmpty then 0 else 1 }
    else s
  | .leased .. => s.dropL1 core c.line
  | .part _ vals _ _ =>
    let s := reportDirty (s.dropL1 core c.line) core c.vf c.line vals.length
    let d := s.dirOf c.line
    s.setDir (d.setPtrs (d.ptrs.filter fun q => q ≠ core))
  | _ => presumeGone s c.line core

/-- Invalidations a retired core has not answered count as answered (R341). -/
def answerFor (s : State) (core : Nat) : State :=
  let mine (x : Msg) : Option Nat := match x with
    | .inval t l => if t = core then some l else none
    | .ack t l => if t = core then some l else none
    | .notice _ _ => none
  (s.msgs.filterMap mine).foldl (fun s l => if (s.dirOf l).st = 3 then countAck s l else s)
    { s with msgs := s.msgs.filter fun x => (mine x).isNone }

/-- The program counter of a group's lowest running split. -/
def lowestPc (g : Group) : DWord := ((leastBy (fun (p : Split) => p.slot) g.arch.splits).map fun p => p.pc.setWidth 64).getD 0

/-- A group of a retired unit: it stops, and leaves as a faulted group does once its accesses are complete (R332, R340). -/
def Group.retireWith (code : Nat) (g : Group) : Group :=
  if g.faulted then g.stop
  else
    let i : TrapInfo := { kind := .retire, code := code }
    { g.stop with faulted := true, trap := { g.trap with tcause := i.cause false, tpc := lowestPc g } }

/-- An entry with another list of posted operations. -/
def MEntry.withPosted (x : MEntry) (l : List MTask) : MEntry := { x with posted := l }

/-- Retire the parts of a core; the runs of its groups lose their unstarted chunks (R308, R340, R341). -/
def retireParts (s : State) (core code : Nat) : State :=
  let s := (s.log.filter fun e => e.core == core && e.st ≠ 2 && !e.loss).foldl (fun s e => discardEntry s e 4) s
  let s := abandonRuns (answerFor s core) [core]
  let s := (s.l1.filter fun c => c.core == core).foldl (fun s c => retireLine s core c) s
  let running (e : Engine) (t : MTask) : Bool := (e.running.map fun r => r.2.any fun h => h.id == t.id).getD false
  let thin (e : Engine) : Engine :=
    let entries := e.entries.map fun (x : MEntry) => MEntry.withPosted x (x.posted.filter fun t => t.core ≠ core || running e t)
    { e with entries := entries }
  let groups := mapWhere (fun g => g.core == core) (Group.retireWith code) s.groups
  let engines := mapWhere (fun e => e.cluster == coreCluster core) thin s.engines
  let s := { s with groups := groups, engines := engines }
  s.modMod (coreMod core) fun x => { x with rcores := x.rcores ||| (1#256 <<< (core % 256)) }

/-- Is a core's partition being drained? Then a retirement waits (R339). -/
def inDrain (s : State) (core : Nat) : Bool := s.drains.any fun d => d.on && (partCores s d.m d.part).contains core

/-- CORE_RETIRE (R340, R341, R323): core `a` is fenced off for the rest of the boot. -/
def execCoreRetire (s : State) : Out :=
  let core := s.ev.a
  if retiredCore s core || inDrain s core || !s.inFabric (coreMod core) then .next s
  else .next (noteRetire (retireParts s core 1) (coreMod core) 1 core)

/-- CLUSTER_RETIRE (R340): cluster `a` (module × 64 + 16d + c): its cores retire and its reservation table is discarded. -/
def execClusterRetire (s : State) : Out :=
  let cl := s.ev.a
  let m := cl / 64
  if (s.mod m).rclu.getLsbD (cl % 64) || inDrain s (4 * cl) || !s.inFabric m then .next s
  else
    let s := ((List.range 4).map fun c => 4 * cl + c).foldl (fun s c => if retiredCore s c then s else retireParts s c 2) s
    let s := { s with
      engines := s.engines.filter fun e => e.cluster ≠ cl
      groups := mapWhere (fun g => coreCluster g.core == cl) (fun g => { g with mentry := none, savedRes := none }) s.groups }
    let s := s.modMod m fun x => { x with rclu := x.rclu ||| (1#64 <<< (cl % 64)) }
    .next (noteRetire s m 2 (cl % 64))

/-- REPLACE_ADVISORY (R323): the advisory of module `b` reaches module `a`, to which a path leads. -/
def execReplaceAdvisory (s : State) : Out :=
  let m := s.ev.a
  let n := s.ev.b
  .next (if (s.mod n).adv && (m = n || !noPath s m n) && s.inFabric n then s.modMod m fun x => { x with radvf := x.radvf ||| (1#16 <<< n) } else s)

end Sys2Proof.Machine
end

