-- ==== Sys2Proof/Machine/SketchOps.lean ====
section
/-!
DEFINITION. The sketch instructions (10_memory_instructions.md R210 to R214; 09_memories.md R190 to R193).
-/
namespace Sys2Proof.Machine

/-- The kind of a sketch instruction: updates need a writable page (Table Memory Instructions 1, Table Memories 6). -/
def skKind (write returns : Bool) : Kind := ⟨4, AReg.skt, [0, 7], [2], write, true, returns⟩

/-- Register D + i of a lane, 0 beyond v127 (not reached: such an operand is illegal, R210). -/
def regAt (x : Issue) (f : SkForm) (i L : Nat) : Word := if f.d.toNat + i < 128 then laneReg x.t x.g (f.d.toNat + i) L else 0

/-- The lanes of a sketch instruction: key D+1:D and weight or module D+2. -/
def skOps (x : Issue) (f : SkForm) (lanes : List Nat) : List LaneOp :=
  let a := addrReg x.g f.ar.toNat
  lanes.map fun L => ⟨L, laneEa x a f.off L, regAt x f 1 L ++ regAt x f 0 L, (regAt x f 2 L).setWidth 64⟩

/-- The region a lane names: its descriptor and the module-global base of its state. -/
def laneSketch (s : State) (x : Issue) (l : LaneAt) : Option (SkDesc × Nat) :=
  l.pieces.findSome? fun p => match p.place with
    | .sketch _ pg => skBase s x.m x.t.vf pg.skd
    | _ => none

/-- SKETCH for a lane whose region does not admit the instruction. -/
def skRefuse (s : State) (x : Issue) (write : Bool) (ok : SkDesc → Bool) (l : LaneAt) : Option TrapInfo :=
  match laneSketch s x l with
  | some (d, _) => if ok d then none else some { kind := .sketch, lane := some l.op.lane, addr := l.op.ea, write := write }
  | none => some { kind := .sketch, lane := some l.op.lane, addr := l.op.ea, write := write }

/-- The bytes of state a sketch instruction on a key touches (R212). -/
def keySpans (write : Bool) : SkSpans := fun d base _ op =>
  if write then d.updSpans base op.data op.extra.toNat (op.data.setWidth 32) else d.querySpans base op.data

/-- The checks of a sketch instruction's own for a lane: SKETCH for a region that does not admit it, then its state. -/
def skCheck (s : State) (x : Issue) (write : Bool) (ok : SkDesc → Bool) (spans : SkSpans) (l : LaneAt) : Option TrapInfo :=
  (skRefuse s x write ok l).orElse fun _ => sketchCheck s x write spans l

/-- Perform one lane's insert or delete (R212). -/
def skLane (del : Bool) (x : Issue) (s : State) (l : LaneAt) : State :=
  match laneSketch s x l with
  | some (d, base) =>
    if del then skDelete s d base l.op.data l.op.extra.toNat
    else skInsert s d base l.op.data l.op.extra.toNat (l.op.data.setWidth 32)
  | none => s

/-- Insert or delete over the lanes (R212). -/
def skUpdate (del : Bool) (f : SkForm) (s : State) : Out :=
  let fn : AccFn := if del then .skDel else .skIns
  withOps s f.sp { lr := f.off.toNat :: regSpan f.d 3 } fun s x =>
    let a := addrReg x.g f.ar.toNat
    let k := skKind true false
    match checkLanes s x a k (skOps x f x.liveLanes) with
    | .error t => .trap t
    | .ok fd =>
      match fd.ok.findSome? (skCheck s x true (fun d => !del || d.deletable) (keySpans true)) with
      | some t => .trap t
      | none =>
        if accessStalls s x a k fd.ok then .wait
        else if sketchWaits s x true (keySpans true) fd.ok then .held (sketchRounds s x (keySpans true) fd.ok)
        else if mustWait s x a k fd.ok then .pause s
        else if logRoom s x.g.core < logNeed s x fd then .pause s
        else
          let lost := fd.ok.filter fun l => (lostHome s x l).isSome
          let s := (fd.ok.filter fun l => (lostHome s x l).isNone).foldl (skLane del x) s
          let s := logFaults s x k fn (oscOf x.g) fd.faults
          let s := logLost s x k fn (oscOf x.g) lost
          .done (finishPlain s x f.sp x.g)

/-- `skins` (R212). -/
def execSkins (f : SkForm) (s : State) : Out := skUpdate false f s
/-- `skdel` (R212). -/
def execSkdel (f : SkForm) (s : State) : Out := skUpdate true f s

/-- The registers a returning sketch instruction writes. -/
def skWrites (f : SkForm) : List Nat := if f.n then [] else regSpan f.d 2

/-- An answer and its status as the pair D+1:D. -/
def skPair (answer status : Nat) : DWord := BitVec.ofNat 64 (status % 2 ^ 32 * 2 ^ 32 + answer % 2 ^ 32)

/-- Return values to lanes (R211), as a load returns them. -/
def skReturn (s : State) (x : Issue) (f : SkForm) (vals : List (Nat × DWord)) : Res :=
  let (g, l) := startTxn x x.g s.nextId ⟨.lanes f.d.toNat 2, f.n⟩ vals 0 none
  .done (finish { s with nextId := s.nextId + 1 } x f.sp g l)

/-- Does a helper fail a check of a query's own, so that it reads zero (R26)? -/
def askFails (s : State) (x : Issue) (ok : SkDesc → Bool) (l : LaneAt) : Bool :=
  x.g.arch.helpers.getLsbD l.op.lane &&
  ((skCheck s x false ok (keySpans false) l).orElse fun _ => unreachCheck x s false l).isSome

/-- The answer to a lane, formed once the copies and partials of the lines it rests on are back (R191, R212). -/
def askLane (ok : SkDesc → Bool) (answer : SkDesc → Nat → List Host.Cell → DWord → Nat) (s0 : State) (x : Issue)
    (s : State) (l : LaneAt) : State × DWord :=
  match laneSketch s x l with
  | some (d, base) =>
    if askFails s0 x ok l then (s, 0)
    else
      let s := (d.queryLines base l.op.data).foldl (fun s ln => quiesce s d.origin ln false) s
      (s, skPair (answer d base s.mem l.op.data) (skStatus d (memReadLE s.mem d.at_ 8) false))
  | none => (s, 0)

/-- The answers to the lanes in turn. -/
def askAll (ok : SkDesc → Bool) (answer : SkDesc → Nat → List Host.Cell → DWord → Nat) (s0 : State) (x : Issue)
    (s : State) (ls : List LaneAt) : List (Nat × DWord) × State :=
  ls.foldl (fun (acc : List (Nat × DWord) × State) l =>
    let (s, v) := askLane ok answer s0 x acc.2 l
    (acc.1 ++ [(l.op.lane, v)], s)) ([], s)

/-- A query of each lane (R212): lanes, helpers among them, act as loads do; a helper that fails reads zero (R26). -/
def skAsk (ok : SkDesc → Bool) (answer : SkDesc → Nat → List Host.Cell → DWord → Nat) (f : SkForm) (s : State) : Out :=
  withOps s f.sp { lr := f.off.toNat :: regSpan f.d 2, lw := skWrites f } fun s x =>
    let a := addrReg x.g f.ar.toNat
    let k := skKind false true
    match checkLanes s x a k (skOps x f x.lanes) with
    | .error t => .trap t
    | .ok fd =>
      if !fd.faults.isEmpty then holdFaults s x false fd.faults
      else match laneTrap x fd.ok (fun l => (skCheck s x false ok (keySpans false) l).orElse fun _ => unreachCheck x s false l) with
      | some t => .trap t
      | none =>
        if accessStalls s x a k fd.ok || sketchWaits s x false (keySpans false) fd.ok then .wait
        else if mustWait s x a k fd.ok then .pause s
        else
          let (vals, s') := askAll ok answer s x s fd.ok
          skReturn s' x f (vals ++ fd.zero.map fun L => (L, 0))

/-- `skqry` (R192, R212). -/
def execSkqry (f : SkForm) (s : State) : Out :=
  skAsk (fun _ => true) (fun d base mem key => d.query base mem key (key.toNat % 2 ^ 32)) f s
/-- `skrank` (R212). -/
def execSkrank (f : SkForm) (s : State) : Out :=
  skAsk (fun d => d.ty = 3) (fun d base mem key => d.rank base mem (key.setWidth 32)) f s

/-! ## Whole regions (R213) -/

/-- The distinct regions the lanes name, each with its lowest lane, in ascending order of those lanes. -/
def regionsNamed (s : State) (x : Issue) (ok : List LaneAt) : List (SkDesc × Nat × LaneAt) :=
  ok.foldl (fun acc l => match laneSketch s x l with
    | some (d, base) => if acc.any fun r => r.1.at_ = d.at_ then acc else acc ++ [(d, base, l)]
    | none => acc) []

/-- An operation on a region: whether it writes, the bytes of state it touches, the check made for the lane each region is
acted on for, before any cell changes, and what it does: the state, and `PRT`. -/
structure RegionOp where
  write : Bool
  spans : SkSpans
  check : State → Issue → LaneAt → Option Res
  act : State → Issue → SkDesc → Nat → LaneAt → State × Bool

/-- Act on each region in turn, and answer its parameter word and status; reserved bits of the word read 0 (R3). -/
def regionsDo (o : RegionOp) (s : State) (x : Issue) (rs : List (SkDesc × Nat × LaneAt)) : List (Nat × DWord) × State :=
  rs.foldl (fun (acc : List (Nat × DWord) × State) r =>
    let (s, prt) := o.act acc.2 x r.1 r.2.1 r.2.2
    let w0 := memReadLE s.mem r.1.at_ 8
    (acc.1 ++ [(r.1.at_, skPair (w0 % 2 ^ 23) (skStatus r.1 w0 prt))], s)) ([], s)

/-- What each lane of an operation on regions receives. -/
def regionVals (s : State) (x : Issue) (ok : List LaneAt) (out : List (Nat × DWord)) : List (Nat × DWord) :=
  ok.map fun l => (l.op.lane, match laneSketch s x l with
    | some (d, _) => (lookupNat d.at_ out).getD 0
    | none => 0)

/-- An operation on each region, answered to every lane that names it. -/
def skWhole (o : RegionOp) (reads : Nat) (f : SkForm) (s : State) : Out :=
  withOps s f.sp { lr := f.off.toNat :: regSpan f.d reads, lw := skWrites f } fun s x =>
    let a := addrReg x.g f.ar.toNat
    let k := skKind o.write true
    match checkLanes s x a k (skOps x f x.liveLanes) with
    | .error t => .trap t
    | .ok fd =>
      if !fd.faults.isEmpty then holdFaults s x o.write fd.faults
      else match fd.ok.findSome? (skCheck s x o.write (fun _ => true) o.spans) with
      | some t => .trap t
      | none => match ((regionsNamed s x fd.ok).map fun r => r.2.2).findSome? (o.check s x) with
        | some r => r
        | none => match fd.ok.findSome? (unreachCheck x s o.write) with
          | some t => .trap t
          | none =>
            if accessStalls s x a k fd.ok then .wait
            else if sketchWaits s x o.write o.spans fd.ok then .held (if o.write then sketchRounds s x o.spans fd.ok else s)
            else if mustWait s x a k fd.ok then .pause s
            else
              let (out, s') := regionsDo o s x (regionsNamed s x fd.ok)
              skReturn s' x f (regionVals s x fd.ok out)

/-- `skinfo` acts on nothing. -/
def infoOp : RegionOp := ⟨false, fun _ _ _ _ => [], fun _ _ _ => none, fun s _ _ _ _ => (s, false)⟩

/-- `skinfo` (R213). -/
def execSkinfo (f : SkForm) (s : State) : Out := skWhole infoOp 0 f s

/-- Replace a descriptor's parameter word at its home. -/
def putDesc (s : State) (d : SkDesc) (w : Nat) : State := homeWriteBytes s d.origin d.at_ (leBytes 8 w)

/-- The state of a region as whole lines. -/
def SkDesc.lineSpans (d : SkDesc) (base : Nat) : List (Nat × Nat) := (d.allLines base).map fun l => (128 * l, 128)

/-- Clear a region: every byte of its state lines zero (R304, Table Sketch Merge 6), so that a poisoned one is good again
(R336), the flags clear. -/
def skClear (s : State) (d : SkDesc) (base : Nat) : State :=
  let ls := d.allLines base
  let s := ls.foldl (fun s l => quiesce s d.origin l true) s
  let s := skCommit s d (s.mem.filter fun e => !ls.contains (e.1 / 128)) 0 (d.lineSpans base)
  let s := { s with poison := s.poison.filter fun l => !ls.contains l }
  let w := memReadLE s.mem d.at_ 8
  putDesc s d (w - bitsOf w 20 3 * 2 ^ 20)

/-- `skclear` on a region. -/
def clearOp : RegionOp := ⟨true, fun d base _ _ => d.lineSpans base, fun _ _ _ => none, fun s _ d base _ => (skClear s d base, false)⟩

/-- `skclear` (R213). -/
def execSkclear (f : SkForm) (s : State) : Out := skWhole clearOp 0 f s

/-- Fold a region (R193, R213). -/
def skFold (s : State) (d : SkDesc) (base : Nat) : State :=
  let s := (d.allLines base).foldl (fun s l => quiesce s d.origin l true) s
  let (cells, fl) := d.foldCells (d.cells base s.mem)
  let s := skCommit s d (d.putCells base s.mem cells) fl (d.allSpans base)
  let w := memReadLE s.mem d.at_ 8
  putDesc s d (d.foldWord - bitsOf d.foldWord 20 3 * 2 ^ 20 + bitsOf w 20 3 * 2 ^ 20)

/-- POISON for a lane whose operation consumes a poisoned line of a region (R181). -/
def regionPoison (s : State) (d : SkDesc) (base : Nat) (write : Bool) (l : LaneAt) : Option TrapInfo :=
  if (d.allLines base).any fun ln => s.poison.contains ln then
    some { kind := .poison, lane := some l.op.lane, addr := l.op.ea, write := write } else none

/-- What `skfold` needs: a region above its smallest parameter, with no poisoned line. -/
def foldCheck (s : State) (x : Issue) (l : LaneAt) : Option Res :=
  ((skRefuse s x true SkDesc.foldable l).orElse fun _ =>
    (laneSketch s x l).bind fun r => regionPoison s r.1 r.2 true l).map .trap

/-- `skfold` on a region. -/
def foldOp : RegionOp := ⟨true, fun d base _ _ => d.allSpans base, foldCheck, fun s _ d base _ => (skFold s d base, false)⟩

/-- `skfold` (R193, R213). -/
def execSkfold (f : SkForm) (s : State) : Out := skWhole foldOp 0 f s

/-- The module a merge's source is on: D+2 bit 31 and its low bits (R213). -/
def mergeModule (x : Issue) (l : LaneAt) : Nat :=
  if l.op.extra.getLsbD 31 then (l.op.extra.extractLsb' 0 4).toNat else x.m

/-- The source of a merge: a region, as many first lines of a region as were merged before its module was lost, or a module
that was lost before any. -/
inductive MergeSrc where
  | whole (d : SkDesc) (base : Nat)
  | part (d : SkDesc) (base lines : Nat)
  | gone
  deriving DecidableEq, Repr

/-- The source region of a merge by its address on module `h`, with the checks that do not need the module (R193, R213). -/
def mergeRegion (s : State) (x : Issue) (h : Nat) (l : LaneAt) : Except Res (SkDesc × Nat) :=
  let info (k : TrapKind) : TrapInfo := { kind := k, lane := some l.op.lane, addr := l.op.data.toNat }
  if l.op.data.toNat / 2 ^ 56 ≠ 0 then .error (.trap (info .sketch))
  else match translate s { x.t.tctx with m := h } .read l.op.data.toNat with
    | .error f => .error (holdFaults s x false [(l.op, f)])
    | .ok p =>
      if p.ty ≠ 2 then .error (.trap (info .sketch))
      else match skBase s h x.t.vf p.skd, laneSketch s x l with
        | some (d, base), some (t, _) =>
          if d.at_ = t.at_ || !d.sameShape t then .error (.trap (info .sketch)) else .ok (d, base)
        | _, _ => .error (.trap (info .sketch))

/-- A source module without a path: the merge waits; once it is presumed lost, a merge that had waited has merged any number
of lines, one that finds it lost has merged none (R213 speaks of a loss during the merge only: DESIGN CHOICE, log 87). -/
def mergeLost (s : State) (x : Issue) (h m : Nat) (l : LaneAt) : Option (Except Res MergeSrc) :=
  if cutOff s x.m m then
    some (if x.sp.resume = 0 then .ok .gone
      else match mergeRegion s x h l with
        | .ok (d, base) => .ok (.part d base ((Config.freeWord s.freeCount).toNat % (ceilDiv d.bytes 128 + 1)))
        | .error _ => .ok .gone)
  else if noPath s x.m m then
    some (.error (.held (s.modGroup x.g.core x.g.slot fun g => { g with arch := { g.arch with
      splits := mapWhere (fun p => p.slot == x.cur.split) (fun p => { p with resume := 1 }) g.arch.splits } })))
  else none

/-- The source region of a merge, or what its checks come to (R193, R213). -/
def mergeSource (s : State) (x : Issue) (l : LaneAt) : Except Res MergeSrc :=
  let h := mergeModule x l
  if !s.inFabric h then .error (.trap { kind := .peer, lane := some l.op.lane, addr := l.op.data.toNat })
  else match mergeLost s x h h l with
    | some r => r
    | none => match mergeRegion s x h l with
      | .error r => .error r
      | .ok (d, base) => match mergeLost s x h (lineMod (base / 128)) l with
        | some r => r
        | none => match regionPoison s d base false l with
          | some t => .error (.trap t)
          | none => if (d.allLines base).any fun ln => homeWaits s ln false then .error .wait else .ok (.whole d base)

/-- Merge the first `n` lines of a source region into a target (R191). -/
def mergeInState (s : State) (d : SkDesc) (base : Nat) (q : SkDesc) (src n flags : Nat) : State :=
  let s := ((q.allLines src).take n).foldl (fun s l => quiesce s q.origin l false) s
  let s := ((d.allLines base).take n).foldl (fun s l => quiesce s d.origin l true) s
  let (mem, fl) := d.mergeLines n src base s.mem
  skCommit s d mem (fl ||| flags) ((d.allSpans base).take n)

/-- Merge a source region into a target (R191, R213); the source's flags are ORed into the target's (R327). A source that is
lost meanwhile leaves the lines already merged, its flags too, and `PRT` (log 87). -/
def skMerge (s : State) (x : Issue) (d : SkDesc) (base : Nat) (l : LaneAt) : State × Bool :=
  match mergeSource s x l with
  | .ok (.whole q src) =>
    (mergeInState s d base q src (ceilDiv d.bytes 128) (bitsOf (memReadLE s.mem q.at_ 8) 20 3), false)
  | .ok (.part q src n) => (mergeInState { s with freeCount := s.freeCount + 1 } d base q src n (bitsOf (memReadLE s.mem q.at_ 8) 20 3), true)
  | _ => (s, true)

/-- `skmerge` on a region. -/
def mergeOp : RegionOp :=
  ⟨true, fun d base _ _ => d.allSpans base,
    fun s x l => match mergeSource s x l with | .error r => some r | .ok _ => none, skMerge⟩

/-- `skmerge` (R191, R193, R213). -/
def execSkmerge (f : SkForm) (s : State) : Out := skWhole mergeOp 3 f s

end Sys2Proof.Machine
end

