-- ==== Sys2Proof/Machine/Dispatch.lean ====
section
/-!
DEFINITION. The one match from an instruction to its meaning: one arm per constructor, one direct call per arm.
-/
namespace Sys2Proof.Machine

/-- What a step does: a group instruction reads the issuing group from `cur`, an event its operands from `ev`. -/
def exec (i : Instr) (s : State) : Host.Outcome State Fault Refusal :=
  match i with
  | .iadd16 f => Sys2Proof.Machine.execIadd16 f s
  | .isub16 f => Sys2Proof.Machine.execIsub16 f s
  | .and16 f => Sys2Proof.Machine.execAnd16 f s
  | .or16 f => Sys2Proof.Machine.execOr16 f s
  | .xor16 f => Sys2Proof.Machine.execXor16 f s
  | .shl16 f => Sys2Proof.Machine.execShl16 f s
  | .shrl16 f => Sys2Proof.Machine.execShrl16 f s
  | .shra16 f => Sys2Proof.Machine.execShra16 f s
  | .mov f => Sys2Proof.Machine.execMov f s
  | .fadd16 f => Sys2Proof.Machine.execFadd16 f s
  | .fmul16 f => Sys2Proof.Machine.execFmul16 f s
  | .fmin16 f => Sys2Proof.Machine.execFmin16 f s
  | .fmax16 f => Sys2Proof.Machine.execFmax16 f s
  | .hadd216 f => Sys2Proof.Machine.execHadd216 f s
  | .hmul216 f => Sys2Proof.Machine.execHmul216 f s
  | .imax16 f => Sys2Proof.Machine.execImax16 f s
  | .iadd f => Sys2Proof.Machine.execIadd f s
  | .isub f => Sys2Proof.Machine.execIsub f s
  | .imul f => Sys2Proof.Machine.execImul f s
  | .imulh f => Sys2Proof.Machine.execImulh f s
  | .imulhu f => Sys2Proof.Machine.execImulhu f s
  | .imad f => Sys2Proof.Machine.execImad f s
  | .imin f => Sys2Proof.Machine.execImin f s
  | .imax f => Sys2Proof.Machine.execImax f s
  | .umin f => Sys2Proof.Machine.execUmin f s
  | .umax f => Sys2Proof.Machine.execUmax f s
  | .and f => Sys2Proof.Machine.execAnd f s
  | .or f => Sys2Proof.Machine.execOr f s
  | .xor f => Sys2Proof.Machine.execXor f s
  | .andn f => Sys2Proof.Machine.execAndn f s
  | .shl f => Sys2Proof.Machine.execShl f s
  | .shrl f => Sys2Proof.Machine.execShrl f s
  | .shra f => Sys2Proof.Machine.execShra f s
  | .seteq f => Sys2Proof.Machine.execSeteq f s
  | .setlt f => Sys2Proof.Machine.execSetlt f s
  | .sel f => Sys2Proof.Machine.execSel f s
  | .fadd f => Sys2Proof.Machine.execFadd f s
  | .fsub f => Sys2Proof.Machine.execFsub f s
  | .fmul f => Sys2Proof.Machine.execFmul f s
  | .ffma f => Sys2Proof.Machine.execFfma f s
  | .fmin f => Sys2Proof.Machine.execFmin f s
  | .fmax f => Sys2Proof.Machine.execFmax f s
  | .fseteq f => Sys2Proof.Machine.execFseteq f s
  | .fsetlt f => Sys2Proof.Machine.execFsetlt f s
  | .fsetle f => Sys2Proof.Machine.execFsetle f s
  | .hadd2 f => Sys2Proof.Machine.execHadd2 f s
  | .hmul2 f => Sys2Proof.Machine.execHmul2 f s
  | .hfma2 f => Sys2Proof.Machine.execHfma2 f s
  | .ineg f => Sys2Proof.Machine.execIneg f s
  | .iabs f => Sys2Proof.Machine.execIabs f s
  | .popc f => Sys2Proof.Machine.execPopc f s
  | .clz f => Sys2Proof.Machine.execClz f s
  | .ctz f => Sys2Proof.Machine.execCtz f s
  | .brev f => Sys2Proof.Machine.execBrev f s
  | .sext f => Sys2Proof.Machine.execSext f s
  | .zext f => Sys2Proof.Machine.execZext f s
  | .not f => Sys2Proof.Machine.execNot f s
  | .fneg f => Sys2Proof.Machine.execFneg f s
  | .fabs f => Sys2Proof.Machine.execFabs f s
  | .fsqrt f => Sys2Proof.Machine.execFsqrt f s
  | .frsq f => Sys2Proof.Machine.execFrsq f s
  | .frcp f => Sys2Proof.Machine.execFrcp f s
  | .fexp2 f => Sys2Proof.Machine.execFexp2 f s
  | .flog2 f => Sys2Proof.Machine.execFlog2 f s
  | .fsin f => Sys2Proof.Machine.execFsin f s
  | .fcos f => Sys2Proof.Machine.execFcos f s
  | .ffloor f => Sys2Proof.Machine.execFfloor f s
  | .fceil f => Sys2Proof.Machine.execFceil f s
  | .ftrunc f => Sys2Proof.Machine.execFtrunc f s
  | .frint f => Sys2Proof.Machine.execFrint f s
  | .cvt f => Sys2Proof.Machine.execCvt f s
  | .cvts f => Sys2Proof.Machine.execCvts f s
  | .cvtsr f => Sys2Proof.Machine.execCvtsr f s
  | .pkb f => Sys2Proof.Machine.execPkb f s
  | .pkh f => Sys2Proof.Machine.execPkh f s
  | .pkn f => Sys2Proof.Machine.execPkn f s
  | .upb f => Sys2Proof.Machine.execUpb f s
  | .upbs f => Sys2Proof.Machine.execUpbs f s
  | .uph f => Sys2Proof.Machine.execUph f s
  | .uphs f => Sys2Proof.Machine.execUphs f s
  | .upn f => Sys2Proof.Machine.execUpn f s
  | .upns f => Sys2Proof.Machine.execUpns f s
  | .qswx f => Sys2Proof.Machine.execQswx f s
  | .qswy f => Sys2Proof.Machine.execQswy f s
  | .qswd f => Sys2Proof.Machine.execQswd f s
  | .qbc f => Sys2Proof.Machine.execQbc f s
  | .qaddf f => Sys2Proof.Machine.execQaddf f s
  | .qaddi f => Sys2Proof.Machine.execQaddi f s
  | .qmaxf f => Sys2Proof.Machine.execQmaxf f s
  | .shfl f => Sys2Proof.Machine.execShfl f s
  | .shflup f => Sys2Proof.Machine.execShflup f s
  | .shfldn f => Sys2Proof.Machine.execShfldn f s
  | .shflx f => Sys2Proof.Machine.execShflx f s
  | .vany f => Sys2Proof.Machine.execVany f s
  | .vall f => Sys2Proof.Machine.execVall f s
  | .ballot f => Sys2Proof.Machine.execBallot f s
  | .gaddi f => Sys2Proof.Machine.execGaddi f s
  | .gaddf f => Sys2Proof.Machine.execGaddf f s
  | .gmaxf f => Sys2Proof.Machine.execGmaxf f s
  | .setltu f => Sys2Proof.Machine.execSetltu f s
  | .setle f => Sys2Proof.Machine.execSetle f s
  | .setleu f => Sys2Proof.Machine.execSetleu f s
  | .setne f => Sys2Proof.Machine.execSetne f s
  | .fsetne f => Sys2Proof.Machine.execFsetne f s
  | .fsetun f => Sys2Proof.Machine.execFsetun f s
  | .fclass f => Sys2Proof.Machine.execFclass f s
  | .ldb f => Sys2Proof.Machine.execLdb f s
  | .ldh f => Sys2Proof.Machine.execLdh f s
  | .ldw f => Sys2Proof.Machine.execLdw f s
  | .ldd f => Sys2Proof.Machine.execLdd f s
  | .stb f => Sys2Proof.Machine.execStb f s
  | .sth f => Sys2Proof.Machine.execSth f s
  | .stw f => Sys2Proof.Machine.execStw f s
  | .std f => Sys2Proof.Machine.execStd f s
  | .atomAdd f => Sys2Proof.Machine.execAtomAdd f s
  | .atomAddd f => Sys2Proof.Machine.execAtomAddd f s
  | .atomAnd f => Sys2Proof.Machine.execAtomAnd f s
  | .atomOr f => Sys2Proof.Machine.execAtomOr f s
  | .atomXor f => Sys2Proof.Machine.execAtomXor f s
  | .atomMin f => Sys2Proof.Machine.execAtomMin f s
  | .atomMax f => Sys2Proof.Machine.execAtomMax f s
  | .atomUmin f => Sys2Proof.Machine.execAtomUmin f s
  | .atomUmax f => Sys2Proof.Machine.execAtomUmax f s
  | .atomXchg f => Sys2Proof.Machine.execAtomXchg f s
  | .atomCas f => Sys2Proof.Machine.execAtomCas f s
  | .atomAddf f => Sys2Proof.Machine.execAtomAddf f s
  | .atomAdd2h f => Sys2Proof.Machine.execAtomAdd2h f s
  | .atomMaxf f => Sys2Proof.Machine.execAtomMaxf f s
  | .atomMinf f => Sys2Proof.Machine.execAtomMinf f s
  | .atomIncw f => Sys2Proof.Machine.execAtomIncw f s
  | .skins f => Sys2Proof.Machine.execSkins f s
  | .skdel f => Sys2Proof.Machine.execSkdel f s
  | .skqry f => Sys2Proof.Machine.execSkqry f s
  | .skrank f => Sys2Proof.Machine.execSkrank f s
  | .skmerge f => Sys2Proof.Machine.execSkmerge f s
  | .skfold f => Sys2Proof.Machine.execSkfold f s
  | .skclear f => Sys2Proof.Machine.execSkclear f s
  | .skinfo f => Sys2Proof.Machine.execSkinfo f s
  | .brc f => Sys2Proof.Machine.execBrc f s
  | .jmp f => Sys2Proof.Machine.execJmp f s
  | .call f => Sys2Proof.Machine.execCall f s
  | .sadd f => Sys2Proof.Machine.execSadd f s
  | .ssub f => Sys2Proof.Machine.execSsub f s
  | .smul f => Sys2Proof.Machine.execSmul f s
  | .smulh f => Sys2Proof.Machine.execSmulh f s
  | .sand f => Sys2Proof.Machine.execSand f s
  | .sor f => Sys2Proof.Machine.execSor f s
  | .sxor f => Sys2Proof.Machine.execSxor f s
  | .sandn f => Sys2Proof.Machine.execSandn f s
  | .sshl f => Sys2Proof.Machine.execSshl f s
  | .sshrl f => Sys2Proof.Machine.execSshrl f s
  | .sshra f => Sys2Proof.Machine.execSshra f s
  | .smin f => Sys2Proof.Machine.execSmin f s
  | .smax f => Sys2Proof.Machine.execSmax f s
  | .sumin f => Sys2Proof.Machine.execSumin f s
  | .sumax f => Sys2Proof.Machine.execSumax f s
  | .sseteq f => Sys2Proof.Machine.execSseteq f s
  | .ssetlt f => Sys2Proof.Machine.execSsetlt f s
  | .ssetltu f => Sys2Proof.Machine.execSsetltu f s
  | .ssel f => Sys2Proof.Machine.execSsel f s
  | .smov f => Sys2Proof.Machine.execSmov f s
  | .sld f => Sys2Proof.Machine.execSld f s
  | .sldd f => Sys2Proof.Machine.execSldd f s
  | .sst f => Sys2Proof.Machine.execSst f s
  | .sstd f => Sys2Proof.Machine.execSstd f s
  | .saddi f => Sys2Proof.Machine.execSaddi f s
  | .rldw f => Sys2Proof.Machine.execRldw f s
  | .rldd f => Sys2Proof.Machine.execRldd f s
  | .rstw f => Sys2Proof.Machine.execRstw f s
  | .rstd f => Sys2Proof.Machine.execRstd f s
  | .raddi f => Sys2Proof.Machine.execRaddi f s
  | .raddf f => Sys2Proof.Machine.execRaddf f s
  | .rmaxf f => Sys2Proof.Machine.execRmaxf f s
  | .rcas f => Sys2Proof.Machine.execRcas f s
  | .rxchg f => Sys2Proof.Machine.execRxchg f s
  | .rredf f => Sys2Proof.Machine.execRredf f s
  | .rredh f => Sys2Proof.Machine.execRredh f s
  | .gang f => Sys2Proof.Machine.execGang f s
  | .mreq f => Sys2Proof.Machine.execMreq f s
  | .mreqTry f => Sys2Proof.Machine.execMreqTry f s
  | .mwl f => Sys2Proof.Machine.execMwl f s
  | .mpass f => Sys2Proof.Machine.execMpass f s
  | .mrdy f => Sys2Proof.Machine.execMrdy f s
  | .mwait f => Sys2Proof.Machine.execMwait f s
  | .mdrain f => Sys2Proof.Machine.execMdrain f s
  | .mrel f => Sys2Proof.Machine.execMrel f s
  | .mscale f => Sys2Proof.Machine.execMscale f s
  | .touch f => Sys2Proof.Machine.execTouch f s
  | .close f => Sys2Proof.Machine.execClose f s
  | .waitb f => Sys2Proof.Machine.execWaitb f s
  | .bind f => Sys2Proof.Machine.execBind f s
  | .unbind f => Sys2Proof.Machine.execUnbind f s
  | .seal f => Sys2Proof.Machine.execSeal f s
  | .unseal f => Sys2Proof.Machine.execUnseal f s
  | .emit f => Sys2Proof.Machine.execEmit f s
  | .emitTry f => Sys2Proof.Machine.execEmitTry f s
  | .qctlStat f => Sys2Proof.Machine.execQctlStat f s
  | .qctlEnable f => Sys2Proof.Machine.execQctlEnable f s
  | .qctlDisable f => Sys2Proof.Machine.execQctlDisable f s
  | .qctlInit f => Sys2Proof.Machine.execQctlInit f s
  | .qctlPeriod f => Sys2Proof.Machine.execQctlPeriod f s
  | .qctlSupervisor f => Sys2Proof.Machine.execQctlSupervisor f s
  | .qctlClear f => Sys2Proof.Machine.execQctlClear f s
  | .cinit f => Sys2Proof.Machine.execCinit f s
  | .cinc f => Sys2Proof.Machine.execCinc f s
  | .cincRemote f => Sys2Proof.Machine.execCincRemote f s
  | .cwait f => Sys2Proof.Machine.execCwait f s
  | .cwaitPoll f => Sys2Proof.Machine.execCwaitPoll f s
  | .barinit f => Sys2Proof.Machine.execBarinit f s
  | .barinitTeam f => Sys2Proof.Machine.execBarinitTeam f s
  | .bararr f => Sys2Proof.Machine.execBararr f s
  | .barwait f => Sys2Proof.Machine.execBarwait f s
  | .bartest f => Sys2Proof.Machine.execBartest f s
  | .synkill f => Sys2Proof.Machine.execSynkill f s
  | .trig f => Sys2Proof.Machine.execTrig f s
  | .cgload f => Sys2Proof.Machine.execCgload f s
  | .cgrun f => Sys2Proof.Machine.execCgrun f s
  | .cgwait f => Sys2Proof.Machine.execCgwait f s
  | .fence f => Sys2Proof.Machine.execFence f s
  | .jmpi f => Sys2Proof.Machine.execJmpi f s
  | .jmpiLink f => Sys2Proof.Machine.execJmpiLink f s
  | .exit f => Sys2Proof.Machine.execExit f s
  | .trap f => Sys2Proof.Machine.execTrap f s
  | .yield f => Sys2Proof.Machine.execYield f s
  | .rfree f => Sys2Proof.Machine.execRfree f s
  | .csrr f => Sys2Proof.Machine.execCsrr f s
  | .csrw f => Sys2Proof.Machine.execCsrw f s
  | .sldi f => Sys2Proof.Machine.execSldi f s
  | .sldhi f => Sys2Proof.Machine.execSldhi f s
  | .rfeRetry f => Sys2Proof.Machine.execRfeRetry f s
  | .rfeSkip f => Sys2Proof.Machine.execRfeSkip f s
  | .rfeReg f => Sys2Proof.Machine.execRfeReg f s
  | .ctxsave f => Sys2Proof.Machine.execCtxsave f s
  | .ctxload f => Sys2Proof.Machine.execCtxload f s
  | .dusk f => Sys2Proof.Machine.execDusk f s
  | .walkCfg f => Sys2Proof.Machine.execWalkCfg f s
  | .walkRun f => Sys2Proof.Machine.execWalkRun f s
  | .aadd f => Sys2Proof.Machine.execAadd f s
  | .aset f => Sys2Proof.Machine.execAset f s
  | .amov f => Sys2Proof.Machine.execAmov f s
  | .aget f => Sys2Proof.Machine.execAget f s
  | .pfres => Sys2Proof.Machine.execPfres s
  | .prectl => Sys2Proof.Machine.execPrectl s
  | .vfcfg => Sys2Proof.Machine.execVfcfg s
  | .vfsalt => Sys2Proof.Machine.execVfsalt s
  | .pwrcap => Sys2Proof.Machine.execPwrcap s
  | .rcRegisterRead => Sys2Proof.Machine.execRcRegisterRead s
  | .pdnStore => Sys2Proof.Machine.execPdnStore s
  | .rsvReserve => Sys2Proof.Machine.execRsvReserve s
  | .coalesceTimeout => Sys2Proof.Machine.execCoalesceTimeout s
  | .placeBand => Sys2Proof.Machine.execPlaceBand s
  | .activationReserving => Sys2Proof.Machine.execActivationReserving s
  | .issuePriorityAgeing => Sys2Proof.Machine.execIssuePriorityAgeing s
  | .parkedSplitExchange => Sys2Proof.Machine.execParkedSplitExchange s
  | .gridTrigger => Sys2Proof.Machine.execGridTrigger s
  | .gridComplete => Sys2Proof.Machine.execGridComplete s
  | .forcedStop => Sys2Proof.Machine.execForcedStop s
  | .blockFill => Sys2Proof.Machine.execBlockFill s
  | .loadReturn => Sys2Proof.Machine.execLoadReturn s
  | .renewalReply => Sys2Proof.Machine.execRenewalReply s
  | .leaseExpiry => Sys2Proof.Machine.execLeaseExpiry s
  | .trackedRead => Sys2Proof.Machine.execTrackedRead s
  | .leaseLoad => Sys2Proof.Machine.execLeaseLoad s
  | .ownershipRequest => Sys2Proof.Machine.execOwnershipRequest s
  | .homeWrite => Sys2Proof.Machine.execHomeWrite s
  | .commutativeUpdate => Sys2Proof.Machine.execCommutativeUpdate s
  | .partialDelivery => Sys2Proof.Machine.execPartialDelivery s
  | .invalidation => Sys2Proof.Machine.execInvalidation s
  | .acknowledgement => Sys2Proof.Machine.execAcknowledgement s
  | .l1Evict => Sys2Proof.Machine.execL1Evict s
  | .evictionNotice => Sys2Proof.Machine.execEvictionNotice s
  | .dramFill => Sys2Proof.Machine.execDramFill s
  | .sideLogReplay => Sys2Proof.Machine.execSideLogReplay s
  | .copyArrival => Sys2Proof.Machine.execCopyArrival s
  | .matrixGrant => Sys2Proof.Machine.execMatrixGrant s
  | .matrixOperationComplete => Sys2Proof.Machine.execMatrixOperationComplete s
  | .packetArrival => Sys2Proof.Machine.execPacketArrival s
  | .custodyAck => Sys2Proof.Machine.execCustodyAck s
  | .linkDown => Sys2Proof.Machine.execLinkDown s
  | .linkTrainingComplete => Sys2Proof.Machine.execLinkTrainingComplete s
  | .lossOfHome => Sys2Proof.Machine.execLossOfHome s
  | .sharerPresumedUnreachable => Sys2Proof.Machine.execSharerPresumedUnreachable s
  | .remoteUnreachable => Sys2Proof.Machine.execRemoteUnreachable s
  | .pathRestored => Sys2Proof.Machine.execPathRestored s
  | .runActivate => Sys2Proof.Machine.execRunActivate s
  | .chunkComplete => Sys2Proof.Machine.execChunkComplete s
  | .chunkSkip => Sys2Proof.Machine.execChunkSkip s
  | .parentArrival => Sys2Proof.Machine.execParentArrival s
  | .watchdogFire => Sys2Proof.Machine.execWatchdogFire s
  | .emitSpaceFreed => Sys2Proof.Machine.execEmitSpaceFreed s
  | .pcieRequest => Sys2Proof.Machine.execPcieRequest s
  | .completionTimeout => Sys2Proof.Machine.execCompletionTimeout s
  | .getVersion => Sys2Proof.Machine.execGetVersion s
  | .getCapabilities => Sys2Proof.Machine.execGetCapabilities s
  | .negotiateAlgorithms => Sys2Proof.Machine.execNegotiateAlgorithms s
  | .getDigests => Sys2Proof.Machine.execGetDigests s
  | .getCertificate => Sys2Proof.Machine.execGetCertificate s
  | .challenge => Sys2Proof.Machine.execChallenge s
  | .getMeasurements => Sys2Proof.Machine.execGetMeasurements s
  | .unsupportedRequest => Sys2Proof.Machine.execUnsupportedRequest s
  | .dawn => Sys2Proof.Machine.execDawn s
  | .coolantBreach => Sys2Proof.Machine.execCoolantBreach s
  | .coolantRestored => Sys2Proof.Machine.execCoolantRestored s
  | .correctedError => Sys2Proof.Machine.execCorrectedError s
  | .uncorrectableError => Sys2Proof.Machine.execUncorrectableError s
  | .coreRetire => Sys2Proof.Machine.execCoreRetire s
  | .clusterRetire => Sys2Proof.Machine.execClusterRetire s
  | .replaceAdvisory => Sys2Proof.Machine.execReplaceAdvisory s
  | .illegalEncoding => Sys2Proof.Machine.execIllegalEncoding s
  | .fetchFault => Sys2Proof.Machine.execFetchFault s

end Sys2Proof.Machine
end

