-- ==== Sys2Proof/Machine/Sched.lean ====
section
/-!
DEFINITION. Which turn the machine takes next: the head of the agenda, and when the agenda is empty the model's own
order (log 2): events that are due, then issue as the manual picks it (02_execution_model.md R45), then one clock.
-/
namespace Sys2Proof.Machine

/-! ## The clock -/

/-- May the group's split be tried in this clock? One tried already waits. -/
def mayTry (g : Group) (p : Split) : Bool := !p.stalled && !splitBarred g p

/-- May a split of the group be tried in this clock? -/
def groupOpen (s : State) (g : Group) : Bool :=
  g.mayIssue && coreRuns s g.core && (g.savedRes.isNone || (repostDue s g).isSome) && g.arch.splits.any (mayTry g)

/-- Would a split issue now: its instruction's operands and resources are there and it waits on nothing (R45)? -/
def splitReady (s : State) (g : Group) (p : Split) : Bool :=
  mayTry g p && match fetchSplit s g.core g.slot p.slot with
    | .stop _ => false
    | .run i t => match exec i t with
      | .next u => match u.group? g.core g.slot with
        | some h => h.issuedAt == some s.cyc || h.faulted
        | none => true
      | _ => false

/-- Has a group that did not issue in this clock a split that is ready (R45)? -/
def groupReady (s : State) (g : Group) : Bool :=
  g.issuedAt != some s.cyc && groupOpen s g && g.arch.splits.any (splitReady s g)

/-- A group at the end of a clock: one passed over with a split ready waits, and every wait is looked at again (R45). -/
def Group.tick (ready : Bool) (g : Group) : Group :=
  { g with
    waited := if ready then g.waited + 1 else g.waited
    arch := { g.arch with splits := g.arch.splits.map fun (p : Split) => { p with stalled := false } } }

/-- Was an activation passed over in this clock: the first of its node still to be placed, and it does not fit (R43)? -/
def passedOver (s : State) (a : Activation) : Bool :=
  a.open_ && (s.acts.all fun b => !a.peer b || !b.open_ || !(b.node == a.node && decide (b.act < a.act))) &&
  (bandCluster s a (nodeEntry s a.m a.node)).isNone

/-- An activation at the end of a clock in which it was passed over, or not (R43). -/
def Activation.tick (cyc : Nat) (skipped : Bool) (a : Activation) : Activation :=
  if skipped then
    let n := a.passed.getD 0 + 1
    { a with passed := some n, reachedAt := if n = Config.ageClocks then some cyc else a.reachedAt }
  else a

/-- A queue's watchdog at a lease-clock tick (R265). -/
def Queue.tick (q : Queue) : Queue :=
  if q.rsv = q.fre then { q with wcount := 0 }
  else if q.wdt ≠ 0 && q.en && !q.wdg then { q with wcount := q.wcount + 1 }
  else q

/-- Each group with the note whether a split of it is ready as the clock begins (R122). -/
def noteIdle (s : State) : State := { s with groups := s.groups.map fun g => { g with idle := !groupReady s g } }

/-- One arithmetic clock passes; every 256th is a lease-clock tick (R13, R125). Requests of ports that wait at a home go on if
they can, and `PRESTAT` takes what has parked (R337, R349). -/
def tick (s : State) : State :=
  let c := s.cyc + 1
  let lt := c % Config.clocksPerTick = 0
  noteIdle (notePrestat (settlePcie { s with
    cyc := c
    ltick := if lt then s.ltick + 1 else s.ltick
    groups := s.groups.map fun g => g.tick (groupReady s g)
    acts := s.acts.map fun a => a.tick s.cyc (passedOver s a)
    queues := if lt then s.queues.map Queue.tick else s.queues }))

/-! ## Issue (R45) -/

/-- The effective priority of a group. -/
def effPrio (s : State) (g : Group) : Nat := min 15 (((s.team? g.team).map (·.prio)).getD 0 + g.age)

/-- The group a core issues next in this clock: the highest effective priority, then the longest resident, then the
lower slot; at most two a clock, none twice, and none in the clock of its placement (R52). -/
def pickGroup (s : State) (core : Nat) : Option Group :=
  let here := s.groups.filter fun g => g.core == core
  if 2 ≤ (here.filter fun g => g.issuedAt == some s.cyc).length then none
  else leastBy (fun g => ((15 - effPrio s g) * 2 ^ 64 + g.placedAt) * 64 + g.slot)
    (here.filter fun g => groupOpen s g && g.issuedAt != some s.cyc && g.placedAt < s.cyc)

/-- The next split after the one issued last, in slot order; before it those that were held, lowest slot first (R275). -/
def pickSplit (g : Group) : Option Nat :=
  let may (again : Bool) (i : Nat) : Bool := g.arch.splits.any fun p => p.slot == i && mayTry g p && (!again || decide (0 < p.heldAt))
  ((List.range 4).find? (may true)).or (((List.range 4).map fun i => (g.lastSlot + 1 + i) % 4).find? (may false))

/-- The issue the cores would make next, the lowest core first. -/
def pickIssue (s : State) : Option Turn :=
  ((s.groups.map (·.core)).foldl (fun acc c => if acc.contains c then acc else acc ++ [c]) []).findSome? fun core =>
    (pickGroup s core).bind fun g => (pickSplit g).map fun i => .issue core g.slot i

/-! ## Events that are due -/

/-- An event with its first operands. -/
structure Due where
  i : Instr
  a : Nat := 0
  b : Nat := 0
  c : Nat := 0
  deriving DecidableEq, Repr

/-- Its operands. -/
def Due.args (d : Due) : EvArgs := { a := d.a, b := d.b, c := d.c }

/-- Requests at their homes, in the order they were made (R253 to R257, R302). -/
def dueReqs (s : State) : List Due :=
  s.reqs.map fun r => match r.kind with
    | .tracked => ⟨.trackedRead, r.id, 0, 0⟩
    | .lease _ => ⟨.leaseLoad, r.id, 0, 0⟩
    | .own _ => ⟨.ownershipRequest, r.id, 0, 0⟩
    | .homeWrite _ => ⟨.homeWrite, r.id, 0, 0⟩
    | .commut => ⟨.commutativeUpdate, r.id, 0, 0⟩

/-- Coherence messages (R254, R255). -/
def dueMsgs (s : State) : List Due :=
  s.msgs.map fun m => match m with
    | .inval t l => ⟨.invalidation, t, l, 0⟩
    | .ack t l => ⟨.acknowledgement, t, l, 0⟩
    | .notice c l => ⟨.evictionNotice, c, l, 0⟩

/-- Accesses of a group that are complete, and its renewals (R200, R225). -/
def dueReturns (g : Group) : List Due :=
  (g.txns.filter fun t => t.out = 0).map (fun t => ⟨.loadReturn, g.core, g.slot, t.id⟩) ++
  (match g.twi with
    | some t => (List.range t.lines.length).map fun i => ⟨.renewalReply, g.core, g.slot, i⟩
    | none => [])

/-- What a group's waits have come to, parking before a stop (R31, R45, R50, R52). -/
def dueGroup (s : State) (g : Group) : List Due :=
  (match g.arch.parked with
    | k :: _ => if k.since + (Config.exchangeClocks - 1) ≤ s.cyc then [⟨.parkedSplitExchange, g.core, g.slot, 0⟩] else []
    | [] => []) ++
  (match g.preempt with
    | .asked since => if since + Config.forcedStopClocks ≤ s.cyc then [⟨.forcedStop, g.core, g.slot, 0⟩] else []
    | _ => []) ++
  (if Config.ageClocks ≤ g.waited then [⟨.issuePriorityAgeing, g.core, g.slot, 0⟩] else [])

/-- Copies, packets, log entries (R244, R269, R273, R274). -/
def dueTraffic (s : State) : List Due :=
  s.copies.flatMap (fun c => c.dests.flatMap fun d =>
    ((List.range c.lines).filter fun j => !c.landed.contains (d.1, j)).map fun j => ⟨.copyArrival, c.id, d.1, j⟩) ++
  s.streams.flatMap (fun x =>
    x.flight.map (fun p => ⟨.packetArrival, x.core, x.target, p.seq⟩) ++
    x.buffer.map fun p => ⟨.custodyAck, x.core, x.target, p.seq⟩) ++
  (s.log.filter fun e => e.st = 2 && !e.loss).map fun e => ⟨.sideLogReplay, e.core, 0, 0⟩

/-- Engines and chunk graphs (R284, R286, R308). -/
def dueEngines (s : State) : List Due :=
  s.engines.map (fun e => ⟨if e.running.isSome then .matrixOperationComplete else .matrixGrant, e.cluster, 0, 0⟩) ++
  s.runs.flatMap fun r =>
    if !r.active then [⟨.runActivate, r.id, 0, 0⟩]
    else ((List.range r.states.length).filter fun i => r.states[i]? == some .started).flatMap fun i =>
      [⟨.chunkSkip, r.id, i, 0⟩, ⟨.chunkComplete, r.id, i, 0⟩]

/-- Barriers, signals of activations, queues, placement, in the order of R52 (R37 to R43, R262 to R265, R316). -/
def dueLaunch (s : State) : List Due :=
  (List.range s.parents.length).map (fun i => ⟨.parentArrival, i, 0, 0⟩) ++
  s.acts.flatMap (fun a =>
    (if triggerDue s a then [⟨.gridTrigger, a.m, a.node, a.act⟩] else []) ++
    (if completeDue a then [⟨.gridComplete, a.m, a.node, a.act⟩] else [])) ++
  s.queues.flatMap (fun q =>
    (if q.waiting.isEmpty then [] else [⟨.emitSpaceFreed, q.m, q.node, 0⟩]) ++
    (if (readyCount s q.m q.node true).isSome then [⟨.coalesceTimeout, q.m, q.node, 0⟩] else []) ++
    (if q.wdt ≠ 0 && q.wdt ≤ q.wcount then [⟨.watchdogFire, q.m, q.node, 0⟩] else [])) ++
  s.acts.flatMap fun a =>
    (if reserveDue s a then [⟨.activationReserving, a.m, a.node, a.act⟩] else []) ++
    (if placesNow s a then [⟨.placeBand, a.m, a.node, a.act⟩] else [])

/-- What the clocks and the links bring (R218, R235, R245, R323). -/
def dueFabric (s : State) : List Due :=
  (s.l1.filter fun c => match c.kind with
    | .leased _ e renew _ _ _ => e ≤ s.ltick && !renew
    | _ => false).map (fun c => ⟨.leaseExpiry, c.core, c.line, 0⟩) ++
  s.nopath.flatMap (fun p =>
    (if pathExists s p.m p.h then [⟨.pathRestored, p.m, p.h, 0⟩] else []) ++
    (if !p.applied && p.since + Config.lossClocks ≤ s.cyc then [⟨.lossOfHome, p.m, p.h, 0⟩] else []) ++
    (if p.since + Config.presumeClocks ≤ s.cyc then
      (s.dir.filter fun d => lineMod d.line = p.h).map fun d => ⟨.sharerPresumedUnreachable, d.line, p.m, 0⟩ else [])) ++
  (s.streams.filter fun x => !x.flight.isEmpty && cutOff s (coreMod x.core) x.target).map
    (fun x => ⟨.remoteUnreachable, x.core, x.target, 0⟩) ++
  (s.modules.filter fun x => x.adv).flatMap fun x =>
    (s.modules.filter fun y => !y.radvf.getLsbD x.num).map fun y => ⟨.replaceAdvisory, y.num, x.num, 0⟩

/-- Spilled blocks of a group whose splits wait (R122), one group slot of each core a clock (log 18). -/
def dueFills (s : State) : List Due :=
  (s.groups.filter fun g => g.slot = s.cyc % 64 && g.mayIssue && g.arch.splits.any fun p => p.stalled).flatMap fun g =>
    ((List.range 15).filter fun b => match nth g.arch.blocks b .unallocated with
      | .spilled _ => true
      | _ => false).map fun b => ⟨.blockFill, g.core, g.slot, b⟩

/-- Does an event change anything? -/
def Due.changes (s : State) (d : Due) : Bool :=
  let s := { s with ev := d.args }
  match exec d.i s with
  | .next t => t ≠ s
  | _ => false

/-- The first event of a list that changes something. -/
def firstDue (s : State) (l : List Due) : Option Turn := (l.find? (Due.changes s)).map fun d => .event d.i d.args

/-- Events the clock, launches and links bring, in the model's own order (log 2). -/
def pickEvent (s : State) : Option Turn := firstDue s (s.groups.flatMap (dueGroup s) ++ dueLaunch s ++ dueFabric s)

/-- A full L1 gives up a line for a request that waits for room (R19, R175). -/
def dueRoom (s : State) : List Due :=
  (s.reqs.filter fun r => r.caches && !l1Room s r.core r.line).flatMap fun r =>
    (s.l1.filter fun c => c.core == r.core).map fun c => ⟨.l1Evict, c.core, c.line, 0⟩

/-- Replies and deliveries of the memory system and the engines. -/
def pickReply (s : State) : Option Turn :=
  firstDue s (dueReqs s ++ dueMsgs s ++ s.groups.flatMap dueReturns ++ dueTraffic s ++ dueEngines s ++ dueRoom s)

/-- May replies come in this clock: every eighth clock, and whenever no split is left to try (log 2)? -/
def replyClock (s : State) : Bool := s.cyc % 8 = 7 || !s.groups.any (groupOpen s)

/-- A spilled block to fill, once no group can issue in this clock. -/
def pickFill (s : State) : Option Turn :=
  ((dueFills s).find? (Due.changes s)).map fun d => .event d.i d.args

/-- A faulted group whose accesses are complete leaves when its turn comes (R332). -/
def pickLeave (s : State) : Option Turn :=
  (s.groups.find? fun g => g.faulted && !hasFlight s g && !hasLog s g.core g.slot && (s.team? g.team).isSome).map
    fun g => .issue g.core g.slot 0

/-- The next step of an access across a bank row (R227). -/
def pickRow (s : State) : Option Turn :=
  (s.rests.find? fun r => (nextRow s r.core r.slot).isSome).map fun r => .bankRow r.core r.slot

/-- The turn the machine takes when the agenda is empty: steps of local accesses, then issue, then stops, signals and placement (R52; log 73). -/
def defaultTurn (s : State) : Turn :=
  (((pickRow s).or ((pickLeave s).or (pickIssue s))).or ((pickEvent s).or
    ((if replyClock s then pickReply s else none).or (pickFill s)))).getD .tick

/-- The turn to take, and the state without it; an application core's access that waits at a home stands back, and the
home opens the rounds it needs. -/
def nextTurn (s : State) : Turn × State :=
  match s.agenda with
  | t :: ts => if t.waits s then (defaultTurn (t.reach s), t.reach s) else (t, { s with agenda := ts })
  | [] => (defaultTurn s, s)

/-! ## Placing an instruction to be fetched -/

/-- Physical addresses the model's own boot group uses: its level-0 and level-1 tables and its code. -/
def bootL0 : Nat := 0x10000
/-- See `bootL0`. -/
def bootL1 : Nat := 0x12000
/-- See `bootL0`. -/
def bootCode : Nat := 0x20000

/-- The team of the boot group: one lane-complete group of eight lanes on core 0, firmware level. -/
def bootTeam (s : State) : Team where
  uid := s.nextId
  m := 0
  core := 0
  node := 0
  act := 0
  band := 0
  num := 0
  lanes := 8
  width := 8
  bands := 1
  rbase := 0
  rcnt := 1
  pl := 3
  vf := 0
  ctx := 0
  l0 := bootL0
  part := 0
  prio := 0
  hva := 0
  seed := 0
  lsOff := 0
  wGran := 1
  aGran := 1
  cGran := 1
  sGran := 1
  gen := 1
  regions := List.replicate 64 Region.zero
  bars := []
  groups := 1
  exited := 0
  trigDone := false
  exitDone := false

/-- The address registers of the boot group: every launch grant, and a6 over the first 64 GiB with every permission. -/
def bootAregs (t : Team) : List AReg :=
  launchAregs t 0 0 [⟨0, 0, BitVec.ofNat 56 (2 ^ 36), permOf 0 31⟩]

/-- A 64 GiB leaf that maps virtual to physical addresses from 0, with `V`, `LF`, `WR`, `EX`, `CA`. -/
def bootLeaf : Nat := 0xE3

/-- Memory with the boot group's tables. -/
def bootTables (m : List Host.Cell) : List Host.Cell :=
  memWriteLE (memWriteLE m bootL0 8 (bootL1 + 1)) bootL1 8 bootLeaf

/-- `s` with the instruction of `nbits` bits `w`, zeros above, where the boot group fetches next, and the next turn
its issue. The boot group replaces whatever group stood in slot 0 of core 0. -/
def placeWord (s : State) (nbits w : Nat) : State :=
  let t := bootTeam s
  let s := s.modMod 0 fun x => { x with cool := true, done := true, step := 0, cause := 0 }
  { s with
    mem := memWriteLE (bootTables s.mem) bootCode 8 (w % 2 ^ nbits)
    poison := s.poison.filter fun l => l != bootCode / 128 && l != bootL0 / 128 && l != bootL1 / 128
    queues := s.queues.filter fun q => q.header != some (bootCode / 128)
    teams := s.teams ++ [t]
    groups := (s.groups.filter fun g => !(g.core == 0 && g.slot == 0)) ++
      [launchGroup t 0 0 (BitVec.ofNat 56 bootCode) (bootAregs t) s.cyc]
    nextId := s.nextId + 1
    agenda := [.issue 0 0 0] }

end Sys2Proof.Machine
end

