-- ==== Sys2Proof/Machine/Step.lean ====
section
/-!
DEFINITION. One step of the machine: the next turn is taken.
-/
namespace Sys2Proof.Machine

/-- Take a turn. -/
def takeTurn (t : Turn) (s : State) : Host.Outcome State Fault Refusal :=
  match t with
  | .event i x => exec i { s with ev := x }
  | .issue core slot split => match fetchSplit s core slot split with
    | .run i s => exec i s
    | .stop s => .next s
  | .tick => .next (tick s)
  | .hostStore c va bytes => .next (hostStore s c va bytes)
  | .hostLoad c va n => .next (hostLoad s c va n)
  | .bankRow core slot => .next (takeRow s core slot)
  | .identity m => .next (readIdentity s m)
  | .partSizes m p l1 r => .next (setSizes s m p l1 r)

/-- One step: the turn the agenda, or the model's own order, names. -/
def step (s : State) : Host.Outcome State Fault Refusal :=
  let (t, s) := nextTurn s
  takeTurn t s

/-- `s` with an instruction where the step fetches its next instruction (log 13). -/
def State.withFetchWord (s : State) (nbits w : Nat) : State := placeWord s nbits w

end Sys2Proof.Machine
end

