-- ==== Sys2Proof/Safety.lean ====
section
/-!
DEFINITION. What counts as a safe run, and the terms the statements use: when an instruction of a group executes
normally, where a lane stands, and what an instruction that only writes its own group leaves.
-/
namespace Sys2Proof.Machine

/-- Both memories are in canonical form. -/
def State.memWf (s : State) : Bool := Memory.wf s.mem && Memory.wf s.lmem

/-- A step is safe when it answers a next state whose memories are in canonical form. -/
def SafeStep (s : State) : Prop := ∃ t, step s = .next t ∧ t.memWf = true

/-- The group instruction of `x` executes normally at `s`, as far as the checks and waits common to all instructions go
(R78, R82, R90, R94, R122, R127, R128, R226, R336). `r` is `s` once there is room for the blocks the instruction
allocates: blocks of other groups of the core may have been spilled. -/
structure Ready (s : State) (x : Issue) (sp : Sp) (u : Use) (r : State) : Prop where
  /-- `cur` names the issuing group, split and team. -/
  issuer : s.issue? = some x
  /-- The mask word is legal (R90). -/
  mask : maskOk sp = true
  /-- Every selector and register is legal (R78, R82). -/
  legal : u.illegal = false
  /-- The node's privilege level suffices (R94). -/
  level : u.pl ≤ x.t.pl
  /-- No lost latch with `N` = 1 is read (R128). -/
  kept : (u.latches x.g).any Latch.raisesLost = false
  /-- No unconfirmed load keeps the instruction from issuing (R226). -/
  clear : u.twiBlocked x.g sp = false
  /-- Every value read has been returned (R127). -/
  back : u.pending x.g = false
  /-- No `emit` of another split has still to write a status register read (R264). -/
  written : u.emitPending x = false
  /-- No register read or written lies in a spilled block (R122). -/
  filled : (u.laneReads x.g ++ u.lw).any (isSpilled x.g) = false
  /-- The R region has room for the blocks written first (R122). -/
  room : ensureRoom s x.g u.lw = some r
  /-- Nothing read failed error correction (R336). -/
  sound : u.badRead x.g = false
  /-- See `sound`. -/
  area : x.g.badArea = false
  /-- See `sound`. -/
  resumed : x.g.badResume = false

/-- No pre-emption waits for this instruction as its safe point (R48). -/
def NoSafePoint (x : Issue) (sp : Sp) : Prop := sp = none ∨ ∀ c, x.g.preempt ≠ .asked c

/-- Lane `L` of the group is in a running or parked split at `pc` (R28, R29). -/
def Arch.standsAt (a : Arch) (L : Nat) (pc : VAddr) : Prop :=
  (∃ p ∈ a.splits, p.pc = pc ∧ p.mask.getLsbD L = true) ∨ ∃ p ∈ a.parked, p.pc = pc ∧ p.mask.getLsbD L = true

/-- What the instructions of a group see of it: lane, scalar and address registers, `FPCR`, `SRSEED`, the gang register
and `MSC` (R120 to R132), the lanes that are helpers and retired (R25), and the accesses under way (R127). -/
structure View where
  lane : Nat → Nat → Word
  sreg : Nat → DWord
  areg : Nat → AReg
  fpcr : BitVec 32
  srseed : DWord
  gang : DWord
  msc : DWord
  helpers : Mask
  retired : Mask
  txns : List Txn

/-- What the issuing group sees before its instruction. -/
def Issue.view (x : Issue) : View where
  lane := laneReg x.t x.g
  sreg := fun q => nth x.g.arch.sregs q 0
  areg := addrReg x.g
  fpcr := x.g.arch.fpcr
  srseed := x.g.arch.srseed
  gang := x.g.arch.gang
  msc := x.g.arch.msc
  helpers := x.g.arch.helpers
  retired := x.g.arch.retired
  txns := x.g.txns

/-- What the newest latch holds: nothing, or a value for every lane (R80). -/
def latchHolds (g : Group) (w : Nat) (latch : Option (Nat → Word)) : Prop :=
  match latch with
  | none => (latchOf g 1).vals = none
  | some f => ∃ vs, (latchOf g 1).vals = some vs ∧ ∀ L, L < w → nth vs L 0 = f L

/-- `g'` is the issuing group after an instruction: it sees `v`, its newest latch holds `latch`, each active lane `L`
stands at `pc L` and every other lane where it stood; its trap state, its counters, its lists of posted work and its
identity are as before. -/
structure GroupAfter (x : Issue) (v : View) (latch : Option (Nat → Word)) (pc : Nat → VAddr) (g' : Group) : Prop where
  lanes : ∀ q L, L < x.g.width → laneReg x.t g' q L = v.lane q L
  sregs : ∀ q, q < 48 → nth g'.arch.sregs q 0 = v.sreg q
  aregs : ∀ i, i < 16 → addrReg g' i = v.areg i
  fpcr : g'.arch.fpcr = v.fpcr
  srseed : g'.arch.srseed = v.srseed
  gang : g'.arch.gang = v.gang
  msc : g'.arch.msc = v.msc
  helpers : g'.arch.helpers = v.helpers
  retired : g'.arch.retired = v.retired
  txns : g'.txns = v.txns
  latch : latchHolds g' x.g.width latch
  goes : ∀ L, L < x.g.width → x.active.getLsbD L = true → g'.arch.standsAt L (pc L)
  stays : ∀ p ∈ x.g.arch.splits, p.slot ≠ x.cur.split → ∀ L, p.mask.getLsbD L = true → g'.arch.standsAt L p.pc
  rests : ∀ p ∈ x.g.arch.parked, ∀ L, p.mask.getLsbD L = true → g'.arch.standsAt L p.pc
  trap : g'.trap = x.g.trap
  counters : g'.bseq = x.g.bseq ∧ g'.mseq = x.g.mseq ∧ g'.cseq = x.g.cseq
  lists : g'.pending = x.g.pending ∧ g'.batches = x.g.batches ∧ g'.mposts = x.g.mposts ∧ g'.mentry = x.g.mentry ∧
    g'.cruns = x.g.cruns
  ident : g'.core = x.g.core ∧ g'.slot = x.g.slot ∧ g'.team = x.g.team ∧ g'.num = x.g.num ∧ g'.width = x.g.width

/-- A group that another group's instruction has left alone: at most some of its register blocks have been spilled or
filled, and every register reads as before (R122). -/
def kept (h h' : Option Group) : Prop :=
  match h, h' with
  | none, none => True
  | some g, some g' => (∃ bs, g' = { g with arch := { g.arch with blocks := bs } }) ∧ ∀ t q L, laneReg t g' q L = laneReg t g q L
  | _, _ => False

/-- `t` is `s` after an instruction that writes nothing but its own group: memory and every other record of the state are
as before, every other group sees what it saw, and the issuing group is as `GroupAfter` says. -/
structure After (s t : State) (x : Issue) (v : View) (latch : Option (Nat → Word)) (pc : Nat → VAddr) : Prop where
  only : t = { s with groups := t.groups }
  others : ∀ c k, ¬(c = x.cur.core ∧ k = x.cur.slot) → kept (s.group? c k) (t.group? c k)
  own : ∃ g', t.group? x.cur.core x.cur.slot = some g' ∧ GroupAfter x v latch pc g'

end Sys2Proof.Machine
end

