-- ==== Sys2Proof/Safety/Lanes.lean ====
section
/-!
DEFINITION. The terms the statements use for lane operations: what each writes in a lane, as Tables Lane 1 to 6 and
Control 2 and 3 give it (07_lane_and_scalar_instructions.md, 08_control_group_and_system_instructions.md), and what the
issuing group sees afterwards.
-/
namespace Sys2Proof.Machine

/-! ## A lane operation -/

/-- A lane operation: its mask word, `N`, `D`, what it reads and writes, and per active lane the result and the flags. -/
structure LaneWork where
  sp : Sp
  n : Bool
  d : Nat
  use : Use
  val : Issue → Nat → Word
  flg : Issue → Nat → Flags

/-- Every flag that some lane raises (R108). -/
def anyFlags (ls : List Nat) (f : Nat → Flags) : Flags := ls.foldr (fun L k => f L ||| k) 0

/-- What the group sees after a lane operation: `D` written in the active lanes unless `N` = 1, the flags joined to
`FLG`, and a pending access no longer writes what was written since (R108, R129, R135). -/
def LaneWork.view (w : LaneWork) (x : Issue) : View :=
  { x.view with
    lane := fun q L => if w.n = false ∧ q = w.d ∧ x.active.getLsbD L = true then w.val x L else laneReg x.t x.g q L
    fpcr := x.g.arch.fpcr ||| ((anyFlags x.lanes (w.flg x)).setWidth 32 <<< 8)
    txns := if w.n then x.g.txns else x.g.txns.map fun t => t.supersede w.d x.active }

/-- What the newest latch holds after a lane operation: the results, and in the other lanes what `D` holds, or zero with
`N` = 1 (R80). -/
def LaneWork.latch (w : LaneWork) (x : Issue) (L : Nat) : Word :=
  if x.active.getLsbD L then w.val x L else if w.n then 0 else laneReg x.t x.g w.d L

/-- A word given bit by bit. -/
def bitsWord (f : Nat → Bool) : Word := (List.range 32).foldr (fun i w => w ||| ((BitVec.ofBool (f i)).setWidth 32 <<< i)) 0

/-- A field of `d` replaced: `w` bits from `lo` on take the low bits of `a` (Table Lane 4). -/
def putField (d a : Word) (lo w : Nat) : Word := bitsWord fun i => if lo ≤ i ∧ i < lo + w then a.getLsbD (i - lo) else d.getLsbD i
/-- A field of `a`, zero-extended (Table Lane 4). -/
def getField (a : Word) (lo w : Nat) : Word := bitsWord fun i => decide (i < w) && a.getLsbD (lo + i)
/-- A field of `a`, sign-extended (Table Lane 4). -/
def getFieldS (a : Word) (lo w : Nat) : Word := bitsWord fun i => a.getLsbD (lo + min i (w - 1))
/-- The number of positions below 32 before the first where `f` holds. -/
def firstBit (f : Nat → Bool) : Nat := ((List.range 32).takeWhile fun i => !f i).length
/-- A shift count: the low 8 bits of the operand (R138). -/
def lowByte (b : Word) : Nat := b.toNat % 256

/-- The registers a lane operation writes. -/
def destOf (n : Bool) (d : Nat) : List Nat := if n then [] else [d]

/-! ## Integer operations (Tables Lane 1, 2, 4, 5) -/

/-- A V-format integer operation whose result in a lane is `op` of the two operands and the old `D`. -/
def intV (useD : Bool) (f : VForm) (op : Word → Word → Word → Word) : LaneWork where
  sp := f.sp
  n := f.n
  d := f.d.toNat
  use := { sels := [f.a, f.b], lr := if useD then [f.d.toNat] else [], lw := destOf f.n f.d.toNat, twi := true }
  val x L := op (opVal .bits x f.a L) (opVal .bits x f.b L) (laneReg x.t x.g f.d.toNat L)
  flg _ _ := 0

/-- An X-format integer operation whose result in a lane is `op` of the operand and the old `D`. -/
def intX (useD : Bool) (sp : Sp) (n : Bool) (d : BitVec 7) (a : BitVec 8) (op : Word → Word → Word) : LaneWork where
  sp := sp
  n := n
  d := d.toNat
  use := { sels := [a], lr := if useD then [d.toNat] else [], lw := destOf n d.toNat, twi := true }
  val x L := op (opVal .bits x a L) (laneReg x.t x.g d.toNat L)
  flg _ _ := 0

/-- The 32-bit equivalent of a 16-bit form: both `D` and the first operand are the form's `D` (R76). -/
def wide (f : ShortForm) : VForm := ⟨none, false, f.d.setWidth 7, f.d.setWidth 8, shortSel f.imm f.a⟩

def sumWord (a b : Word) : Word := BitVec.ofNat 32 (a.toNat + b.toNat)
def diffWord (a b : Word) : Word := BitVec.ofInt 32 (a.toInt - b.toInt)
def shlBy (a b : Word) : Word := BitVec.ofNat 32 (a.toNat * 2 ^ lowByte b)
def shrBy (a b : Word) : Word := BitVec.ofNat 32 (a.toNat / 2 ^ lowByte b)
def sraBy (a b : Word) : Word := BitVec.ofInt 32 (a.toInt / 2 ^ lowByte b)
def smaller (a b : Word) : Word := if a.toInt ≤ b.toInt then a else b
def larger (a b : Word) : Word := if b.toInt ≤ a.toInt then a else b

/-- The integer lane operations of formats V and X and of the 16-bit forms. -/
def intWork (i : Instr) : Option LaneWork :=
  match i with
  | .iadd f => some (intV false f fun a b _ => sumWord a b)
  | .isub f => some (intV false f fun a b _ => diffWord a b)
  | .imul f => some (intV false f fun a b _ => BitVec.ofInt 32 (a.toInt * b.toInt))
  | .imulh f => some (intV false f fun a b _ => (a.signExtend 64 * b.signExtend 64).extractLsb' 32 32)
  | .imulhu f => some (intV false f fun a b _ => (a.setWidth 64 * b.setWidth 64).extractLsb' 32 32)
  | .imad f => some (intV true f fun a b d => BitVec.ofInt 32 (a.toInt * b.toInt + d.toInt))
  | .imin f => some (intV false f fun a b _ => smaller a b)
  | .imax f => some (intV false f fun a b _ => larger a b)
  | .umin f => some (intV false f fun a b _ => BitVec.ofNat 32 (min a.toNat b.toNat))
  | .umax f => some (intV false f fun a b _ => BitVec.ofNat 32 (max a.toNat b.toNat))
  | .and f => some (intV false f fun a b _ => bitsWord fun i => a.getLsbD i && b.getLsbD i)
  | .or f => some (intV false f fun a b _ => bitsWord fun i => a.getLsbD i || b.getLsbD i)
  | .xor f => some (intV false f fun a b _ => bitsWord fun i => a.getLsbD i != b.getLsbD i)
  | .andn f => some (intV false f fun a b _ => bitsWord fun i => a.getLsbD i && !b.getLsbD i)
  | .shl f => some (intV false f fun a b _ => shlBy a b)
  | .shrl f => some (intV false f fun a b _ => shrBy a b)
  | .shra f => some (intV false f fun a b _ => sraBy a b)
  | .seteq f => some (intV false f fun a b _ => boolWord (a.toNat = b.toNat))
  | .setlt f => some (intV false f fun a b _ => boolWord (a.toInt < b.toInt))
  | .sel f => some (intV true f fun a b d => if d.toNat = 0 then b else a)
  | .iadd16 f => some (intV false (wide f) fun a b _ => sumWord a b)
  | .isub16 f => some (intV false (wide f) fun a b _ => diffWord a b)
  | .and16 f => some (intV false (wide f) fun a b _ => bitsWord fun i => a.getLsbD i && b.getLsbD i)
  | .or16 f => some (intV false (wide f) fun a b _ => bitsWord fun i => a.getLsbD i || b.getLsbD i)
  | .xor16 f => some (intV false (wide f) fun a b _ => bitsWord fun i => a.getLsbD i != b.getLsbD i)
  | .shl16 f => some (intV false (wide f) fun a b _ => shlBy a b)
  | .shrl16 f => some (intV false (wide f) fun a b _ => shrBy a b)
  | .shra16 f => some (intV false (wide f) fun a b _ => sraBy a b)
  | .imax16 f => some (intV false (wide f) fun a b _ => larger a b)
  | .mov f => some (intV false { wide f with a := shortSel f.imm f.a } fun a _ _ => a)
  | .ineg f => some (intX false f.sp f.n f.d f.a fun a _ => BitVec.ofInt 32 (-a.toInt))
  | .iabs f => some (intX false f.sp f.n f.d f.a fun a _ => BitVec.ofNat 32 a.toInt.natAbs)
  | .popc f => some (intX false f.sp f.n f.d f.a fun a _ => BitVec.ofNat 32 ((List.range 32).filter a.getLsbD).length)
  | .clz f => some (intX false f.sp f.n f.d f.a fun a _ => BitVec.ofNat 32 (firstBit fun i => a.getLsbD (31 - i)))
  | .ctz f => some (intX false f.sp f.n f.d f.a fun a _ => BitVec.ofNat 32 (firstBit a.getLsbD))
  | .brev f => some (intX false f.sp f.n f.d f.a fun a _ => bitsWord fun i => a.getLsbD (31 - i))
  | .not f => some (intX false f.sp f.n f.d f.a fun a _ => bitsWord fun i => !a.getLsbD i)
  | .sext f => some (intX false f.sp f.n f.d f.a fun a _ => getFieldS a 0 (8 + 8 * f.m.toNat))
  | .zext f => some (intX false f.sp f.n f.d f.a fun a _ => getField a 0 (8 + 8 * f.m.toNat))
  | .pkb f => some (intX true f.sp f.n f.d f.a fun a d => putField d a (8 * f.m.toNat) 8)
  | .pkh f => some (intX true f.sp f.n f.d f.a fun a d => putField d a (16 * f.m.toNat) 16)
  | .pkn f => some (intX true f.sp f.n f.d f.a fun a d => putField d a (4 * f.m.toNat) 4)
  | .upb f => some (intX false f.sp f.n f.d f.a fun a _ => getField a (8 * f.m.toNat) 8)
  | .upbs f => some (intX false f.sp f.n f.d f.a fun a _ => getFieldS a (8 * f.m.toNat) 8)
  | .uph f => some (intX false f.sp f.n f.d f.a fun a _ => getField a (16 * f.m.toNat) 16)
  | .uphs f => some (intX false f.sp f.n f.d f.a fun a _ => getFieldS a (16 * f.m.toNat) 16)
  | .upn f => some (intX false f.sp f.n f.d f.a fun a _ => getField a (4 * f.m.toNat) 4)
  | .upns f => some (intX false f.sp f.n f.d f.a fun a _ => getFieldS a (4 * f.m.toNat) 4)
  | .setltu f => some (intX true f.sp f.n f.d f.a fun a d => boolWord (d.toNat < a.toNat))
  | .setle f => some (intX true f.sp f.n f.d f.a fun a d => boolWord (d.toInt ≤ a.toInt))
  | .setleu f => some (intX true f.sp f.n f.d f.a fun a d => boolWord (d.toNat ≤ a.toNat))
  | .setne f => some (intX true f.sp f.n f.d f.a fun a d => boolWord (d.toNat ≠ a.toNat))
  | _ => none

/-! ## Float operations and conversions (Tables Lane 1, 3, 5, R107 to R114, R138 to R145) -/

/-- A V-format float operation: `op` of the environment, the two operands and the old `D` gives result and flags. -/
def floatV (rd : Reading) (useD : Bool) (f : VForm) (op : FpEnv → Word → Word → Word → Word × Flags) : LaneWork where
  sp := f.sp
  n := f.n
  d := f.d.toNat
  use := { sels := [f.a, f.b], lr := if useD then [f.d.toNat] else [], lw := destOf f.n f.d.toNat, twi := true }
  val x L := (op (fpEnv x.g) (opVal rd x f.a L) (opVal rd x f.b L) (laneReg x.t x.g f.d.toNat L)).1
  flg x L := (op (fpEnv x.g) (opVal rd x f.a L) (opVal rd x f.b L) (laneReg x.t x.g f.d.toNat L)).2

/-- An X-format float operation or conversion. -/
def floatX (rd : Reading) (useD : Bool) (sp : Sp) (n : Bool) (d : BitVec 7) (a : BitVec 8) (op : FpEnv → Word → Word → Word × Flags) :
    LaneWork where
  sp := sp
  n := n
  d := d.toNat
  use := { sels := [a], lr := if useD then [d.toNat] else [], lw := destOf n d.toNat, twi := true }
  val x L := (op (fpEnv x.g) (opVal rd x a L) (laneReg x.t x.g d.toNat L)).1
  flg x L := (op (fpEnv x.g) (opVal rd x a L) (laneReg x.t x.g d.toNat L)).2

/-- A value rounded once to FP32, under the group's mode and `FZ` (R107, R109), with the flags of its own operation. -/
def oneRound (env : FpEnv) (v : FVal × Flags) : Word × Flags := finishF32 env v

/-- The float lane operations. -/
def floatWork (i : Instr) : Option LaneWork :=
  match i with
  | .fadd f => some (floatV .fp32 false f fun e a b _ => oneRound e (addVal e.rnd (readF32 e a) (readF32 e b)))
  | .fsub f => some (floatV .fp32 false f fun e a b _ => oneRound e (addVal e.rnd (readF32 e a) (negVal (readF32 e b))))
  | .fmul f => some (floatV .fp32 false f fun e a b _ => oneRound e (mulVal (readF32 e a) (readF32 e b)))
  | .ffma f => some (floatV .fp32 true f fun e a b d => oneRound e (fmaVal e.rnd (readF32 e a) (readF32 e b) (readF32 e d)))
  | .fmin f => some (floatV .fp32 false f fun e a b _ => f32Pick false e a b)
  | .fmax f => some (floatV .fp32 false f fun e a b _ => f32Pick true e a b)
  | .fseteq f => some (floatV .fp32 false f fun e a b _ => f32Cmp eqVal e a b)
  | .fsetlt f => some (floatV .fp32 false f fun e a b _ => f32Cmp ltVal e a b)
  | .fsetle f => some (floatV .fp32 false f fun e a b _ => f32Cmp (fun u v => ltVal u v || eqVal u v) e a b)
  | .hadd2 f => some (floatV .bf16 false f fun e a b _ => bfPair e.rnd fun h => addVal e.rnd (bfRead a h) (bfRead b h))
  | .hmul2 f => some (floatV .bf16 false f fun e a b _ => bfPair e.rnd fun h => mulVal (bfRead a h) (bfRead b h))
  | .hfma2 f => some (floatV .bf16 true f fun e a b d => bfPair e.rnd fun h => fmaVal e.rnd (bfRead a h) (bfRead b h) (bfRead d h))
  | .fadd16 f => some (floatV .fp32 false (wide f) fun e a b _ => oneRound e (addVal e.rnd (readF32 e a) (readF32 e b)))
  | .fmul16 f => some (floatV .fp32 false (wide f) fun e a b _ => oneRound e (mulVal (readF32 e a) (readF32 e b)))
  | .fmin16 f => some (floatV .fp32 false (wide f) fun e a b _ => f32Pick false e a b)
  | .fmax16 f => some (floatV .fp32 false (wide f) fun e a b _ => f32Pick true e a b)
  | .hadd216 f => some (floatV .bf16 false (wide f) fun e a b _ => bfPair e.rnd fun h => addVal e.rnd (bfRead a h) (bfRead b h))
  | .hmul216 f => some (floatV .bf16 false (wide f) fun e a b _ => bfPair e.rnd fun h => mulVal (bfRead a h) (bfRead b h))
  | .fneg f => some (floatX .fp32 false f.sp f.n f.d f.a fun e a _ => f32Neg e a)
  | .fabs f => some (floatX .fp32 false f.sp f.n f.d f.a fun e a _ => f32Abs e a)
  | .fsqrt f => some (floatX .fp32 false f.sp f.n f.d f.a fun e a _ => f32Sqrt e a)
  | .frsq f => some (floatX .fp32 false f.sp f.n f.d f.a fun e a _ => f32Rsqrt e a)
  | .frcp f => some (floatX .fp32 false f.sp f.n f.d f.a fun e a _ => f32Recip e a)
  | .fexp2 f => some (floatX .fp32 false f.sp f.n f.d f.a fun e a _ => f32Exp2 e a)
  | .flog2 f => some (floatX .fp32 false f.sp f.n f.d f.a fun e a _ => f32Log2 e a)
  | .fsin f => some (floatX .fp32 false f.sp f.n f.d f.a fun e a _ => f32Sin e a)
  | .fcos f => some (floatX .fp32 false f.sp f.n f.d f.a fun e a _ => f32Cos e a)
  | .ffloor f => some (floatX .fp32 false f.sp f.n f.d f.a fun e a _ => f32Round .rd false e a)
  | .fceil f => some (floatX .fp32 false f.sp f.n f.d f.a fun e a _ => f32Round .ru false e a)
  | .ftrunc f => some (floatX .fp32 false f.sp f.n f.d f.a fun e a _ => f32Round .rz false e a)
  | .frint f => some (floatX .fp32 false f.sp f.n f.d f.a fun e a _ => f32Round e.rnd true e a)
  | .fsetne f => some (floatX .fp32 true f.sp f.n f.d f.a fun e a d => f32Cmp (fun u v => !eqVal u v) e d a)
  | .fsetun f => some (floatX .fp32 true f.sp f.n f.d f.a fun e a d => f32Cmp (fun u v => u.isNan || v.isNan) e d a)
  | .fclass f => some (floatX .fp32 true f.sp f.n f.d f.a fun _ a d => (boolWord (d.getLsbD (classOf a)), 0))
  | .cvt f => some (floatX .bits false f.sp f.n f.d f.a fun e a _ => convert .cvt e f.src.toNat f.dst.toNat a)
  | .cvts f => some (floatX .bits false f.sp f.n f.d f.a fun e a _ => convert .cvts e f.src.toNat f.dst.toNat a)
  | _ => none

/-! ## Quad and group operations (Tables Control 2, 3) -/

/-- A quad or group operation: `op` sees the issue, the operand of every lane, and the lane. -/
def groupX (rd : Reading) (useD : Bool) (sp : Sp) (n : Bool) (d : BitVec 7) (a : BitVec 8)
    (op : Issue → (Nat → Word) → Nat → Word × Flags) : LaneWork where
  sp := sp
  n := n
  d := d.toNat
  use := { sels := [a], lr := if useD then [d.toNat] else [], lw := destOf n d.toNat }
  val x L := (op x (opVal rd x a) L).1
  flg x L := (op x (opVal rd x a) L).2

/-- The value of lane `p` where it is active, else `other`. -/
def fromLane (x : Issue) (get : Nat → Word) (p : Nat) (other : Word) : Word × Flags :=
  (if x.active.getLsbD p then get p else other, 0)

/-- The lanes of the quad of `L`. -/
def quadOf (L : Nat) : List Nat := (List.range 4).map fun i => L / 4 * 4 + i

/-- The integer sum of some lanes, wrapping (R118). -/
def sumOver (ls : List Nat) (get : Nat → Word) : Word := ls.foldr (fun L k => sumWord (get L) k) 0

/-- The quad and group operations. -/
def groupWork (i : Instr) : Option LaneWork :=
  match i with
  | .qswx f => some (groupX .bits false f.sp f.n f.d f.a fun x get L => fromLane x get (L ^^^ 1) 0)
  | .qswy f => some (groupX .bits false f.sp f.n f.d f.a fun x get L => fromLane x get (L ^^^ 2) 0)
  | .qswd f => some (groupX .bits false f.sp f.n f.d f.a fun x get L => fromLane x get (L ^^^ 3) 0)
  | .qbc f => some (groupX .bits false f.sp f.n f.d f.a fun x get L => fromLane x get (L / 4 * 4 + f.m.toNat) 0)
  | .qaddi f => some (groupX .bits false f.sp f.n f.d f.a fun x get L => (sumOver ((quadOf L).filter x.active.getLsbD) get, 0))
  | .qaddf f => some (groupX .fp32 false f.sp f.n f.d f.a fun x get L => reduceF x f32Add 0 x.active.getLsbD get (L / 4 * 4) 2)
  | .qmaxf f => some (groupX .fp32 false f.sp f.n f.d f.a fun x get L =>
      reduceF x (f32Pick true) 0xFF800000#32 x.active.getLsbD get (L / 4 * 4) 2)
  | .shfl f => some (groupX .bits true f.sp f.n f.d f.a fun x get L =>
      fromLane x get ((laneReg x.t x.g f.d.toNat L).toNat % x.g.width) (get L))
  | .shflup f => some (groupX .bits true f.sp f.n f.d f.a fun x get L =>
      let k := (laneReg x.t x.g f.d.toNat L).toNat
      if L < k then (get L, 0) else fromLane x get (L - k) (get L))
  | .shfldn f => some (groupX .bits true f.sp f.n f.d f.a fun x get L =>
      let k := (laneReg x.t x.g f.d.toNat L).toNat
      if x.g.width ≤ L + k then (get L, 0) else fromLane x get (L + k) (get L))
  | .shflx f => some (groupX .bits true f.sp f.n f.d f.a fun x get L =>
      fromLane x get (L ^^^ ((laneReg x.t x.g f.d.toNat L).toNat % x.g.width)) (get L))
  | .vany f => some (groupX .bits false f.sp f.n f.d f.a fun x get _ =>
      (boolWord (decide (∃ k ∈ x.liveLanes, get k ≠ 0)), 0))
  | .vall f => some (groupX .bits false f.sp f.n f.d f.a fun x get _ =>
      (boolWord (decide (∀ k ∈ x.liveLanes, get k ≠ 0)), 0))
  | .ballot f => some (groupX .bits false f.sp f.n f.d f.a fun x get L =>
      (bitsWord fun i =>
        let k := if x.g.width = 64 then 32 * (L % 2) + i else i
        decide (k ∈ x.liveLanes) && get k != 0, 0))
  | .gaddi f => some (groupX .bits false f.sp f.n f.d f.a fun x get _ =>
      (sumOver ((List.range (2 ^ levels x.g.width)).filter x.live.getLsbD) get, 0))
  | .gaddf f => some (groupX .fp32 false f.sp f.n f.d f.a fun x get _ => reduceF x f32Add 0 x.live.getLsbD get 0 (levels x.g.width))
  | .gmaxf f => some (groupX .fp32 false f.sp f.n f.d f.a fun x get _ =>
      reduceF x (f32Pick true) 0xFF800000#32 x.live.getLsbD get 0 (levels x.g.width))
  | _ => none

/-! ## Scalar and address operations (Table Lane 7, R134, R149 to R154) -/

/-- What the group sees after scalar register s`d` takes `w`: no pending access writes it any more (R129). -/
def View.putScalar (v : View) (d : Nat) (w : DWord) : View :=
  { v with
    sreg := fun q => if q = d then w else v.sreg q
    txns := v.txns.map fun t => if t.dest = .scalar d then { t with dead := [(0, BitVec.allOnes 64)] } else t }

/-- What the group sees after address register a`i` takes `a`. -/
def View.putAddr (v : View) (i : Nat) (a : AReg) : View := { v with areg := fun q => if q = i then a else v.areg q }

/-- A scalar operation: its mask word, what it reads and writes, its destination, and the value it writes. -/
structure ScalarWork where
  sp : Sp
  use : Use
  d : Nat
  val : State → Issue → DWord

/-- A scalar function of sA, sB and the old sD. -/
def srWork (useD : Bool) (f : SrForm) (op : DWord → DWord → DWord → DWord) : ScalarWork where
  sp := f.sp
  use := { sr := [f.a.toNat, f.b.toNat] ++ (if useD then [f.d.toNat] else []), sw := [f.d.toNat] }
  d := f.d.toNat
  val s x := op (scalarReg s x f.a.toNat) (scalarReg s x f.b.toNat) (scalarReg s x f.d.toNat)

/-- The scalar operations. -/
def scalarWork (i : Instr) : Option ScalarWork :=
  match i with
  | .sadd f => some (srWork false f fun a b _ => BitVec.ofNat 64 (a.toNat + b.toNat))
  | .ssub f => some (srWork false f fun a b _ => BitVec.ofInt 64 (a.toInt - b.toInt))
  | .smul f => some (srWork false f fun a b _ => BitVec.ofInt 64 (a.toInt * b.toInt))
  | .smulh f => some (srWork false f fun a b _ => (a.signExtend 128 * b.signExtend 128).extractLsb' 64 64)
  | .sand f => some (srWork false f fun a b _ => a &&& b)
  | .sor f => some (srWork false f fun a b _ => a ||| b)
  | .sxor f => some (srWork false f fun a b _ => a ^^^ b)
  | .sandn f => some (srWork false f fun a b _ => a &&& ~~~b)
  | .sshl f => some (srWork false f fun a b _ => BitVec.ofNat 64 (a.toNat * 2 ^ (b.toNat % 256)))
  | .sshrl f => some (srWork false f fun a b _ => BitVec.ofNat 64 (a.toNat / 2 ^ (b.toNat % 256)))
  | .sshra f => some (srWork false f fun a b _ => BitVec.ofInt 64 (a.toInt / 2 ^ (b.toNat % 256)))
  | .smin f => some (srWork false f fun a b _ => if a.toInt ≤ b.toInt then a else b)
  | .smax f => some (srWork false f fun a b _ => if b.toInt ≤ a.toInt then a else b)
  | .sumin f => some (srWork false f fun a b _ => BitVec.ofNat 64 (min a.toNat b.toNat))
  | .sumax f => some (srWork false f fun a b _ => BitVec.ofNat 64 (max a.toNat b.toNat))
  | .sseteq f => some (srWork false f fun a b _ => boolDWord (a.toNat = b.toNat))
  | .ssetlt f => some (srWork false f fun a b _ => boolDWord (a.toInt < b.toInt))
  | .ssetltu f => some (srWork false f fun a b _ => boolDWord (a.toNat < b.toNat))
  | .ssel f => some (srWork true f fun a b d => if d.toNat = 0 then b else a)
  | .smov f => some ⟨f.sp, { sr := [f.a.toNat], sw := [f.d.toNat] }, f.d.toNat, fun s x => scalarReg s x f.a.toNat⟩
  | .saddi f => some ⟨f.sp, { sr := [f.a.toNat], sw := [f.d.toNat] }, f.d.toNat, fun s x =>
      BitVec.ofInt 64 ((scalarReg s x f.a.toNat).toInt + f.imm.toInt)⟩
  | .sldi f => some ⟨f.sp, { sw := [f.p.toNat] }, f.p.toNat, fun _ _ => BitVec.ofInt 64 (f.q ++ f.k : BitVec 13).toInt⟩
  | .sldhi f => some ⟨f.sp, { sr := [f.p.toNat], sw := [f.p.toNat] }, f.p.toNat, fun s x =>
      (scalarReg s x f.p.toNat).extractLsb' 0 51 ++ (f.q ++ f.k : BitVec 13)⟩
  | .aget f => some ⟨f.sp, { sw := [f.p.toNat] }, f.p.toNat, fun _ x =>
      let a := addrReg x.g f.ar.toNat
      BitVec.ofNat 64 (match f.k.toNat with | 0 => a.ptr.toNat | 1 => a.base.toNat | 2 => a.limit.toNat | _ => a.perm.toNat)⟩
  | _ => none

end Sys2Proof.Machine
end

