-- ==== Sys2Proof/Safety/Traps.lean ====
section
/-!
DEFINITION. The terms the statements use for traps, the return from a trap, parking and fences
(08_control_group_and_system_instructions.md R161 to R166; 21_faults_and_recovery.md R329 to R332; 02 R48).
-/
namespace Sys2Proof.Machine

/-- No unconfirmed load, no handler running, and a handler to run: a trap of the issuing split enters the handler
(R165, R226, R332). -/
structure CanTrap (x : Issue) : Prop where
  confirmed : x.g.twi = none
  main : x.sp.handler = false
  idle : x.g.trap.handler = false
  handler : x.t.hva ≠ 0

/-- `t` is `s` after the issuing split has trapped with `i` and entered its handler: the trap registers hold what R331 gives,
the latches are saved and the handler's window is empty, the split stands at the handler's address, and registers,
accesses, memory and every other group are as before (R165). -/
structure TrapEntry (s t : State) (x : Issue) (i : TrapInfo) : Prop where
  only : t = { s with groups := t.groups }
  others : ∀ c k, ¬(c = x.cur.core ∧ k = x.cur.slot) → t.group? c k = s.group? c k
  own : ∃ g', t.group? x.cur.core x.cur.slot = some g' ∧
    g'.trap.handler = true ∧ g'.trap.tcause = i.cause false ∧ g'.trap.tpc = x.cur.pc.setWidth 64 ∧
    g'.trap.taddr = BitVec.ofNat 64 i.addr ∧ g'.trap.tinsn = x.cur.word.setWidth 64 ∧ g'.trap.tmask = x.sp.mask ∧
    g'.trap.savedWindow = x.g.arch.window ∧ g'.arch.window = [] ∧
    g'.arch.blocks = x.g.arch.blocks ∧ g'.arch.sregs = x.g.arch.sregs ∧ g'.arch.aregs = x.g.arch.aregs ∧
    g'.arch.fpcr = x.g.arch.fpcr ∧ g'.arch.srseed = x.g.arch.srseed ∧ g'.arch.gang = x.g.arch.gang ∧
    g'.arch.msc = x.g.arch.msc ∧ g'.arch.helpers = x.g.arch.helpers ∧ g'.txns = x.g.txns ∧
    (∀ L, x.active.getLsbD L = true → g'.arch.standsAt L x.t.hva) ∧
    (∀ p ∈ x.g.arch.splits, p.slot ≠ x.cur.split → ∀ L, p.mask.getLsbD L = true → g'.arch.standsAt L p.pc) ∧
    ∀ p ∈ x.g.arch.parked, ∀ L, p.mask.getLsbD L = true → g'.arch.standsAt L p.pc

/-- `t` is `s` after the issuing split could not go on: it waits at its instruction, the latches of its group are lost if that
leaves the group with no split to go on with, or holds it whole, and kept else (R127), and nothing else has changed. -/
structure Waits (s t : State) (x : Issue) : Prop where
  only : t = { s with groups := t.groups }
  others : ∀ c k, ¬(c = x.cur.core ∧ k = x.cur.slot) → t.group? c k = s.group? c k
  own : ∃ g', t.group? x.cur.core x.cur.slot = some g' ∧ (g'.switches = true → ∀ l ∈ g'.arch.window, l.lost = true) ∧
    (g'.switches = false → g'.arch.window = x.g.arch.window) ∧
    g'.arch.window.map (·.vals) = x.g.arch.window.map (·.vals) ∧ g'.arch.blocks = x.g.arch.blocks ∧
    g'.arch.sregs = x.g.arch.sregs ∧ g'.arch.aregs = x.g.arch.aregs ∧ g'.arch.fpcr = x.g.arch.fpcr ∧
    g'.trap = x.g.trap ∧ g'.txns = x.g.txns ∧
    g'.arch.splits.map (fun p => (p.slot, p.pc, p.mask)) = x.g.arch.splits.map (fun p => (p.slot, p.pc, p.mask)) ∧
    g'.arch.parked = x.g.arch.parked

/-- `t` is `s` after the issuing split could not go on for want of room: it waits at its instruction, which is no group switch,
and nothing else has changed (R127). -/
structure Pauses (s t : State) (x : Issue) : Prop where
  only : t = { s with groups := t.groups }
  others : ∀ c k, ¬(c = x.cur.core ∧ k = x.cur.slot) → t.group? c k = s.group? c k
  own : ∃ g', t.group? x.cur.core x.cur.slot = some g' ∧
    g' = { x.g with arch := { x.g.arch with splits := g'.arch.splits } } ∧
    g'.arch.splits.map (fun p => (p.slot, p.pc, p.mask)) = x.g.arch.splits.map (fun p => (p.slot, p.pc, p.mask))

/-- The group after a return from its handler to `pc`: handler mode has ended, the latches are those saved at entry, the
split stands at `pc`, its registers and accesses are as the handler left them (R166). -/
structure TrapReturn (s t : State) (x : Issue) (pc : VAddr) : Prop where
  only : t = { s with groups := t.groups }
  others : ∀ c k, ¬(c = x.cur.core ∧ k = x.cur.slot) → t.group? c k = s.group? c k
  own : ∃ g', t.group? x.cur.core x.cur.slot = some g' ∧
    g'.trap.handler = false ∧ g'.trap.tcause = x.g.trap.tcause ∧ g'.trap.tpc = x.g.trap.tpc ∧ g'.trap.taddr = x.g.trap.taddr ∧
    g'.arch.window.map (fun l => (l.vals, l.d, l.n)) = x.g.trap.savedWindow.map (fun l => (l.vals, l.d, l.n)) ∧
    g'.arch.blocks = x.g.arch.blocks ∧ g'.arch.sregs = x.g.arch.sregs ∧ g'.arch.aregs = x.g.arch.aregs ∧
    g'.arch.fpcr = x.g.arch.fpcr ∧ g'.arch.srseed = x.g.arch.srseed ∧ g'.arch.gang = x.g.arch.gang ∧
    g'.arch.msc = x.g.arch.msc ∧ g'.arch.helpers = x.g.arch.helpers ∧ g'.txns = x.g.txns ∧
    (∀ p ∈ g'.arch.splits, p.held = false) ∧
    (∀ L, x.active.getLsbD L = true → g'.arch.standsAt L pc) ∧
    (∀ p ∈ x.g.arch.splits, p.slot ≠ x.cur.split → ∀ L, p.mask.getLsbD L = true → g'.arch.standsAt L p.pc) ∧
    ∀ p ∈ x.g.arch.parked, ∀ L, p.mask.getLsbD L = true → g'.arch.standsAt L p.pc

/-- No core holds a partial, and none waits at a home: an eviction at a home then changes no byte (R237). -/
def NoPartials (s : State) : Prop := ∀ c ∈ s.l1, ∀ cop vals slots page, c.kind ≠ .part cop vals slots page

/-- A trap of the issuing split is a group fault: REGPSN, one of the handler itself, or one of a node with no handler
(R332). -/
def GroupFaults (x : Issue) (i : TrapInfo) : Prop :=
  x.g.twi = none ∧ (i.kind = .regpsn ∨ x.sp.handler = true ∨ (x.g.trap.handler = false ∧ x.t.hva = 0))

/-- `t` is `s` after a group fault of a group with accesses under way: it has stopped for good at the instruction, its trap
registers written, `DBL` where its handler ran the split, and nothing else has changed (R332). -/
structure FaultStops (s t : State) (x : Issue) (i : TrapInfo) : Prop where
  only : t = { s with groups := t.groups }
  others : ∀ c k, ¬(c = x.cur.core ∧ k = x.cur.slot) → t.group? c k = s.group? c k
  own : ∃ g', t.group? x.cur.core x.cur.slot = some g' ∧ g'.faulted = true ∧
    g'.trap.tcause = i.cause x.sp.handler ∧ g'.trap.tpc = x.cur.pc.setWidth 64 ∧ g'.trap.taddr = BitVec.ofNat 64 i.addr ∧
    g'.trap.tinsn = x.cur.word.setWidth 64 ∧ g'.trap.tmask = x.sp.mask ∧ g'.trap.handler = x.g.trap.handler ∧
    g'.arch.blocks = x.g.arch.blocks ∧ g'.arch.sregs = x.g.arch.sregs ∧ g'.arch.aregs = x.g.arch.aregs ∧
    g'.arch.fpcr = x.g.arch.fpcr ∧ g'.txns = x.g.txns ∧ g'.arch.parked = x.g.arch.parked ∧
    g'.arch.splits.map (fun p => (p.slot, p.pc, p.mask)) = x.g.arch.splits.map (fun p => (p.slot, p.pc, p.mask))

/-- `t` is `s` after a group fault of a group with nothing under way, which leaves its core at once: its activation will never
complete, its node's `ERR` is set, and a record goes to the supervisor, or `WLOST` is set where none can (R332, R333). -/
structure FaultLeaves (s t : State) (x : Issue) (i : TrapInfo) : Prop where
  gone : t.group? x.cur.core x.cur.slot = none
  others : ∀ c k, ¬(c = x.cur.core ∧ k = x.cur.slot) → t.group? c k = s.group? c k
  exits : ∀ u, t.team? u = s.team? u
  act : ∀ a, s.act? x.t.m x.t.node x.t.act = some a → t.act? x.t.m x.t.node x.t.act = some { a with faulted := true }
  local_ : t.lmem = s.lmem
  lost : NoPartials s → canDeliver s x.t.m (s.queue x.t.m x.t.node).sup (nodeEntry s x.t.m x.t.node).vf = false →
    (t.queue x.t.m x.t.node).wlost = true ∧ (memRead t.mem (nodeAddr s x.t.m x.t.node 42)).getLsbD 7 = true
  told : NoPartials s → canDeliver s x.t.m (s.queue x.t.m x.t.node).sup (nodeEntry s x.t.m x.t.node).vf = true →
    let e := nodeEntry s x.t.m x.t.node
    let q := s.queue x.t.m (s.queue x.t.m x.t.node).sup
    let y := t.queue x.t.m (s.queue x.t.m x.t.node).sup
    y.waiting = q.waiting ++ [⟨x.t.m, x.t.node, recordBytes 3 x.t.node e.part e.vf (i.cause x.sp.handler).toNat x.cur.pc.toNat
      (x.cur.core % 4096 + x.cur.slot * 65536)⟩] ∨ (q.waiting = [] ∧ y.waiting = [] ∧ y.rsv = q.rsv + 1)

/-- `t` is `s` after a trap of a split while the handler runs another: the split is held at its instruction, with its place in the
order of the held traps, and nothing else has changed (R165, R275). -/
structure TrapHeld (s t : State) (x : Issue) : Prop where
  only : t = { s with groups := t.groups }
  others : ∀ c k, ¬(c = x.cur.core ∧ k = x.cur.slot) → t.group? c k = s.group? c k
  own : ∃ g', t.group? x.cur.core x.cur.slot = some g' ∧ g' = { x.g with arch := { x.g.arch with splits := g'.arch.splits } } ∧
    g'.arch.splits.map (fun p => (p.slot, p.pc, p.mask)) = x.g.arch.splits.map (fun p => (p.slot, p.pc, p.mask)) ∧
    (∀ p ∈ g'.arch.splits, p.slot = x.cur.split → p.held = true ∧
      (∀ q ∈ x.g.arch.splits, q.heldAt < p.heldAt) ∧ ∀ q ∈ x.g.arch.parked, q.heldAt < p.heldAt) ∧
    ∀ p ∈ x.g.arch.splits, p.slot ≠ x.cur.split → p ∈ g'.arch.splits

/-- A branch condition as Table Formats 8 and R86 give it, on the signed value. -/
def meets (c : BitVec 3) (a : Word) : Bool :=
  match c.toNat with
  | 0 => a.toInt = 0
  | 1 => a.toInt ≠ 0
  | 2 => a.toInt < 0
  | 3 => 0 ≤ a.toInt
  | 4 => a.toInt ≤ 0
  | _ => 0 < a.toInt

/-- A 64-bit value that names an instruction: even, with bits [63:56] zero (R157). -/
def isTarget (t : DWord) : Bool := t.toNat % 2 = 0 && t.toNat < 2 ^ 56

/-- Every lane of the quad of `L` is in a mask. -/
def quadIn (k : Mask) (L : Nat) : Bool := (quadOf L).all k.getLsbD

end Sys2Proof.Machine
end

