-- ==== Sys2Proof/Safety/Memory.lean ====
section
/-!
DEFINITION. The terms the statements use for memory accesses (10_memory_instructions.md R195 to R208): the checks of an
address, the bytes of local store a lane reaches, and what an access leaves of the group.
-/
namespace Sys2Proof.Machine

/-- The first check by address that an access of `k` at `ea` through `a` fails: 0 PERM, 1 ATTR, 2 BOUNDS, 3 ALIGN
(R197). -/
def firstFault (x : Issue) (a : AReg) (k : Kind) (ea : Nat) : Option Nat :=
  if k.perm a = false then some 0
  else if a.rgn ∉ k.regions then some 1
  else if ea < a.base.toNat ∨ a.limit.toNat < ea + k.size ∨ (1 ≤ a.rgn ∧ a.rgn ≤ 4 ∧ regionSize x.t a.rgn < ea + k.size) ∨
      (a.rgn = 5 ∧ 480 * x.g.width < ea + k.size) then some 2
  else if (k.aligned = true ∨ a.rgn = 7) ∧ ea % k.size ≠ 0 then some 3
  else none

/-- The kinds of the checks of `firstFault`. -/
def faultKind (n : Nat) : TrapKind :=
  match n with
  | 0 => .perm
  | 1 => .attr
  | 2 => .bounds
  | _ => .align

/-- Where byte `ea` of the region of `a` lies in the local memory. -/
def localAt (x : Issue) (a : AReg) (ea : Nat) : Nat := localKey x.g.core (regionBase x.t a.rgn + ea)

/-- `size` bytes at `ea` through `a` lie in local store, within bounds and region (R197), and no acquire of the group is
under way (R202). -/
structure LocalRange (x : Issue) (a : AReg) (size ea : Nat) : Prop where
  region : 1 ≤ a.rgn ∧ a.rgn ≤ 4
  base : a.base.toNat ≤ ea
  limit : ea + size ≤ a.limit.toNat
  inside : ea + size ≤ regionSize x.t a.rgn

/-- Each of the bytes can be read: its line is full (R173), not poisoned (R198), and no pass of the matrix engine owns it
(R295). -/
def LocalReadable (s : State) (key size : Nat) : Prop :=
  ∀ b, b < size → s.lineState ((key + b) / 128) = some .full ∧ (key + b) / 128 ∉ s.lpoison ∧ ownedC s ((key + b) / 4 * 4) = false

/-- Each of the bytes can be written: its line is not pending (R173) and part of no sealed window (R300). -/
def LocalWritable (s : State) (core key size : Nat) : Prop :=
  ∀ b, b < size → s.lineState ((key + b) / 128) ≠ some .pending ∧ sealedLine s core ((key + b) / 128) = false

/-- No acquire of the group is under way (R202). -/
def NoAcquire (x : Issue) : Prop := ∀ T ∈ x.g.txns, T.acquire = none

/-- An ordered access may go: a release needs the earlier accesses of its group complete at its scope (R202). -/
def OrderReady (s : State) (x : Issue) (o : Ordr) (scope : Nat) : Prop := o.releases = true → releaseReady s x.g scope = true

/-- The acquire an ordered access leaves to its return. -/
def acquireOf (o : Ordr) (scope : Nat) : Option Nat := if o.acquires then some scope else none

/-- The state with one identifier given out. -/
def State.numbered (s : State) : State := { s with nextId := s.nextId + 1 }

/-- What the newest latch holds of an access until its values are back: zero where they are to come, and in the other lanes what
`D` holds, or zero with `N` = 1 (R80). -/
def pendingLatch (x : Issue) (n : Bool) (d : Nat) (lanes : List Nat) (L : Nat) : Word :=
  if n ∨ L ∈ lanes then 0 else laneReg x.t x.g d L

/-- What a load leaves: an access under way for its destination that holds what the bytes of each lane were. -/
structure LoadPosted (s t : State) (x : Issue) (dest : Dest) (n : Bool) (acq : Option Nat) (latch : Option (Nat → Word))
    (lanes : List Nat) (size : Nat) (key : Nat → Nat) : Prop where
  posted : ∃ T : Txn, T.id = s.nextId ∧ T.dest = dest ∧ T.noWrite = n ∧ T.out = 0 ∧ T.dead = [] ∧ T.acquire = acq ∧
    (∀ L ∈ lanes, ∃ v : DWord, lookupNat L T.lanes = some v ∧ v.toNat = memReadLE s.lmem (key L) size) ∧
    (∀ L, L ∉ lanes → lookupNat L T.lanes = none) ∧
    After s.numbered t x { x.view with txns := x.g.txns ++ [T] } latch (fun _ => x.cur.next)

/-- No local access of the group has a bank row still to reach (R227). -/
def NoRest (s : State) (x : Issue) : Prop := ∀ r ∈ s.rests, ¬(r.core = x.g.core ∧ r.slot = x.g.slot)

/-- The bank rows of 32 bytes that accesses run on into, each once: (address, size) of each access (R189). -/
def rowsInto (as : List (Nat × Nat)) : List Nat :=
  ((as.filter fun w => 32 < w.1 % 32 + w.2).map fun w => w.1 / 32 + 1).eraseDups

/-- The state after the group's next `n` steps of accesses across bank rows. -/
def rowSteps (x : Issue) : Nat → State → State
  | 0, s => s
  | n + 1, s => rowSteps x n (takeRow s x.g.core x.g.slot)

/-- What a load leaves at once when `n` of the bank rows it reaches are still to be read: an access under way that waits for
them. -/
def LoadBegun (s t : State) (x : Issue) (latch : Option (Nat → Word)) (n : Nat) : Prop :=
  ∃ T : Txn, T.id = s.nextId ∧ T.out = n ∧
    After { s.numbered with rests := t.rests } t x { x.view with txns := x.g.txns ++ [T] } latch (fun _ => x.cur.next)

/-- A load of local store by bank rows (R189, R227): the rows no lane runs on into are read at once, each other one in a step of
its own, after which the load stands as one that has read all its bytes. -/
structure LoadedByRows (s t : State) (x : Issue) (dest : Dest) (n : Bool) (acq : Option Nat) (latch : Option (Nat → Word))
    (lanes : List Nat) (size : Nat) (key : Nat → Nat) : Prop where
  steps : ∃ rs, t.rests = s.rests ++ rs ∧ rs.length = (rowsInto (lanes.map fun L => (key L, size))).length ∧
    LoadBegun s t x latch rs.length ∧ LoadPosted s (rowSteps x rs.length t) x dest n acq latch lanes size key

/-- The byte that a list of stores leaves at `k`, the last one winning: (address, size, data). -/
def storedByte : List (Nat × Nat × Nat) → Nat → Option Byte
  | [], _ => none
  | (a, n, v) :: rest, k => (storedByte rest k).or (if a ≤ k ∧ k < a + n then some (BitVec.ofNat 8 (v / 256 ^ (k - a))) else none)

/-! ## Global memory -/

/-- An access through `a` may go: its lanes' bytes lie in global memory at homes that have not been lost, every page is mapped, and
nothing the group has under way stands before it (R197, R202, R221, R223, R245). -/
structure GlobalClear (s : State) (x : Issue) (a : AReg) (k : Kind) (fd : Found) : Prop where
  region : a.rgn = 0
  mapped : fd.faults = []
  placed : ∀ l ∈ fd.ok, ∀ p ∈ l.pieces, ∃ ga pg, p.place = .glob ga pg ∧ cutOff s x.m (lineMod (ga / 128)) = false
  now : mustWait s x a k fd.ok = false
  copied : ∀ l ∈ fd.ok, copyHolds s x.g.core x.g.slot (l.op.ea % 2 ^ 56) k.size = false

/-- No byte read is poisoned (R198). -/
def NotPoisoned (s : State) (fd : Found) : Prop :=
  ∀ l ∈ fd.ok, ∀ p ∈ l.pieces, ∀ ga pg, p.place = .glob ga pg → ga / 128 ∉ s.poison

/-- No byte written lies in a queue header or a live sync word (R259, R311). -/
def Writable (s : State) (fd : Found) : Prop :=
  ∀ l ∈ fd.ok, ∀ p ∈ l.pieces, ∀ ga pg, p.place = .glob ga pg → s.headerQueue? (ga / 128) = none ∧ hitsSync s ga p.size = false

/-- The scope of an access of the group: `OSC`, capped (R161, R202). -/
def scopeOf (s : State) (x : Issue) : Nat := min (oscOf x.g) (s.vf x.m x.t.vf).cap.toNat

/-- What a releasing access leaves before it goes: the group's partials are delivered at cluster scope or wider (R202, R237). -/
def afterRelease (s : State) (x : Issue) (rel : Bool) : State := if rel then releaseDo s x.g.core x.g.slot (scopeOf s x) else s

/-- Is an access to a line made at its home whatever its policy: an uncached page, a queue's page or header, a line with a live
sync word (R201, R259, R311)? -/
def atHome (s : State) (pg : Page) (line : Nat) : Bool :=
  !pg.ca || pg.ty == 1 || (s.headerQueue? line).isSome || s.syncLine line

/-- The line as a load of the bytes `k` under a policy and lease class reads it in the L1, if a copy there serves it (R201, R302). -/
def copyGives (s : State) (x : Issue) (pol : BitVec 2) (cls line : Nat) (k : BitVec 128) : Option LineData :=
  match (s.l1? x.g.core line).map L1Line.kind with
  | some (.owned _) => some (memLine s.mem line)
  | some .tracked => if pol = 0 then none else some (memLine s.mem line)
  | some (.priv m) => if k &&& ~~~m = 0 then some (memLine s.mem line) else none
  | some (.leased _ ex _ _ _ d) => if pol = 2 ∧ cls ≠ 0 ∧ s.ltick < ex then some d else none
  | _ => none

/-- Does a load of a line hit, and on what? It asks the home behind an earlier request of its group, and for a Lamport timestamp
(R202, R221). -/
def loadHits (s : State) (x : Issue) (o : Ordr) (pol : BitVec 2) (cls : Nat) (pg : Page) (line : Nat) (k : BitVec 128) : Option LineData :=
  if atHome s pg line ∨ o = .sc ∨ earlierReq s x line = true then none else copyGives s x pol cls line k

/-- Does the core hold part of a line privatised, and no reason to go past its L1? -/
def heldPriv (s : State) (x : Issue) (o : Ordr) (line : Nat) : Bool :=
  o != .sc && !earlierReq s x line && match (s.l1? x.g.core line).map L1Line.kind with
    | some (.priv _) => true
    | _ => false

/-- What a load that does not hit asks the home for, by its policy and lease class (R201, Table Memory Instructions 3). -/
def loadAsks (s : State) (x : Issue) (o : Ordr) (pol : BitVec 2) (cls : Nat) (pg : Page) (line : Nat) : ReqKind :=
  if atHome s pg line then .lease 0
  else if heldPriv s x o line then .own false
  else match pol.toNat with
    | 0 => .own false
    | 2 => .lease (if leaseLen s x.m x.t.vf cls = 0 then 0 else cls)
    | _ => .tracked

/-- What a load of global memory leaves: a request for each line that does not hit, in the order of first touch, an access under way
that waits for as many answers and holds the bytes that hit, and nothing else changed; `u` is the state it reads, `pol` the policy
of a page (R200, R201). -/
structure LoadSent (s u t : State) (x : Issue) (dest : Dest) (n : Bool) (o : Ordr) (pol : Page → BitVec 2) (cls : Nat)
    (latch : Option (Nat → Word)) (fd : Found) : Prop where
  sent : ∃ T new, t.reqs = s.reqs ++ new ∧
    (let hits (e : Nat × Page) : Option LineData := loadHits u x o (pol e.2) cls e.2 e.1 (byteMask (accsOn e.1 fd.ok))
     let asked := (linesOf fd.ok).filter fun e => (hits e).isNone
     new.map (fun q => (q.line, q.kind)) = asked.map (fun e => (e.1, loadAsks u x o (pol e.2) cls e.2 e.1)) ∧
     (∀ q ∈ new, q.agent = .group x.g.core x.g.slot ∧ q.core = x.g.core ∧ q.fn = .read ∧ q.txn = some T.id ∧ q.sc = (o == .sc) ∧
       q.accs = accsOn q.line fd.ok) ∧
     T.id = s.nextId ∧ T.out = asked.length ∧ T.dest = dest ∧ T.noWrite = n ∧ T.dead = [] ∧
     T.acquire = (if o.acquires then some (scopeOf s x) else none) ∧
     (∀ l ∈ fd.ok, ∀ p ∈ l.pieces, ∀ ga pg d, ∀ e ∈ linesOf fd.ok, p.place = .glob ga pg → e.1 = ga / 128 → hits e = some d →
       ∃ v, lookupNat l.op.lane T.lanes = some v ∧
         v.toNat / 256 ^ p.off % 256 ^ p.size = d.toNat / 256 ^ (ga % 128) % 256 ^ p.size) ∧
     After { s with reqs := t.reqs, nextId := t.nextId, modules := t.modules, l1 := u.l1, dir := u.dir } t x
       { x.view with txns := x.g.txns ++ [T] } latch (fun _ => x.cur.next))

/-- The copy of a line in the L1 in which a store of the bytes `k` may be performed, and what it is then (R201, R257, R302). -/
def storesIn (s : State) (x : Issue) (line : Nat) (k : BitVec 128) : Option L1Kind :=
  match (s.l1? x.g.core line).map L1Line.kind with
  | some (.owned d) => some (.owned (d ||| k))
  | some (.priv m) => if k &&& ~~~m = 0 then some (.priv m) else none
  | _ => none

/-- What a store asks the home of a line for, and the `WTAG` its bytes get there (Table Memory Instructions 3, R257). -/
def storeAsks (s : State) (o : Ordr) (pol : BitVec 2) (pg : Page) (line : Nat) : ReqKind × BitVec 2 :=
  if atHome s pg line ∨ o = .sc then (.homeWrite false, if pg.ca = false then 1 else if pol.toNat < 2 then 1 else pol)
  else if pol = 0 then (.own true, 0) else (.homeWrite (pol == 3), pol)

/-- What a store to global memory leaves: a request for each line but those, `stay`, whose copy in the L1 takes the bytes at once,
which no access, half update or translation under way keeps from it where it is the one line stored to; `u` is the state once the
store's release is done, `pol` the policy of a page (R200, R201, R202, R250). -/
structure StoreSent (s u t : State) (x : Issue) (o : Ordr) (pol : Page → BitVec 2) (fd : Found) : Prop where
  sent : ∃ (new : List Req) (stay : List (Nat × Page)) (txns : List Txn), t.reqs = s.reqs ++ new ∧
    (let mask (line : Nat) : BitVec 128 := byteMask (accsOn line fd.ok)
     let inL1 (e : Nat × Page) : Prop := atHome u e.2 e.1 = false ∧ o ≠ .sc ∧ pol e.2 = 0 ∧ storesIn u x e.1 (mask e.1) ≠ none
     (∀ e ∈ stay, e ∈ linesOf fd.ok ∧ inL1 e) ∧
     (∀ e, linesOf fd.ok = [e] → inL1 e → earlierReq u x e.1 = false → halfDone u e.1 = false → tableBusy u e.1 u.nextId = false →
       e ∈ stay) ∧
     new.map (fun q => (q.line, q.kind, q.pol)) =
       ((linesOf fd.ok).filter fun e => decide (e ∉ stay)).map (fun e => (e.1, storeAsks u o (pol e.2) e.2 e.1)) ∧
     (∀ q ∈ new, q.agent = .group x.g.core x.g.slot ∧ q.core = x.g.core ∧ q.fn = .write ∧ q.sc = (o == .sc) ∧ q.accs = accsOn q.line fd.ok) ∧
     (o ≠ .sc → txns = x.g.txns ∧ ∀ q ∈ new, q.txn = none) ∧
     (o = .sc → ∃ T : Txn, txns = x.g.txns ++ [T] ∧ T.id = s.nextId ∧ T.out = new.length ∧ T.noWrite = true ∧
       T.acquire = some (scopeOf s x) ∧ ∀ q ∈ new, q.txn = some T.id) ∧
     (∀ e ∈ stay, (t.l1? x.g.core e.1).map L1Line.kind = storesIn u x e.1 (mask e.1)) ∧
     (∀ c line, (∀ e ∈ stay, e.1 ≠ line) → t.l1? c line = u.l1? c line) ∧
     (∀ a, (∀ e ∈ stay, e.1 ≠ a / 128) → memRead t.mem a = memRead s.mem a) ∧
     (∀ e ∈ stay, hwLine s e.1 = false → ∀ a, a / 128 = e.1 →
       memRead t.mem a = (storedByte ((accsOn e.1 fd.ok).map fun c => (c.ga, c.size, c.data.toNat)) a).getD (memRead s.mem a)) ∧
     (∀ e ∈ stay, mask e.1 = BitVec.allOnes 128 → e.1 ∉ t.poison) ∧ (stay = [] → t.mem = s.mem ∧ t.poison = s.poison) ∧
     After { s with reqs := t.reqs, nextId := t.nextId, modules := t.modules, l1 := t.l1, dir := u.dir, mem := t.mem, poison := t.poison } t x
       { x.view with txns := txns } none (fun _ => x.cur.next))

/-- The partial a core holds of a line, which an update under `C` = 1 may join at once: its elements and the groups whose updates it
holds (R207, R237). -/
def joinsPart (s : State) (x : Issue) (fn : Nat) (pg : Page) (line : Nat) : Option (List (Nat × DWord) × List Nat) :=
  if atHome s pg line ∨ earlierReq s x line = true ∨ halfDone s line = true then none
  else match (s.l1? x.g.core line).map L1Line.kind with
    | some (.part cop vals slots _) => if cop = fnCop fn then some (vals, slots) else none
    | _ => none

/-- What an atomic on global memory leaves: a request to the home of each line, but for `C` = 1 of one whose partial in the L1 takes
the updates; `u` is the state once its release is done (R205 to R207). -/
structure AtomSent (s u t : State) (x : Issue) (fn : Nat) (f : AtomForm) (fd : Found) : Prop where
  sent : ∃ (new : List Req) (txns : List Txn), t.reqs = s.reqs ++ new ∧
    (let folds (e : Nat × Page) : Option (List (Nat × DWord) × List Nat) :=
       if f.c = true ∧ f.ord.toNat < 2 then joinsPart u x fn e.2 e.1 else none
     let acq : Prop := if f.c then 2 ≤ f.ord.toNat else 1 ≤ f.ord.toNat
     new.map (fun q => (q.line, q.kind)) = ((linesOf fd.ok).filter fun e => (folds e).isNone).map (fun e =>
       (e.1, if f.c = true ∧ f.ord.toNat < 2 ∧ atHome u e.2 e.1 = false then .commut else .homeWrite false)) ∧
     (∀ q ∈ new, q.agent = .group x.g.core x.g.slot ∧ q.core = x.g.core ∧ q.fn = .atomic fn ∧ q.pol = 1 ∧
       q.sc = decide (2 ≤ f.ord.toNat ∧ q.kind ≠ .commut) ∧ q.accs = accsOn q.line fd.ok ∧
       (q.txn = if f.c = false ∨ 2 ≤ f.ord.toNat then some s.nextId else none)) ∧
     (f.c = true → f.ord.toNat < 2 → txns = x.g.txns) ∧
     (f.c = false ∨ 2 ≤ f.ord.toNat → ∃ T : Txn, txns = x.g.txns ++ [T] ∧ T.id = s.nextId ∧ T.out = new.length ∧
       (T.acquire = some (scopeOf s x) ↔ acq) ∧ (¬acq → T.acquire = none) ∧
       (f.c = false → T.dest = .lanes f.d.toNat (if fn = 1 then 2 else 1) ∧ T.noWrite = f.n) ∧ (f.c = true → T.noWrite = true)) ∧
     (∀ e ∈ linesOf fd.ok, ∀ vals slots, folds e = some (vals, slots) → (t.l1? x.g.core e.1).map L1Line.kind =
       some (.part (fnCop fn) ((accsOn e.1 fd.ok).foldl (partAdd fn) vals)
         (if slots.contains x.g.slot then slots else slots ++ [x.g.slot]) ((originOf s x.t.tctx e.2).domain, e.2.pol))) ∧
     (∀ c line, (∀ e ∈ linesOf fd.ok, folds e ≠ none → e.1 ≠ line) → t.l1? c line = u.l1? c line) ∧
     After { s with reqs := t.reqs, nextId := t.nextId, modules := t.modules, l1 := t.l1, dir := u.dir } t x
       { x.view with txns := txns } (if f.c then none else some (pendingLatch x f.n f.d.toNat x.liveLanes)) (fun _ => x.cur.next))

/-- What a store to local store leaves: the stored bytes, in the order of the list; an empty line it touches becomes full,
its other bytes zero (R173); a poisoned line stored to in full is good again (R336); every other byte and every other line as
before. -/
structure LocalStored (s t : State) (x : Issue) (ws : List (Nat × Nat × Nat)) : Prop where
  bytes : ∀ k, memRead t.lmem k = match storedByte ws k with
    | some b => b
    | none => if (∃ w ∈ ws, ∃ b, b < w.2.1 ∧ (w.1 + b) / 128 = k / 128) ∧ s.lineState (k / 128) ≠ some .full then 0 else memRead s.lmem k
  lines : ∀ l, t.lineState l = if ∃ w ∈ ws, ∃ b, b < w.2.1 ∧ (w.1 + b) / 128 = l then some .full else s.lineState l
  healed : ∀ l, l ∈ t.lpoison ↔ l ∈ s.lpoison ∧ ∃ b, b < 128 ∧ storedByte ws (128 * l + b) = none
  rest : ∃ b, b = { s with lmem := t.lmem, lines := t.lines, lpoison := t.lpoison, engines := t.engines } ∧
    After b t x x.view none (fun _ => x.cur.next)
  engines : (∀ e ∈ s.engines, e.running = none ∧ ∀ m ∈ e.entries, m.posted = []) → t.engines = s.engines

/-- A store cut where a bank row ends: (address, size, data). -/
def rowCut (w : Nat × Nat × Nat) : List (Nat × Nat × Nat) :=
  let n := 32 - w.1 % 32
  if w.2.1 ≤ n then [w] else [(w.1, n, w.2.2 % 2 ^ (8 * n)), (w.1 + n, w.2.1 - n, w.2.2 / 2 ^ (8 * n))]

/-- What stores leave at once: their bytes outside the rows one of them runs on into. -/
def firstRows (ws : List (Nat × Nat × Nat)) : List (Nat × Nat × Nat) :=
  (ws.flatMap rowCut).filter fun w => decide (w.1 / 32 ∉ rowsInto (ws.map fun w => (w.1, w.2.1)))

/-- A store to local store by bank rows (R189, R227): the rows no lane runs on into are written at once, each other one in a step
of its own, after which every byte is stored. -/
structure StoredByRows (s t : State) (x : Issue) (ws : List (Nat × Nat × Nat)) : Prop where
  first : LocalStored { s with rests := t.rests } t x (firstRows ws)
  steps : ∃ rs, t.rests = s.rests ++ rs ∧ rs.length = (rowsInto (ws.map fun w => (w.1, w.2.1))).length ∧
    LocalStored s (rowSteps x rs.length t) x ws

/-- Memory after atomic function `fn` of some lanes in order: (address, operand, second operand). -/
def atomsDone (fn : Nat) (mem : List Host.Cell) (ops : List (Nat × Nat × Nat)) : List Host.Cell :=
  ops.foldl (fun m o => memWriteLE m o.1 (atomSize fn) (atomNew fn (memReadLE m o.1 (atomSize fn)) o.2.1 o.2.2)) mem

/-- The atomic instructions with their functions of Table Memory Instructions 4. -/
def atomFn (i : Instr) : Option (Nat × AtomForm) :=
  match i with
  | .atomAdd f => some (0, f)
  | .atomAddd f => some (1, f)
  | .atomAnd f => some (2, f)
  | .atomOr f => some (3, f)
  | .atomXor f => some (4, f)
  | .atomMin f => some (5, f)
  | .atomMax f => some (6, f)
  | .atomUmin f => some (7, f)
  | .atomUmax f => some (8, f)
  | .atomXchg f => some (9, f)
  | .atomCas f => some (10, f)
  | .atomAddf f => some (11, f)
  | .atomAdd2h f => some (12, f)
  | .atomMaxf f => some (13, f)
  | .atomMinf f => some (14, f)
  | .atomIncw f => some (15, f)
  | _ => none

/-- The lane loads with their sizes. -/
def loadSize (i : Instr) : Option (Nat × MForm) :=
  match i with
  | .ldb f => some (1, f)
  | .ldh f => some (2, f)
  | .ldw f => some (4, f)
  | .ldd f => some (8, f)
  | _ => none

/-- The lane stores with their sizes. -/
def storeSize (i : Instr) : Option (Nat × MForm) :=
  match i with
  | .stb f => some (1, f)
  | .sth f => some (2, f)
  | .stw f => some (4, f)
  | .std f => some (8, f)
  | _ => none

/-- The registers of a lane access. -/
def pairOf (d : BitVec 7) (size : Nat) : List Nat := if size = 8 then [d.toNat, d.toNat + 1] else [d.toNat]

/-- The unsigned value a lane stores: the low `size` bytes of `D`, with `D` + 1 above it for 8. -/
def storeValue (x : Issue) (d : BitVec 7) (size L : Nat) : Nat :=
  if size = 8 then (laneReg x.t x.g d.toNat L).toNat + 2 ^ 32 * (laneReg x.t x.g (d.toNat + 1) L).toNat
  else (laneReg x.t x.g d.toNat L).toNat % 2 ^ (8 * size)

end Sys2Proof.Machine
end

