-- ==== Sys2Proof/Safety/Sketch.lean ====
section
/-!
DEFINITION. The terms the statements use for sketch instructions (09_memories.md R190 to R193; 10 R210 to R213).
-/
namespace Sys2Proof.Machine

/-- A sketch instruction may go: its lanes pass the checks of R197 on mapped pages, each names a region with a valid
descriptor whose type admits the instruction, no home has been lost, and nothing has to be waited for. -/
structure SketchClear (s : State) (x : Issue) (f : SkForm) (k : Kind) (spans : SkSpans) (lanes : List Nat) (admits : SkDesc → Bool)
    (fd : Found) : Prop where
  found : checkLanes s x (addrReg x.g f.ar.toNat) k (skOps x f lanes) = .ok fd
  mapped : fd.faults = []
  every : fd.ok.map (·.op.lane) = lanes
  named : ∀ l ∈ fd.ok, ∃ d base, laneSketch s x l = some (d, base) ∧ admits d = true
  homes : ∀ l ∈ fd.ok, lostHome s x l = none
  sound : ∀ l ∈ fd.ok, sketchCheck s x k.write spans l = none
  now : mustWait s x (addrReg x.g f.ar.toNat) k fd.ok = false ∧ sketchWaits s x k.write spans fd.ok = false

/-- What inserting or deleting the keys of some lanes leaves, lane by lane: key D+1:D, weight D+2 (R212). -/
def sketchUpdates (del : Bool) (s : State) (x : Issue) (ls : List LaneAt) : State :=
  ls.foldl (fun s l => match laneSketch s x l with
    | some (d, base) => if del then skDelete s d base l.op.data l.op.extra.toNat
        else skInsert s d base l.op.data l.op.extra.toNat (l.op.data.setWidth 32)
    | none => s) s

/-- The state an answer to a lane is formed from: the copies and partials of the lines it reads are back (R191). -/
def settled (s : State) (x : Issue) (l : LaneAt) : State :=
  match laneSketch s x l with
  | some (d, base) => (d.queryLines base l.op.data).foldl (fun s ln => quiesce s d.origin ln false) s
  | none => s

/-- What an operation on the distinct regions that the lanes name leaves, in ascending order of the first lane that names
each (R213). -/
def regionsActed (o : RegionOp) (s : State) (x : Issue) (rs : List (SkDesc × Nat × LaneAt)) : State :=
  rs.foldl (fun s r => (o.act s x r.1 r.2.1 r.2.2).1) s

/-- What the lanes that name a region receive: its parameter word, bits 31 to 23 of it zero, below its status, as they stand
once the region has been acted on (R211, R213). -/
def regionAnswer (o : RegionOp) (s : State) (x : Issue) (r : SkDesc × Nat × LaneAt) : DWord :=
  let a := o.act s x r.1 r.2.1 r.2.2
  let w := memReadLE a.1.mem r.1.at_ 8
  skPair (w % 2 ^ 23) (skStatus r.1 w a.2)

/-- The operations on whole regions: what they read and their effect on a region. -/
structure WholeWork where
  f : SkForm
  reads : Nat
  op : RegionOp

/-- `skmerge`, `skfold`, `skclear` and `skinfo`. -/
def wholeWork (i : Instr) : Option WholeWork :=
  match i with
  | .skmerge f => some ⟨f, 3, mergeOp⟩
  | .skfold f => some ⟨f, 0, foldOp⟩
  | .skclear f => some ⟨f, 0, clearOp⟩
  | .skinfo f => some ⟨f, 0, infoOp⟩
  | _ => none

end Sys2Proof.Machine
end

