-- ==== Sys2Proof/Safety/Far.lean ====
section
/-!
DEFINITION. The terms the statements use for remote instructions (10_memory_instructions.md R215 to R219).
-/
namespace Sys2Proof.Machine

/-- The remote instructions that return nothing: what each does at the target and how many registers of data it takes. -/
def putWork (i : Instr) : Option (RemOp × Nat × RmForm) :=
  match i with
  | .rstw f => some (⟨.write, 4, false, false⟩, 1, f)
  | .rstd f => some (⟨.write, 8, false, false⟩, 2, f)
  | .raddi f => some (⟨.atomic 0, 4, false, false⟩, 1, f)
  | .raddf f => some (⟨.atomic 11, 4, false, false⟩, 1, f)
  | .rmaxf f => some (⟨.atomic 13, 4, false, false⟩, 1, f)
  | _ => none

/-- The remote instructions that return a value of one peer: what each does, how many registers it writes and how many
registers of data it takes. -/
def getWork (i : Instr) : Option (RemOp × Nat × Nat × RmForm) :=
  match i with
  | .rldw f => some (⟨.read, 4, true, false⟩, 1, 0, f)
  | .rldd f => some (⟨.read, 8, true, false⟩, 2, 0, f)
  | .rcas f => some (⟨.atomic 10, 4, true, true⟩, 1, 2, f)
  | .rxchg f => some (⟨.atomic 9, 4, true, true⟩, 1, 1, f)
  | _ => none

/-- The operands a remote instruction reads and writes. -/
def remoteUse (f : RmForm) (data regs : Nat) : Use where
  lr := [2 * f.k.toNat, 2 * f.k.toNat + 1] ++ (List.range data).map fun j => f.d.toNat + j
  lw := if f.n then [] else (List.range regs).map fun j => f.d.toNat + j

/-- A remote instruction may go: every lane that is not a helper passes the checks of its address, names a module of the
fabric that has not been lost, and finds its bytes in the memory of that module, which it may write; nothing has to be
waited for, and the streams have room (R197, R216, R274). -/
structure RemoteClear (s : State) (x : Issue) (f : RmForm) (o : RemOp) (ls : List RLane) (fd : RFound) : Prop where
  address : ∀ e ∈ ls, remAddrCheck x (addrReg x.g f.ar.toNat) (remKind o) o.fn e.1.ea = none
  peers : ∀ L ∈ x.liveLanes, peerWord x f L < 16 ∧ s.inFabric (peerWord x f L) = true
  found : remoteFind s x (remKind o) ls = .ok fd
  mapped : fd.faults = []
  placed : ∀ l ∈ fd.ok, l.1.pieces ≠ [] ∧ ∀ p ∈ l.1.pieces, ∃ ga pg, p.place = .glob ga pg
  writable : remoteWriteCheck s x (remKind o) o.fn fd.ok = none
  paths : ∀ l ∈ fd.ok, cutOff s x.m l.2 = false
  now : remoteWaits s x (remKind o) fd.ok = false ∧ streamFull s x fd.ok = false

/-- The packets some lanes send, without the number and the epoch that the stream gives them. -/
def bare (p : Packet) : Packet := { p with seq := 0, epo := 0 }

/-- The streams of a core after it has sent `new p` to each module `p`: the packets follow those in flight and in the
retransmission buffer, in order, under the stream's epoch (R274). -/
def Sent (s t : State) (core : Nat) (new : Nat → List Packet) : Prop :=
  (∀ p, ∃ ps, ps.map bare = new p ∧ (∀ q ∈ ps, q.epo = (s.stream core p).epo) ∧
    (t.stream core p).flight = (s.stream core p).flight ++ ps ∧ (t.stream core p).buffer = (s.stream core p).buffer ++ ps) ∧
  ∀ c p, c ≠ core → t.stream c p = s.stream c p

/-- What a group sees once the values an access has brought to some lanes, keyed by lane, have been written to `regs`
registers from `D` on, where no later instruction has written them (R129). -/
def written (x : Issue) (n : Bool) (d regs : Nat) (T : Txn) (got : List (Nat × DWord)) (txns : List Txn) : View :=
  { x.view with
    lane := fun q L => match lookupNat L got with
      | some v => if n = false ∧ d ≤ q ∧ q < d + regs ∧ T.dead.all (fun k => k.1 != q - d || !k.2.getLsbD L) = true
          then v.extractLsb' (32 * (q - d)) 32 else laneReg x.t x.g q L
      | none => laneReg x.t x.g q L
    txns := txns }

/-- The bits of an FP32 or BF16 pair sum of a member's word. -/
def memberSum (half : Bool) (a b : Word) : Word := if half then (bfAdd2 .rne a b).1 else (f32Add ⟨.rne, false⟩ a b).1

/-- A BF16 half with a NaN made canonical (Table Arithmetic 4). -/
def quietHalf (h : BitVec 16) : BitVec 16 := if h.extractLsb' 7 8 = 0xFF ∧ h.extractLsb' 0 7 ≠ 0 then 0x7FC0 else h

/-- An FP32 or BF16 pair word with every NaN in it made canonical (R102). -/
def quietWord (half : Bool) (w : Word) : Word :=
  if half then quietHalf (w.extractLsb' 16 16) ++ quietHalf (w.extractLsb' 0 16)
  else if w.extractLsb' 23 8 = 0xFF ∧ w.extractLsb' 0 23 ≠ 0 then 0x7FC00000 else w

/-- The sum over the members of a lane's mask in ascending module number, the first member's word first, where a NaN of a lone
member is canonical too; +0 for an empty mask (R102, R217). -/
def memberFold (half : Bool) (word : Nat → Word) (members : List Nat) : Word :=
  match members with
  | [] => 0
  | m :: ms => ms.foldl (fun a n => memberSum half a (word n)) (quietWord half (word m))

/-! ## What a returning form sends (R215, R216) -/

/-- The operands of a returning form are legal, and it executes normally; with passes behind it, it reads no register again
(R94, R153, R216). -/
def ReadyPass (s : State) (x : Issue) (f : RmForm) (data regs : Nat) (r : State) : Prop :=
  (remoteUse f data regs).illegal = false ∧
  Ready s x f.sp (if x.sp.rem.isSome then { lw := (remoteUse f data regs).lw } else remoteUse f data regs) r

/-- The lowest peer of some lanes, whose pass is next (R216). -/
def lowestPeer (ls : List RLane) : Nat := ls.foldl (fun m e => min m e.2) 16

/-- The lanes found at the lowest peer. -/
def nextOnes (fd : RFound) (ls : List RLane) : List (LaneAt × Nat) := fd.ok.filter fun l => decide (l.2 = lowestPeer ls)

/-- The pass to the lowest peer among `ls` may go: every lane left finds its bytes in the memory of its module, good and such that
the form may write them; that peer has not been lost; nothing has to be waited for and its stream has room (R197, R216, R274). -/
structure PassClear (s : State) (x : Issue) (o : RemOp) (ls : List RLane) (fd : RFound) : Prop where
  found : remoteFind s x (remKind o) ls = .ok fd
  mapped : fd.faults = []
  placed : ∀ l ∈ fd.ok, l.1.pieces ≠ [] ∧ ∀ p ∈ l.1.pieces, ∃ ga pg, p.place = .glob ga pg
  writable : remoteWriteCheck s x (remKind o) o.fn fd.ok = none
  sound : ∀ l ∈ fd.ok, poisonCheck s o.fn.writes l.1 = none
  path : ∀ e ∈ ls, e.2 = lowestPeer ls → cutOff s x.m e.2 = false
  now : remoteWaits s x (remKind o) (nextOnes fd ls) = false ∧ streamFull s x (nextOnes fd ls) = false

/-- A reduction may go: as `PassClear`, of every member at once (R216, R217). -/
structure FetchClear (s : State) (x : Issue) (o : RemOp) (ls : List RLane) (fd : RFound) : Prop where
  found : remoteFind s x (remKind o) ls = .ok fd
  mapped : fd.faults = []
  placed : ∀ l ∈ fd.ok, l.1.pieces ≠ [] ∧ ∀ p ∈ l.1.pieces, ∃ ga pg, p.place = .glob ga pg
  sound : ∀ l ∈ fd.ok, poisonCheck s false l.1 = none
  paths : ∀ e ∈ ls, cutOff s x.m e.2 = false
  now : remoteWaits s x (remKind o) fd.ok = false ∧ streamFull s x fd.ok = false

/-- `t` is `u` after the issuing split has sent the packets of a pass, `sent p` to each module `p`, and waits for the replies of
the access `T` with the lanes it issued with; a `cinc` holds its whole group. Latches are lost as in `Waits`; nothing else has
changed (R127, R153, R216, R274, R314). -/
structure PassSent (u t : State) (x : Issue) (T : Txn) (lanes : List RemLane) (holds : Bool) (sent : Nat → List Packet) : Prop where
  packets : Sent u t x.g.core sent
  only : t = { u with groups := t.groups, streams := t.streams, nextId := u.nextId + 1, freeCount := t.freeCount }
  others : ∀ c k, ¬(c = x.cur.core ∧ k = x.cur.slot) → t.group? c k = u.group? c k
  own : ∃ g', t.group? x.cur.core x.cur.slot = some g' ∧
    g'.txns = (x.g.txns.filter fun y => decide (x.sp.passTxn ≠ some y.id)) ++ [T] ∧
    (∀ p ∈ g'.arch.splits, p.slot = x.cur.split → p.passTxn = some T.id ∧ p.rem = some lanes ∧ (holds = true → p.holds = true)) ∧
    g'.arch.splits.map (·.got) = x.g.arch.splits.map (·.got) ∧
    (g'.switches = true → ∀ l ∈ g'.arch.window, l.lost = true) ∧ (g'.switches = false → g'.arch.window = x.g.arch.window) ∧
    g'.arch.window.map (·.vals) = x.g.arch.window.map (·.vals) ∧ g'.arch.blocks = x.g.arch.blocks ∧
    g'.arch.sregs = x.g.arch.sregs ∧ g'.arch.aregs = x.g.arch.aregs ∧ g'.arch.fpcr = x.g.arch.fpcr ∧ g'.trap = x.g.trap ∧
    g'.arch.splits.map (fun p => (p.slot, p.pc, p.mask)) = x.g.arch.splits.map (fun p => (p.slot, p.pc, p.mask)) ∧
    g'.arch.parked = x.g.arch.parked

/-- What an ordered form leaves before its first pass: its release at system scope, capped (R161, R219, R237). -/
def releasedRemote (r : State) (x : Issue) : State :=
  releaseDo (capScope r x 5).2 x.g.core x.g.slot (capScope r x 5).1

/-- The word a remote `cinc` names passes the checks of R314 at its target `w.m`, whose home has not been lost and whose stream has
room. -/
structure RemoteWord (s : State) (x : Issue) (f : SyncForm) (w : SyncAt) : Prop where
  zeros : (scalarReg s x f.p.toNat).extractLsb' 52 12 = 0
  permits : (addrReg x.g f.ar.toNat).atm = true ∧ (addrReg x.g f.ar.toNat).rmt = true
  region : (addrReg x.g f.ar.toNat).rgn = 0
  address : w.va = ((addrReg x.g f.ar.toNat).ptr.setWidth 64 + ((scalarReg s x f.p.toNat).extractLsb' 0 48).signExtend 64).toNat
  bounds : (addrReg x.g f.ar.toNat).base.toNat ≤ w.va ∧ w.va + 8 ≤ (addrReg x.g f.ar.toNat).limit.toNat
  aligned : w.va % 8 = 0
  peer : w.m = ((scalarReg s x f.p.toNat).extractLsb' 48 4).toNat ∧ s.inFabric w.m = true
  mapped : translate s { x.t.tctx with m := w.m } .write (w.va % 2 ^ 56) = .ok w.page
  plain : w.page.ty = 0
  there : w.page.phys = .dram w.ga
  path : cutOff s x.m w.m = false
  room : streamRoom s x.g.core w.m ≠ 0

end Sys2Proof.Machine
end

