-- ==== Sys2Proof/Safety/Units.lean ====
section
/-!
DEFINITION. The terms the statements use for the matrix engine, copies, windows, queues, sync words and graphs
(15_queues.md to 18_counters.md).
-/
namespace Sys2Proof.Machine

/-! ## Matrix engine -/

/-- Nothing of the engines has changed but entry `i` of cluster `cl`, and that cluster's posting counter (R276). -/
structure EngineKeeps (s t : State) (cl i : Nat) : Prop where
  others : ∀ c, c ≠ cl → t.engine c = s.engine c
  entries : ∀ j, j ≠ i → (t.engine cl).entry j = (s.engine cl).entry j
  latch : (t.engine cl).tile = (s.engine cl).tile ∧ (t.engine cl).lown = (s.engine cl).lown
  running : (t.engine cl).running = (s.engine cl).running

/-- The bit of member `k` of a gang. -/
def gangBit (k : Nat) : BitVec 6 := 1#6 <<< k

/-- Every member of a gang is in a mask. -/
def allMembers (v : DWord) (arr : BitVec 6) : Bool := (List.range (gangMembers v).length).all fun k => arr.getLsbD k

/-- Every member of the gang of entry `e` is a group of the band of team `t` that has not exited (R287, R296). -/
def MembersHere (s : State) (e : MEntry) (t : Team) : Prop :=
  ∀ m ∈ gangMembers e.gang, ∃ h ∈ s.groups, h.num = m.2 ∧ ∃ u, s.team? h.team = some u ∧ u.m = t.m ∧ u.node = t.node ∧
    u.act = t.act ∧ u.band = t.band ∧ u.num = m.1

/-- `mwl`, `mpass` and `mdrain` with the number of their rendezvous (R287). -/
def matrixKind (i : Instr) : Option (Nat × EpqForm) :=
  match i with
  | .mwl f => some (0, f)
  | .mpass f => some (1, f)
  | .mdrain f => some (2, f)
  | _ => none

/-- What an operation of member `mem` under a descriptor posts, if the descriptor, the entry and the group's stream format
allow it (R277 to R279, R281, R286, R292): the operation, the team its window lies in, the weight descriptor of the entry
from then on, and the window it touches. -/
def matrixPost (s : State) (x : Issue) (kind mem : Nat) (e : MEntry) (d : DWord) : Option (MOp × Nat × DWord × List (Nat × Nat)) :=
  match kind with
  | 0 =>
    match bandTeamNo s x.t (wTeam d) with
    | none => none
    | some u => if d.extractLsb' 40 24 = 0 ∧ wBad d = false ∧ inRegion u 1 (wOff d) (wLines d) = true then
        some (.load d, u.uid, d, if mem = 0 then [(regionKey u 1 (wOff d), wLines d)] else []) else none
  | 1 => match bandTeamNo s x.t (pTeam d), pairKmax (wFmt e.wd) (mscFmt x.g.arch.msc) with
    | some u, some km =>
      let lines := aLines (mscFmt x.g.arch.msc) (wK e.wd) (pM d) (mscMode x.g.arch.msc = 2)
      if d.extractLsb' 41 23 = 0 ∧ e.loads = true ∧ wK e.wd ≤ km ∧
          (wFloat (wFmt e.wd) = true ∨ (wMx e.wd = false ∧ mscMode x.g.arch.msc = 0)) ∧
          inRegion u 2 (pAoff d) lines = true ∧ inRegion x.t 3 (pCoff d) (cLines (pM d) (wN e.wd)) = true then
        some (.pass d x.g.arch.msc e.wd, u.uid, e.wd, [(regionKey u 2 (pAoff d), lines)]) else none
    | _, _ => none
  | _ => if d.extractLsb' 52 12 = 0 ∧ drainFmt d = true ∧ inRegion x.t 3 (dCoff d) (cLines (dM d) (dN d)) = true ∧
      inRegion x.t 2 (dDoff d) (aLines (dFmt d) (dN d) (dM d) (dMx d)) = true then some (.drain d, x.t.uid, e.wd, []) else none

/-- The operation as it stands posted: a drain names where it lands, and every operation the operand lines that it may read as
they were before lane stores the group has not ordered by `mrdy` (R174, R248). -/
def postedTask (s : State) (x : Issue) (mem named : Nat) (op : MOp) : MTask :=
  let task : MTask := {
    core := x.g.core, slot := x.g.slot, mem := mem, team := x.t.uid, named := named, id := s.nextId, op := op
    dst := match op with | .drain d => some (x.g.core, regionBase x.t 2 / 128 + dDoff d, x.t.gen) | _ => none }
  { task with old := x.g.unready.filter fun o => (readLines s task).contains o.1 }

/-! ## Memory at a home -/

/-- The 8-byte word at `ga` is `v` and every other byte is as before; a word that lies on fields that only the hardware writes
leaves those (R4; log 96). -/
def WordSet (s t : State) (ga v : Nat) : Prop :=
  (∀ a, a < ga ∨ ga + 8 ≤ a → memRead t.mem a = memRead s.mem a) ∧
  (hwLine s (ga / 128) = false → ∀ a, ga ≤ a → a < ga + 8 → memRead t.mem a = BitVec.ofNat 8 (v / 2 ^ (8 * (a - ga)))) ∧
  (hwLine s (ga / 128) = true → t.mem = keepHardware s (ga / 128) s.mem (memWriteBytes s.mem ga (leBytes 8 v))) ∧
  t.lmem = s.lmem

/-! ## Queues -/

/-- The `qctl` operations that only write the queue: what each refuses, the level it needs, and the queue it leaves, with the
clock, the argument, the record size and the header line of the node (Table Queues 1 and 4, R258, R263, R267). -/
def queueWork (i : Instr) : Option (Nat × EpqForm × (Queue → Nat → Bool) × (Queue → Nat → Nat → Nat → Option Nat → Queue)) :=
  match i with
  | .qctlStat f => some (0, f, fun _ _ => false, fun q _ _ _ _ => q)
  | .qctlDisable f => some (1, f, fun _ _ => false, fun q c _ _ _ => { q with en := false, was := some (c, q.enAt c) })
  | .qctlInit f => some (1, f, fun q a => q.en || decide (q.rsv ≠ q.fre) || decide (a < 4) || decide (20 < a), fun q _ a z h => { q with
      pub := 0
      rsv := 0
      tkn := 0
      fre := 0
      logCap := a
      recSize := z
      header := h
      en := false
      frozen := false
      perr := false
      wdg := false
      wlost := false
      wcnt := 0
      wcount := 0
      pdn := 0
      wdt := 0
      sup := 0x3FF
      done := []
      pubTicks := []
      completed := [] })
  | .qctlPeriod f => some (1, f, fun _ _ => false, fun q _ a _ _ => { q with wdt := a, wcount := 0 })
  | .qctlSupervisor f => some (1, f, fun _ a => decide (1024 ≤ a), fun q _ a _ _ => { q with sup := a })
  | .qctlClear f => some (1, f, fun _ _ => false, fun q _ _ _ _ => { q with wdg := false, wlost := false, perr := false, wcount := 0 })
  | _ => none

/-- The word of a `qctl`: the node, the argument, and whether its other bits are 0 (R267). -/
def queueNode (v : DWord) : Nat := (v.extractLsb' 0 10).toNat
/-- See `queueNode`. -/
def queueArg (v : DWord) : Nat := (v.extractLsb' 16 32).toNat
/-- See `queueNode`. -/
def queueWordOk (v : DWord) : Bool := v.extractLsb' 10 6 == 0 && v.extractLsb' 48 16 == 0

/-- Nothing of the queues has changed but that of node `n` of module `m`. -/
def QueuesKeep (s t : State) (m n : Nat) : Prop := ∀ a b, ¬(a = m ∧ b = n) → t.queue a b = s.queue a b

/-! ## Windows -/

/-- The team's own record after an instruction on its region table: entry `e` is `r`, everything else as before (R298). -/
def RegionSet (s t : State) (x : Issue) (e : Nat) (r : Region) : Prop :=
  (∀ j, j < 64 → ∀ u, t.team? x.t.uid = some u → u.region j = if j = e then r else x.t.region j) ∧
  (∀ u, t.team? x.t.uid = some u → { u with regions := x.t.regions } = x.t) ∧
  ∀ k, k ≠ x.t.uid → t.team? k = s.team? k

/-! ## Sync words -/

/-- The word a sync instruction names passes the checks of R314: it lies at `w`, on a mapped page of `TYPE` 0, its home has
not been lost, and nothing makes the instruction wait. -/
structure SyncWord (s : State) (x : Issue) (f : SyncForm) (write : Bool) (w : SyncAt) : Prop where
  permits : (addrReg x.g f.ar.toNat).atm = true
  region : (addrReg x.g f.ar.toNat).rgn = 0
  address : w.va = ((addrReg x.g f.ar.toNat).ptr.setWidth 64 + scalarReg s x f.p.toNat).toNat
  bounds : (addrReg x.g f.ar.toNat).base.toNat ≤ w.va ∧ w.va + 8 ≤ (addrReg x.g f.ar.toNat).limit.toNat
  aligned : w.va % 8 = 0
  mapped : translate s { x.t.tctx with m := x.m } (if write then .write else .read) (w.va % 2 ^ 56) = .ok w.page
  plain : w.page.ty = 0
  there : w.page.phys = .dram w.ga
  issuer : w.m = x.m
  reached : cutOff s x.m (lineMod (w.ga / 128)) = false
  now : syncReady s x write w = true

/-- The release a sync instruction makes at the group's ordering scope need not wait (R318). -/
def ReleaseNow (r : State) (x : Issue) : Prop := releaseReady r x.g (min (oscOf x.g) (r.vf x.m x.t.vf).cap.toNat) = true

/-- No leased line of the group's virtual function is left in its L1, where its ordering scope, capped, is cluster scope or
wider (R161, R318). -/
def Acquired (s t : State) (x : Issue) : Prop :=
  2 ≤ min (oscOf x.g) (s.vf x.m x.t.vf).cap.toNat → ∀ c ∈ t.l1, c.core = x.g.core → c.vf = x.t.vf →
    ∀ cls ex rn v e d, c.kind ≠ .leased cls ex rn v e d

/-- The issuing group is as after an instruction that only writes its own registers, whatever it does elsewhere. -/
def OwnAfter (s t : State) (x : Issue) (v : View) : Prop := After { t with groups := s.groups } t x v none fun _ => x.cur.next

/-- The tags of all sync words but one are as before. -/
def TagSet (s t : State) (ga : Nat) (tag : Option SyncTag) : Prop :=
  ∀ k, lookupNat k t.sync = if k = ga / 8 then tag else lookupNat k s.sync

/-- Fields of a barrier word (Table Counters 2): expected, arrived, phase, parent. -/
def barEx (v : Nat) : Nat := v % 2 ^ 16
/-- See `barEx`. -/
def barArr (v : Nat) : Nat := v / 2 ^ 16 % 2 ^ 16
/-- See `barEx`. -/
def barPh (v : Nat) : Nat := v / 2 ^ 32 % 2 ^ 8
/-- See `barEx`. -/
def barPar (v : Nat) : Nat := v / 2 ^ 40 % 2 ^ 24
/-- The word after an arrival: one more arrived, or the next phase with none arrived (R316). -/
def barNext (v : Nat) : Nat :=
  if barEx v ≤ barArr v + 1 then barPar v * 2 ^ 40 + (barPh v + 1) % 256 * 2 ^ 32 + barEx v
  else barPar v * 2 ^ 40 + barPh v * 2 ^ 32 + (barArr v + 1) * 2 ^ 16 + barEx v

/-- The split waits on a word, which a kill of the word will tell it (R315). -/
def WaitsOn (s t : State) (x : Issue) (ga : Nat) : Prop :=
  Waits s t x ∧ ∀ g', t.group? x.cur.core x.cur.slot = some g' → ∀ p ∈ g'.arch.splits, p.slot = x.cur.split →
    p.waitOn = some (ga / 8)

/-! ## Special registers and contexts -/

/-- The value of a register of the issuing group, or of its virtual function, that a read leaves as it is (Table Registers
6); none for the other numbers. -/
def csrValue (s : State) (x : Issue) (n : Nat) : Option DWord :=
  let y := s.vf x.m (s.vf x.m x.t.vf).vsel.toNat
  match n with
  | 0x000 => some (x.g.arch.fpcr.setWidth 64)
  | 0x001 => some x.g.arch.srseed
  | 0x002 => some x.g.arch.gang
  | 0x100 => some x.g.trap.taddr
  | 0x101 => some x.g.trap.tinsn
  | 0x102 => some x.g.trap.tmask
  | 0x200 => some (BitVec.ofNat 64 ((s.vf x.m x.t.vf).cap.toNat * 2 + (s.vf x.m x.t.vf).scap.toNat))
  | 0x211 => some ((nth y.leases 1 0).setWidth 64)
  | 0x217 => some ((nth y.leases 7 0).setWidth 64)
  | 0x218 => some (y.lmode.setWidth 64)
  | 0x220 => some (y.twmask.setWidth 64)
  | 0x221 => some (y.dwmask.setWidth 64)
  | 0x230 => some ((s.vf x.m x.t.vf).vsel.setWidth 64)
  | 0x231 => some (BitVec.ofNat 64 (y.parts.toNat * 2 ^ 16 + y.cap.toNat * 2 + y.en.toNat))
  | 0x233 => some y.skdb
  | 0x445 => some (s.mod x.m).rclu
  | 0x600 => some (BitVec.ofNat 64 ((s.mod x.m).step.toNat * 256 + (s.mod x.m).cause.toNat * 16 + (s.mod x.m).done.toNat))
  | 0x620 => some (BitVec.ofNat 64 (s.mod x.m).pwrcap)
  | 0x660 => some (nth (s.mod x.m).slots 0 0 &&& (if x.t.pl < 2 then 0x07FFFFFFFFFFFFFF else BitVec.allOnes 64))
  | 0x6A3 => some ((nth (s.mod x.m).psup 3 0).setWidth 64)
  | _ => none

/-- What a write of `v` to a register of the virtual function that VSEL selects makes of its registers (Tables Tables 5 and
Host 5, R303, R352); `busy` says that it has a resident team. -/
def vfWritten (n : Nat) (v : DWord) (busy : Bool) (y : Vf) : Option Vf :=
  match n with
  | 0x218 => some (if v.extractLsb' 0 2 = 1 ∨ v.extractLsb' 0 2 = 2 then { y with lmode := v.extractLsb' 0 2 } else y)
  | 0x220 => some (if v.extractLsb' 0 24 = 0 then y else { y with twmask := v.extractLsb' 0 24 })
  | 0x221 => some (if v.extractLsb' 0 16 = 0 then y else { y with dwmask := v.extractLsb' 0 16 })
  | 0x231 => some { y with
      parts := v.extractLsb' 16 16
      cap := if v.extractLsb' 1 3 = 6 ∨ v.extractLsb' 1 3 = 7 then y.cap else v.extractLsb' 1 3
      en := v.getLsbD 0 || (y.en && busy) }
  | 0x232 => some (if y.en then y else { y with salt := v })
  | 0x233 => some { y with skdb := v &&& 0x000FFFFFFFFF8000 }
  | n => if 0x211 ≤ n ∧ n ≤ 0x217 then some { y with leases := y.leases.set (n - 0x210) (v.extractLsb' 0 24) } else none

/-! ## Walks (Table Control 7) -/

/-- The indices of unit `i` of a walk, the first running fastest. -/
def walkIdx (d : BitVec 512) (i : Nat) : List Nat :=
  let n (j : Nat) : Nat := walkField d (2 * j) 16 + 1
  [i % n 0, i / n 0 % n 1, i / n 0 / n 1 % n 2, i / n 0 / n 1 / n 2]

/-- The units of a walk. -/
def walkUnits (d : BitVec 512) : Nat :=
  (walkField d 0 16 + 1) * (walkField d 2 16 + 1) * (walkField d 4 16 + 1) * (walkField d 6 16 + 1)

/-- The count and the state after the first units of a walk: a fill writes the pattern, a compare counts what differs from it, a
copy writes what it reads at the second address, a scrub what it reads where it read it. -/
def walked (core : Nat) (d : BitVec 512) (op unit : Nat) (s : State) : Nat → Nat × State
  | 0 => (0, s)
  | i + 1 =>
    let a := walked core d op unit s i
    let x := walkAt a.2 core d 0 unit (walkIdx d i)
    let v := walkRead a.2 x unit
    match op with
    | 0 => (a.1 + 1, walkWrite a.2 0 x unit (walkPat d unit))
    | 1 => (if v.1 = walkPat d unit then a.1 else a.1 + 1, v.2)
    | 2 => (a.1 + 1, walkWrite v.2 2 (walkAt a.2 core d 1 unit (walkIdx d i)) unit v.1)
    | _ => (a.1 + 1, walkWrite v.2 op x unit v.1)

/-- Unit `i` of a walk goes on: neither address leaves its space, and no home it reads or writes makes it wait. -/
def unitGoes (s : State) (core : Nat) (d : BitVec 512) (op unit i : Nat) : Prop :=
  let x := walkAt s core d 0 unit (walkIdx d i)
  let y := walkAt s core d 1 unit (walkIdx d i)
  x ≠ .bad ∧ y ≠ .bad ∧ x.waits s core (op = 0 || op = 3) = false ∧ (op = 2 → y.waits s core true = false)

/-- What a walk's write of a unit leaves: its bytes, and nothing else of memory; a fill marks a local line full, a whole line
written is good again, a sync word written is one no longer, a queue's header and what only the hardware writes stay (R259, R310,
R336). -/
def UnitSet (a b : State) (at_ : WalkAt) (op unit v : Nat) : Prop :=
  let byte (base k : Nat) : Byte := BitVec.ofNat 8 (v / 256 ^ (k - base))
  match at_ with
  | .loc key => b.mem = a.mem ∧ (Memory.wf a.lmem = true → ∀ k, memRead b.lmem k =
        if key ≤ k ∧ k < key + unit then byte key k else memRead a.lmem k) ∧
      (∀ l, b.lineState l = if op = 0 ∧ l = key / 128 then some .full else a.lineState l) ∧
      (unit = 128 → key / 128 ∉ b.lpoison)
  | .phys ga => b.lmem = a.lmem ∧ b.lines = a.lines ∧ (NoPartials a → Memory.wf a.mem = true →
      (∀ k, k < ga ∨ ga + unit ≤ k → memRead b.mem k = memRead a.mem k) ∧
      (hwLine a (ga / 128) = false → a.headerQueue? (ga / 128) = none →
        ∀ k, ga ≤ k → k < ga + unit → memRead b.mem k = byte ga k) ∧
      (a.headerQueue? (ga / 128) ≠ none → b.mem = a.mem)) ∧
      ∀ w, ga < 8 * w + 8 → 8 * w < ga + unit → lookupNat w b.sync = none
  | .bad => False

/-- A walk's read of a unit changes no byte. -/
def UnitRead (a b : State) : Prop := b.lmem = a.lmem ∧ b.lines = a.lines ∧ b.sync = a.sync ∧ (NoPartials a → b.mem = a.mem)

/-- The signed sum of coefficients times indices of access `k` of a walk, from its base within its space. -/
def walkSum (d : BitVec 512) (k : Nat) (i0 i1 i2 i3 : Nat) : Int :=
  ((walkField d (8 + 24 * k) 64 % 2 ^ 63 : Nat) : Int) + signed 32 (walkField d (16 + 24 * k) 32) * (i0 : Int) +
    signed 32 (walkField d (20 + 24 * k) 32) * (i1 : Int) + signed 32 (walkField d (24 + 24 * k) 32) * (i2 : Int) +
    signed 32 (walkField d (28 + 24 * k) 32) * (i3 : Int)

/-- A context image as a number: the doubleword at a byte offset (Table Control 5). -/
def imageWord (img off : Nat) : DWord := BitVec.ofNat 64 (img / 2 ^ (8 * off))

end Sys2Proof.Machine
end

