-- ==== Sys2Proof/Safety/Fabric.lean ====
section
/-!
DEFINITION. The terms the statements use for requests at their homes, coherence messages, streams and links
(12_ordering_far_agents_and_engines.md R234 to R246; 14_program_directory_six_readers.md R252 to R257).
-/
namespace Sys2Proof.Machine

/-- A request is over: it is gone, and the access that waits for it has got a value for each of its parts, in order, at
the part's bytes (R200, R206). -/
structure Answered (s t : State) (r : Req) (vals : List (Nat × DWord)) : Prop where
  gone : t.reqs = s.reqs.filter fun q => decide (q.id ≠ r.id)
  others : ∀ c k, r.agent ≠ .group c k → t.group? c k = s.group? c k
  waiting : ∀ c k g, r.agent = .group c k → s.group? c k = some g → t.group? c k = some (match r.txn with
    | none => g
    | some id => { g with txns := g.txns.map fun x => if x.id = id then
        { (vals.zip r.accs).foldl (fun (x : Txn) p => x.give p.1.1 p.2.off p.1.2) x with out := x.out - 1 } else x })

/-- Nothing keeps a request of a kind, number `s.ev.a`, from being served (R221, R245, R256). -/
structure Serves (s : State) (r : Req) (kind : ReqKind) : Prop where
  named : s.req? s.ev.a = some r
  kind : r.kind = kind
  ready : serveReady s r = true
  core : r.core < 4096

/-- The line is plain memory: no queue header, no field that only the hardware writes, no live sync word (R259, R304, R305,
R311). -/
abbrev PlainLine (s : State) (line : Nat) : Prop := s.headerQueue? line = none ∧ hwLine s line = false ∧ s.syncLine line = false

/-- The home has received every notice for a line that a source of acknowledgements sent: a core, or a module's cores
(R255). -/
def NoNotice (s : State) (source line : Nat) : Prop := ∀ x ∈ s.msgs, sentBy source line x = false

/-- The line of a request is its core's alone, and its access has been performed in that L1 (R254, R257). -/
structure Granted (s t : State) (r : Req) : Prop where
  copy : t.l1? r.core r.line = some ⟨r.core, r.line, r.vf, .owned (if r.fn.writes then byteMask r.accs else 0)⟩
  entry : (t.dirOf r.line).st = 2 ∧ (t.dirOf r.line).ptrs = [r.core]
  memory : t.mem = (performAccs r.fn s.mem r.accs).1
  answer : Answered s t r (if r.fn.writes then [] else (performAccs r.fn s.mem r.accs).2)

/-- The access of a request has been performed at its home, and its core keeps a copy only if it held one (R257, R302). -/
structure Performed (s t : State) (r : Req) : Prop where
  memory : t.mem = (performAccs r.fn s.mem r.accs).1
  entry : (t.dirOf r.line).st = if holdsTracked s r.core r.line then 1 else 0
  answer : Answered s t r (performAccs r.fn s.mem r.accs).2

/-- Is a message one that module `m` has to receive or has sent about a line? -/
def ofModule (m line : Nat) (x : Msg) : Bool :=
  match x with
  | .inval t l => l == line && targetMod t == m
  | .ack t l => l == line && targetMod t == m
  | .notice _ _ => false

/-! ## Engines and runs -/

/-- The status of a posted operation is known to the group that posted it (R293); of the group nothing else has changed but the
lines its next operations may see as they were (R248). -/
def StatusIs (s t : State) (k : MTask) (v : BitVec 16) : Prop :=
  ∀ g, s.group? k.core k.slot = some g → ∃ old, t.group? k.core k.slot =
    some { g with
      unready := old
      mposts := g.mposts.map fun p => if p.id = k.id then { p with status := some v } else p }

/-- What a drain stores for the bits of an accumulator, its destination no block format (R106, R292). -/
def drainElem (d : DWord) (v : Word) : Word × Flags :=
  if dFmt d = 0 then (v, 0)
  else if dFmt d = 2 then fromInt .cvts homeEnv 2 v.toInt
  else convert (if dSat d then .cvts else .cvt) homeEnv 5 (dFmt d) v

/-- A pass, operation `k` of entry `i`, is about to be performed on whole data: the tile is the one its weight descriptor
gives, no byte is poisoned, no line it reads and no C element has been stored to meanwhile, and the A window lies apart from
the C tile. -/
structure PassReady (s : State) (cl i : Nat) (k : MTask) (d msc w : DWord) (own u : Team) (T : Tile) : Prop where
  running : (s.engine cl).running = some (i, [k])
  op : k.op = .pass d msc w
  teams : s.team? k.team = some own ∧ s.team? k.named = some u
  tile : (s.engine cl).tile = some T ∧ T.k = wK w ∧ T.n = wN w ∧ T.bad = []
  loaded : needsReload (s.engine cl) i [k] = false
  ready : taskReady s (some T) k = true
  settled : k.old = []
  whole : s.lpoison = [] ∧ ((s.engine cl).entry i).touched = []
  places : own.lsOff % 128 = 0 ∧ u.lsOff % 128 = 0
  apart : regionKey u 2 (pAoff d) + 128 * aLines (mscFmt msc) T.k (pM d) (mscMode msc = 2) ≤ regionKey own 3 (pCoff d) ∨
    regionKey own 3 (pCoff d) + 128 * cLines (pM d) T.n ≤ regionKey u 2 (pAoff d)

/-- Element (m, n) of a pass, with its flags: the fold of R115 and R117 over row `m` of the A window and column `n` of the
tile, from the accumulator or from zero. -/
def passAt (s : State) (d msc : DWord) (own u : Team) (T : Tile) (m n : Nat) : Word × Flags :=
  let a := regionKey u 2 (pAoff d)
  let row := rowLines (mscFmt msc) T.k
  let acts := (List.range T.k).map fun k => codeAt s.lmem (a + 128 * (m * row)) (fmtWidth (mscFmt msc)) k
  let asc := if mscMode msc = 2 then (List.range 32).map fun g => codeAt s.lmem (a + 128 * (pM d * row) + 32 * m) 8 g else []
  let c := regionKey own 3 (pCoff d) + 128 * (m * ceilDiv T.n 32) + 4 * n
  passElem T msc acts asc n (if pAcc d then BitVec.ofNat 32 (memReadLE s.lmem c 4) else 0)

/-- The run is over, and its group knows its status (R307). -/
structure RunOver (s t : State) (r : CRun) (v : DWord) : Prop where
  gone : t.run? r.id = none
  told : ∀ g, s.group? r.core r.gslot = some g → t.group? r.core r.gslot =
    some { g with cruns := g.cruns.map fun q => if q.id = r.id then { q with status := some v } else q }

/-- A run of one chunk that has started, with nothing lost so far. -/
structure OneChunk (s : State) (r : CRun) (c : Chunk) : Prop where
  named : s.run? s.ev.a = some r
  chunks : runChunks s r = [c]
  state : r.active = true ∧ r.states = [.started]
  clean : r.poison = false ∧ r.skipped = false ∧ r.lost = false ∧ r.failed = []
  first : s.ev.b = 0
  mapped : (chunkSpans r c).flatMap (spanFaults s r 0) = []
  here : chunkAway s r 0 c = false
  now : chunkWaits s r 0 c = false

end Sys2Proof.Machine
end

