-- ==== Sys2Proof/Certificates/Slice0/Obligations.lean ====
section
/-!
DEFINITION. The statements about the model, each with the rules of the manual it formalises.
-/
open Sys2Proof Sys2Proof.Machine

/-! ## Lane operations -/

/-- R135, R138, R139, R142, R146 to R148, R76, R80: an integer lane operation of formats V and X, or a 16-bit one, whose
operands are ready completes; D holds the result of Tables Lane 1, 2, 4 and 5 in the active lanes (nothing with N = 1),
the newest latch holds it, and every other register, lane, flag, group and byte of memory is as before. -/
def Obligations.LaneIntegerResults : Prop :=
  ∀ (i : Instr) (w : LaneWork), intWork i = some w → i.wf = true → ∀ (s r : State) (x : Issue),
    Ready s x w.sp w.use r → NoSafePoint x w.sp →
    ∃ t, exec i s = .next t ∧ After s t x (w.view x) (some (w.latch x)) (fun _ => x.cur.next)

/-- R107 to R114, R135, R138 to R145, R148: an FP32 or BF16 operation, `cvt` or `cvts` whose operands are ready completes; each
rounds once under the group's mode, and the flags of all active lanes are joined to FLG. `cvtsr` advances SRSEED once, by
0x9E3779B97F4A7C15, and each active lane rounds with 16 bits drawn from the new seed and its own number. -/
def Obligations.LaneFloatResults : Prop :=
  (∀ (i : Instr) (w : LaneWork), floatWork i = some w → i.wf = true → ∀ (s r : State) (x : Issue),
    Ready s x w.sp w.use r → NoSafePoint x w.sp →
    ∃ t, exec i s = .next t ∧ After s t x (w.view x) (some (w.latch x)) (fun _ => x.cur.next)) ∧
  (∀ (f : CvtForm) (s r : State) (x : Issue), (Instr.cvtsr f).wf = true →
    Ready s x f.sp { sels := [f.a], lw := destOf f.n f.d.toNat } r → NoSafePoint x f.sp →
    ∃ (t : State) (w : LaneWork) (seed : DWord), exec (.cvtsr f) s = .next t ∧
      seed = x.g.arch.srseed + 0x9E3779B97F4A7C15#64 ∧
      w = { floatX .bits false f.sp f.n f.d f.a (fun _ _ _ => (0, 0)) with
        val := fun x L => (convert (.cvtsr ((fmix64 (seed ^^^ BitVec.ofNat 64 L)).extractLsb' 0 16)) (fpEnv x.g) f.src.toNat f.dst.toNat
          (opVal .bits x f.a L)).1
        flg := fun x L => (convert (.cvtsr ((fmix64 (seed ^^^ BitVec.ofNat 64 L)).extractLsb' 0 16)) (fpEnv x.g) f.src.toNat f.dst.toNat
          (opVal .bits x f.a L)).2 } ∧
      After s t x { w.view x with srseed := seed } (some (w.latch x)) (fun _ => x.cur.next))

/-- R118, R158 to R160: the quad exchanges and reductions see the active lanes of the quad, the shuffles those of the
split, the votes and group reductions its lanes that are not helpers; each completes with its result of Table Control 2
or 3. -/
def Obligations.QuadGroupResults : Prop :=
  ∀ (i : Instr) (w : LaneWork), groupWork i = some w → i.wf = true → ∀ (s r : State) (x : Issue),
    Ready s x w.sp w.use r → NoSafePoint x w.sp →
    ∃ t, exec i s = .next t ∧ After s t x (w.view x) (some (w.latch x)) (fun _ => x.cur.next)

/-- R78: what each range of selectors delivers to a lane, 0x88 to 0x8F raising ILLOPND (R128 for a latch that is lost, R80 for
a position never filled); and R79: an immediate read as FP32 or BF16 has exactly its value. -/
def Obligations.SelectorValues : Prop :=
  (∀ (rd : Reading) (x : Issue) (a : BitVec 8) (L : Nat),
    (a.toNat < 0x80 → opVal rd x a L = laneReg x.t x.g a.toNat L) ∧
    (0x80 ≤ a.toNat → a.toNat < 0x88 → ∀ l vs, latchOf x.g (a.toNat - 0x7F) = l → l.vals = some vs →
      opVal rd x a L = if l.lost then laneReg x.t x.g l.d L else nth vs L 0) ∧
    (0x80 ≤ a.toNat → a.toNat < 0x88 → (latchOf x.g (a.toNat - 0x7F)).vals = none → opVal rd x a L = 0) ∧
    (0x90 ≤ a.toNat → a.toNat < 0xC0 → (opVal rd x a L).toNat = (nth x.g.arch.sregs (a.toNat - 0x90) 0).toNat % 2 ^ 32) ∧
    (0xC0 ≤ a.toNat → (opVal .bits x a L).toInt = (a.extractLsb' 0 6).toInt)) ∧
  (∀ (i : Instr) (w : LaneWork) (a : BitVec 8) (s : State) (x : Issue), intWork i = some w ∨ floatWork i = some w →
    a ∈ w.use.sels → 0x88 ≤ a.toNat → a.toNat < 0x90 → s.issue? = some x → maskOk w.sp = true →
    exec i s = .next (takeTrap s x (trapAll .illopnd))) ∧
  ∀ k : BitVec 6, eqVal (decodeF Fmt.f32 (immediate .fp32 k).toNat) (ofIntVal k.toInt) = true ∧
    eqVal (decodeF Fmt.bf16 ((immediate .bf16 k).toNat % 65536)) (ofIntVal k.toInt) = true ∧
    (immediate .bf16 k).toNat / 65536 = (immediate .bf16 k).toNat % 65536

/-! ## Scalar and address registers -/

/-- R134, R149 to R153: a scalar function, move, immediate or `aget` whose operands are ready completes; sD holds its
result and nothing else changes. -/
def Obligations.ScalarResults : Prop :=
  ∀ (i : Instr) (w : ScalarWork), scalarWork i = some w → ∀ (s r : State) (x : Issue),
    Ready s x w.sp w.use r → NoSafePoint x w.sp →
    ∃ t, exec i s = .next t ∧ After s t x (x.view.putScalar w.d (w.val s x)) none (fun _ => x.cur.next)

/-- R153, R154: `aadd` moves the pointer within base and limit and raises BOUNDS outside them; `aset` narrows bounds and
permissions, raises BOUNDS where they would widen and ILLOPND for P = 63; `amov` copies all four fields, and raises
ILLOPND for a register with region code R copied elsewhere. -/
def Obligations.AddressRegisterResults : Prop :=
  (∀ (f : AaddForm) (s r : State) (x : Issue), Ready s x f.sp { sr := [f.p.toNat] } r →
    let a := addrReg x.g f.ar.toNat
    let p : DWord := a.ptr.setWidth 64 + scalarReg s x f.p.toNat + BitVec.ofInt 64 (128 * f.k.toInt)
    ((a.base.toNat ≤ p.toNat ∧ p.toNat ≤ a.limit.toNat) → NoSafePoint x f.sp →
      ∃ t, exec (.aadd f) s = .next t ∧
        After s t x (x.view.putAddr f.ar.toNat { a with ptr := BitVec.ofNat 56 p.toNat }) none (fun _ => x.cur.next)) ∧
    (¬(a.base.toNat ≤ p.toNat ∧ p.toNat ≤ a.limit.toNat) →
      exec (.aadd f) s = .next (takeTrap s x { kind := .bounds, addr := p.toNat }))) ∧
  (∀ (f : AsetForm) (s r : State) (x : Issue), f.p ≠ 63 → Ready s x f.sp { sr := [f.p.toNat, f.p.toNat + 1] } r →
    let a := addrReg x.g f.ar.toNat
    let b : VAddr := (scalarReg s x f.p.toNat).extractLsb' 0 56
    let l : VAddr := (scalarReg s x (f.p.toNat + 1)).extractLsb' 0 56
    ((a.base.toNat ≤ b.toNat ∧ b.toNat ≤ l.toNat ∧ l.toNat ≤ a.limit.toNat) → NoSafePoint x f.sp →
      ∃ t, exec (.aset f) s = .next t ∧
        After s t x (x.view.putAddr f.ar.toNat ⟨b, b, l, a.perm &&& (0b111#3 ++ f.k)⟩) none (fun _ => x.cur.next)) ∧
    (¬(a.base.toNat ≤ b.toNat ∧ b.toNat ≤ l.toNat ∧ l.toNat ≤ a.limit.toNat) →
      exec (.aset f) s = .next (takeTrap s x { kind := .bounds, addr := b.toNat }))) ∧
  (∀ (f : AsetForm) (s r : State) (x : Issue), f.p = 63 → Ready s x f.sp {} r →
    exec (.aset f) s = .next (takeTrap s x (trapAll .illopnd))) ∧
  ∀ (f : CtxForm) (s r : State) (x : Issue), Ready s x f.sp {} r →
    ((addrReg x.g f.p.toNat).rgn ≠ 5 ∨ f.p = f.ar → NoSafePoint x f.sp →
      ∃ t, exec (.amov f) s = .next t ∧
        After s t x (x.view.putAddr f.ar.toNat (addrReg x.g f.p.toNat)) none (fun _ => x.cur.next)) ∧
    ((addrReg x.g f.p.toNat).rgn = 5 → f.p ≠ f.ar → exec (.amov f) s = .next (takeTrap s x (trapAll .illopnd)))

/-- R134, Table Registers 1: `rfree` makes the registers of blocks P to Q read zero in every lane, once no access has one of
them still to write, and changes no other register. -/
def Obligations.RfreeResults : Prop :=
  ∀ (f : EpqForm) (s r : State) (x : Issue), f.p.toNat ≤ f.q.toNat → f.q.toNat ≤ 14 → Ready s x f.sp {} r → NoSafePoint x f.sp →
    (∀ T ∈ x.g.txns, ∀ d n, T.dest = .lanes d n → T.noWrite = false → ∀ j, j < n →
      ¬(f.p.toNat ≤ (d + j) / 8 ∧ (d + j) / 8 ≤ f.q.toNat)) →
    ∃ t, exec (.rfree f) s = .next t ∧
      After s t x
        { x.view with
          lane := fun q L => if f.p.toNat ≤ q / 8 ∧ q / 8 ≤ f.q.toNat then 0 else laneReg x.t x.g q L }
        none (fun _ => x.cur.next)

/-! ## Control -/

/-- R28, R29, R86, R155: after `brc` each active lane stands at the target if its value meets the condition, else at the
fall-through address, whether or not the split divides; registers and memory are as before. -/
def Obligations.BranchResults : Prop :=
  ∀ (f : BrForm) (s r : State) (x : Issue), (Instr.brc f).wf = true → Ready s x f.sp { sels := [f.a] } r → NoSafePoint x f.sp →
    ∃ t, exec (.brc f) s = .next t ∧ After s t x x.view none (fun L =>
      if meets f.cond (opVal .bits x f.a L) then x.cur.pc + BitVec.ofInt 56 (2 * f.off.toInt) else x.cur.next)

/-- R155 to R157: `jmp` and `jmpi` go to their targets, `call` and `jmpi` with link also write the fall-through address to
lk, s47, after the target has been read; a value that is odd or has a bit above 55 raises PCALIGN. -/
def Obligations.JumpResults : Prop :=
  (∀ (f : JForm) (s r : State) (x : Issue), Ready s x f.sp {} r → NoSafePoint x f.sp →
    let pc : VAddr := x.cur.pc + BitVec.ofInt 56 (2 * f.off.toInt)
    (∃ t, exec (.jmp f) s = .next t ∧ After s t x x.view none (fun _ => pc)) ∧
    ∃ t, exec (.call f) s = .next t ∧ After s t x (x.view.putScalar 47 (x.cur.next.setWidth 64)) none (fun _ => pc)) ∧
  ∀ (f : EpForm) (s r : State) (x : Issue), Ready s x f.sp { sr := [f.p.toNat] } r →
    let v := scalarReg s x f.p.toNat
    (isTarget v = true → NoSafePoint x f.sp →
      (∃ t, exec (.jmpi f) s = .next t ∧ After s t x x.view none (fun _ => BitVec.ofNat 56 v.toNat)) ∧
      ∃ t, exec (.jmpiLink f) s = .next t ∧
        After s t x (x.view.putScalar 47 (x.cur.next.setWidth 64)) none (fun _ => BitVec.ofNat 56 v.toNat)) ∧
    (isTarget v = false →
      exec (.jmpi f) s = .next (takeTrap s x { kind := .pcalign, addr := v.toNat }) ∧
      exec (.jmpiLink f) s = .next (takeTrap s x { kind := .pcalign, addr := v.toNat }))

/-- R161: a `fence` completes once, for a release, every access of its group is complete at its scope and, for an acquire,
no load, atomic, sketch or remote instruction is under way. A release at cluster scope or wider leaves no partial with
updates of its group undelivered; an acquire there leaves no leased line of its virtual function in the L1; memory and the group's registers are as before. -/
def Obligations.FenceResults : Prop :=
  ∀ (f : FenceForm) (s r : State) (x : Issue), Ready s x f.sp {} r → NoSafePoint x f.sp → f.kind ≠ 0 → f.scope.toNat ≤ 5 →
    let sc := min f.scope.toNat (s.vf x.m x.t.vf).cap.toNat
    (f.kind.getLsbD 1 = true → fenceReady r x.g sc = true) → (f.kind.getLsbD 0 = true → acquireReady r x.g = true) →
    ∃ t b, exec (.fence f) s = .next t ∧ After b t x x.view none (fun _ => x.cur.next) ∧
      (∀ c k, b.group? c k = r.group? c k) ∧ b.mem = s.mem ∧ b.lmem = s.lmem ∧ b.reqs = s.reqs ∧ b.log = s.log ∧
      (f.kind.getLsbD 1 = true → 2 ≤ sc → ∀ line c cop vals slots page, r.l1? x.cur.core line = some c →
        c.kind = .part cop vals slots page → x.cur.slot ∈ slots → t.l1? x.cur.core line = none) ∧
      (f.kind.getLsbD 0 = true → 2 ≤ sc → ∀ c ∈ t.l1, c.core = x.cur.core → c.vf = x.t.vf →
        ∀ cls ex rn v e d, c.kind ≠ .leased cls ex rn v e d) ∧
      (f.kind.getLsbD 1 = false → f.kind.getLsbD 0 = true → sc < 2 → b.l1 = r.l1)

/-- R25, R27, R163: `exit` of some lanes makes helpers of those whose quad has not yet exited as a whole and retires the quads
that have, from every split; the other lanes go on. When the last lanes of a group retire, and its accesses are complete
at device scope, the group leaves its core: its slot is free, and its team has it among the groups that have exited, or is
gone with its last group. -/
def Obligations.ExitResults : Prop :=
  (∀ (f : EsForm) (s r : State) (x : Issue), Ready s x f.sp {} r → NoSafePoint x f.sp →
    let once := x.g.exitedOnce ||| x.active
    let gone (L : Nat) : Bool := decide (L < x.g.width) && quadIn once L
    (∃ p L, (p ∈ x.g.arch.splits ∧ p.mask.getLsbD L = true ∧ gone L = false) ∨
      ∃ q ∈ x.g.arch.parked, q.mask.getLsbD L = true ∧ gone L = false) →
    ∃ t g', exec (.exit f) s = .next t ∧ t = { s with groups := t.groups } ∧
      t.group? x.cur.core x.cur.slot = some g' ∧ g'.exitedOnce = once ∧
      (∀ L, g'.arch.helpers.getLsbD L = ((x.g.arch.helpers.getLsbD L || x.active.getLsbD L) && !gone L)) ∧
      (∀ L, g'.arch.retired.getLsbD L = (x.g.arch.retired.getLsbD L || gone L)) ∧
      (∀ L pc, gone L = true → ¬g'.arch.standsAt L pc) ∧
      (∀ L, x.active.getLsbD L = true → gone L = false → g'.arch.standsAt L x.cur.next) ∧
      g'.arch.blocks = x.g.arch.blocks ∧ g'.arch.sregs = x.g.arch.sregs ∧ g'.arch.aregs = x.g.arch.aregs) ∧
  (∀ (f : EsForm) (s r : State) (x : Issue), Ready s x f.sp {} r →
    let once := x.g.exitedOnce ||| x.active
    (∀ p ∈ x.g.arch.splits, ∀ L, p.mask.getLsbD L = true → L < x.g.width ∧ quadIn once L = true) →
    (∀ p ∈ x.g.arch.parked, ∀ L, p.mask.getLsbD L = true → L < x.g.width ∧ quadIn once L = true) →
    fenceReady r x.g (min 4 (s.vf x.m x.t.vf).cap.toNat) = true → x.g.num < 32 →
    ∃ t, exec (.exit f) s = .next t ∧ t.group? x.cur.core x.cur.slot = none ∧
      (∀ team, t.team? x.g.team = some team → team.exited.getLsbD x.g.num = true) ∧
      ∀ c k, ¬(c = x.cur.core ∧ k = x.cur.slot) → kept (s.group? c k) (t.group? c k))

/-- R165, R226, R275, R331 to R333, Table Faults 2: whatever an instruction traps with, a group that is not in its handler and
has one enters it as `TrapEntry` says; a trap of another split while the handler runs is held, with a place behind those held
before; one behind an unconfirmed load waits at its instruction; REGPSN, a trap in the handler and one of a node with no handler
are group faults: the group stops for good, and leaves its core once none of its accesses is under way, its node's error flag
set and its supervisor told; and the fields of TCAUSE say what the trap was. -/
def Obligations.TrapEntries : Prop :=
  (∀ (s : State) (x : Issue) (i : TrapInfo), s.issue? = some x → CanTrap x → i.kind ≠ .regpsn → TrapEntry s (takeTrap s x i) x i) ∧
  (∀ (s : State) (x : Issue) (i : TrapInfo), s.issue? = some x → x.g.twi = none → x.sp.handler = false → x.g.trap.handler = true →
    i.kind ≠ .regpsn → TrapHeld s (takeTrap s x i) x) ∧
  (∀ (s : State) (x : Issue) (i : TrapInfo), s.issue? = some x → x.g.twi ≠ none → Pauses s (takeTrap s x i) x) ∧
  (∀ (s : State) (x : Issue) (i : TrapInfo), s.issue? = some x → GroupFaults x i →
    let busy := hasFlight s x.g || hasLog s x.cur.core x.cur.slot
    (busy = true → FaultStops s (takeTrap s x i) x i) ∧
    (busy = false → x.t.bars = [] → FaultLeaves s (takeTrap s x i) x i)) ∧
  (∀ (i : TrapInfo) (dbl : Bool),
    ((i.cause dbl).extractLsb' 0 8).toNat = i.kind.code ∧ ((i.cause dbl).extractLsb' 8 7).toNat = i.code % 128 ∧
    (i.cause dbl).getLsbD 15 = dbl ∧
    ((i.cause dbl).getLsbD 22 = i.lane.isNone) ∧ (∀ l, i.lane = some l → ((i.cause dbl).extractLsb' 16 6).toNat = l % 64) ∧
    (i.cause dbl).getLsbD 23 = i.fetch ∧ ((i.cause dbl).extractLsb' 24 4).toNat = i.peer % 16 ∧
    (i.cause dbl).getLsbD 28 = i.zo ∧ (i.cause dbl).getLsbD 29 = i.write ∧ (i.cause dbl).extractLsb' 30 34 = 0)

/-- R164: `trap k` raises TRAP with code k, for the whole split, and does nothing else; where the group is not in its handler
and has one, it enters it. `yield` completes: the group's latches are lost, its registers and memory as before, and no
split of it is ready. R320, R161: `trig` completes, and its group has triggered, from its first `trig` on; where its device
scope is capped `SCAP` is set. -/
def Obligations.TrapYieldAndTrigger : Prop :=
  (∀ (f : EkForm) (s r : State) (x : Issue), Ready s x f.sp {} r →
    exec (.trap f) s = .next (takeTrap s x { kind := .trap, code := f.k.toNat }) ∧
    (CanTrap x → ∃ t, exec (.trap f) s = .next t ∧ TrapEntry s t x { kind := .trap, code := f.k.toNat })) ∧
  ∀ (f : EsForm) (s r : State) (x : Issue), Ready s x f.sp {} r → NoSafePoint x f.sp →
    (∃ t, exec (.yield f) s = .next t ∧ After s t x x.view none (fun _ => x.cur.next) ∧
      ∀ g', t.group? x.cur.core x.cur.slot = some g' →
        (∀ l ∈ g'.arch.window, l.lost = true) ∧ ∀ p ∈ g'.arch.splits, p.stalled = true) ∧
    ∃ t, exec (.trig f) s = .next t ∧
      After { s with modules := t.modules, nextId := t.nextId } t x x.view none (fun _ => x.cur.next) ∧
      (∀ g', t.group? x.cur.core x.cur.slot = some g' → g'.triggered ≠ none ∧ ∀ k, x.g.triggered = some k → g'.triggered = some k) ∧
      (4 ≤ (s.vf x.m x.t.vf).cap.toNat → t.modules = s.modules) ∧
      ((s.vf x.m x.t.vf).cap.toNat < 4 → s.inFabric x.m = true → (t.vf x.m x.t.vf).scap = true)

/-- R166: the three forms of `rfe` leave handler mode with the saved latches: to the trapped instruction, past it (by 2
bytes for a 16-bit, 8 for one with a mask word, else 4), or to the address in sP; outside a handler each raises ILLINS, and
`rfe sP` with a bad target PCALIGN. -/
def Obligations.TrapReturnResults : Prop :=
  (∀ (f : EsForm) (s r : State) (x : Issue), Ready s x f.sp {} r →
    (x.g.trap.handler = true → x.g.badSave = false → NoSafePoint x f.sp →
      (∃ t, exec (.rfeRetry f) s = .next t ∧ TrapReturn s t x (BitVec.ofNat 56 x.g.trap.tpc.toNat)) ∧
      ∃ t, exec (.rfeSkip f) s = .next t ∧ TrapReturn s t x (BitVec.ofNat 56 (x.g.trap.tpc.toNat +
        (if x.g.trap.tinsn.getLsbD 0 = false then 2 else if x.g.trap.tinsn.getLsbD 1 = true then 8 else 4)))) ∧
    (x.g.trap.handler = false →
      exec (.rfeRetry f) s = .next (takeTrap s x (trapAll .illins)) ∧
      exec (.rfeSkip f) s = .next (takeTrap s x (trapAll .illins)))) ∧
  ∀ (f : EpForm) (s r : State) (x : Issue), Ready s x f.sp { sr := [f.p.toNat] } r →
    let v := scalarReg s x f.p.toNat
    (x.g.trap.handler = true → x.g.badSave = false → NoSafePoint x f.sp → isTarget v = true →
      ∃ t, exec (.rfeReg f) s = .next t ∧ TrapReturn s t x (BitVec.ofNat 56 v.toNat)) ∧
    (x.g.trap.handler = true → isTarget v = false →
      exec (.rfeReg f) s = .next (takeTrap s x { kind := .pcalign, addr := v.toNat })) ∧
    (x.g.trap.handler = false → exec (.rfeReg f) s = .next (takeTrap s x (trapAll .illins)))

/-! ## What all instructions share -/

/-- R94, R78, R82, R90, R122, R127, R128: an integer lane operation (the checks are common to all instructions) with an illegal
mask word raises ILLMASK; with a legal one and an illegal operand ILLOPND; then, reading a lost latch whose producer had
N = 1, LATCHLOST. One whose operand has not yet been returned, or lies in a spilled block, waits: nothing is written and
the latches of its group are lost. -/
def Obligations.OperandChecks : Prop :=
  (∀ (i : Instr) (w : LaneWork), intWork i = some w → ∀ (s : State) (x : Issue), s.issue? = some x →
    (maskOk w.sp = false → exec i s = .next (takeTrap s x (trapAll .illmask))) ∧
    (maskOk w.sp = true → w.use.illegal = true → exec i s = .next (takeTrap s x (trapAll .illopnd))) ∧
    (maskOk w.sp = true → w.use.illegal = false →
      (∃ a ∈ w.use.sels, 0x80 ≤ a.toNat ∧ a.toNat ≤ 0x87 ∧
        (latchOf x.g (a.toNat - 0x7F)).lost = true ∧ (latchOf x.g (a.toNat - 0x7F)).n = true ∧
        (latchOf x.g (a.toNat - 0x7F)).vals ≠ none) →
      exec i s = .next (takeTrap s x (trapAll .latchlost)))) ∧
  (∀ (i : Instr) (w : LaneWork), intWork i = some w → ∀ (s : State) (x : Issue), s.issue? = some x →
    maskOk w.sp = true → w.use.illegal = false → ((w.use.latches x.g).any Latch.raisesLost) = false →
    x.sp.rem = none → (w.use.pending x.g = true ∨ ∃ q ∈ w.use.laneReads x.g ++ w.use.lw, isSpilled x.g q = true) →
    ∃ t, exec i s = .next t ∧ Waits s t x)

/-- R48, R49: a scalar operation that is the safe point of a pre-empted group completes, and its group parks under the mask
word: a block the word marks dead reads zero, the others keep their values; the bounds of the address registers are kept
or zero; the result is in sD and every latch is lost. -/
def Obligations.SafePointParks : Prop :=
  ∀ (i : Instr) (w : ScalarWork), scalarWork i = some w → ∀ (s r : State) (x : Issue) (m : BitVec 32) (c : Nat),
    Ready s x w.sp w.use r → w.sp = some m → x.g.preempt = .asked c →
    ∃ t g', exec i s = .next t ∧ t.group? x.cur.core x.cur.slot = some g' ∧ g'.preempt = .parked false ∧
      (∀ l ∈ g'.arch.window, l.lost = true) ∧
      (∀ q, q < 48 → nth g'.arch.sregs q 0 = if q = w.d then w.val s x else nth x.g.arch.sregs q 0) ∧
      (∀ q L, q < 120 → laneReg x.t g' q L = if m.getLsbD (17 + q / 8) then laneReg x.t x.g q L else 0) ∧
      (∀ k, k < 16 → addrReg g' k = if m.getLsbD 13 then addrReg x.g k else { addrReg x.g k with base := 0, limit := 0 }) ∧
      (m.getLsbD 15 = false → g'.mentry = none) ∧ t.mem = s.mem ∧ t.lmem = s.lmem ∧
      ∀ k j, ¬(k = x.cur.core ∧ j = x.cur.slot) → kept (s.group? k j) (t.group? k j)

/-! ## Memory -/

/-- R196, R197: an access whose first failing check by address is that of lane o, the lowest lane of those that fail the
earliest check, traps with that check's kind for that lane, before any lane has any effect. -/
def Obligations.AddressChecks : Prop :=
  ∀ (s : State) (x : Issue) (a : AReg) (k : Kind) (ops : List Machine.LaneOp) (o : Machine.LaneOp) (n : Nat),
    (ops.map (·.lane)).Nodup → (∀ p ∈ ops, p.lane < 64) → o ∈ ops → x.g.arch.helpers.getLsbD o.lane = false →
    firstFault x a k o.ea = some n →
    (∀ p ∈ ops, x.g.arch.helpers.getLsbD p.lane = false → ∀ n', firstFault x a k p.ea = some n' → n < n' ∨ (n = n' ∧ o.lane ≤ p.lane)) →
    checkLanes s x a k ops = .error { kind := faultKind n, lane := some o.lane, addr := o.ea, write := k.write }

/-- R195, R199 to R204, R173, R189, R227: a lane or scalar load whose bytes lie in full lines of its team's local store
completes: an access is under way for its destination that holds, for each active lane (for the split), the bytes at the
lane's address; nothing else has changed. Where a lane's bytes run on into a second bank row, that row is read in a step of
its own, after those that no lane runs on into, and the access waits for it: R227 gives two steps, their order is the model's choice
(log 92). The return that writes them is an event of its own (R200). -/
def Obligations.LocalLoads : Prop :=
  (∀ (i : Instr) (size : Nat) (f : MForm), loadSize i = some (size, f) → i.wf = true → ∀ (s r : State) (x : Issue),
    Ready s x f.sp { lr := [f.off.toNat], lw := if f.n then [] else pairOf f.d size } r → NoSafePoint x f.sp →
    let a := addrReg x.g f.ar.toNat
    a.rd = true → NoAcquire x → NoRest s x →
    (∀ L ∈ x.lanes, LocalRange x a size (laneEa x a f.off L) ∧ LocalReadable s (localAt x a (laneEa x a f.off L)) size) →
    x.lanes ≠ [] →
    ∃ t, exec i s = .next t ∧ LoadedByRows s t x (.lanes f.d.toNat (if size = 8 then 2 else 1)) f.n (acquireOf (ordOf f.pol f.ord) 1)
      (some (pendingLatch x f.n f.d.toNat x.lanes)) x.lanes size (fun L => localAt x a (laneEa x a f.off L))) ∧
  ∀ (i : Instr) (size : Nat) (f : SmemForm), (i = .sld f ∧ size = 4) ∨ (i = .sldd f ∧ size = 8) → ∀ (s r : State) (x : Issue),
    Ready s x f.sp { sr := [f.b.toNat], sw := [f.d.toNat] } r → NoSafePoint x f.sp →
    let a := addrReg x.g f.ar.toNat
    let ea := scalarEa s x a f.b
    a.rd = true → NoAcquire x → NoRest s x → LocalRange x a size ea → LocalReadable s (localAt x a ea) size →
    ∃ t, exec i s = .next t ∧ LoadedByRows s t x (.scalar f.d.toNat) false none none [0] size (fun _ => localAt x a ea)

/-- R195, R199, R200, R204, R173, R189, R227: a lane or scalar store whose bytes lie in lines of its team's local store that
are full or empty completes: the bytes of the lanes that are not helpers are stored in ascending lane order, an empty line
touched becomes full with its other bytes zero, and every other byte, register and line is as before. A bank row that a
lane's bytes run on into is written in a step of its own: R227 gives two steps, that it comes after the other rows is the model's
choice (log 92). -/
def Obligations.LocalStores : Prop :=
  (∀ (i : Instr) (size : Nat) (f : MForm), storeSize i = some (size, f) → i.wf = true → ∀ (s r : State) (x : Issue),
    Memory.wf s.lmem = true → Ready s x f.sp { lr := f.off.toNat :: pairOf f.d size } r → NoSafePoint x f.sp →
    let a := addrReg x.g f.ar.toNat
    a.wr = true → NoAcquire x → NoRest s x → OrderReady r x (ordOf f.pol f.ord) 1 →
    (∀ L ∈ x.liveLanes, LocalRange x a size (laneEa x a f.off L) ∧
      LocalWritable s x.g.core (localAt x a (laneEa x a f.off L)) size) →
    x.liveLanes ≠ [] →
    ∃ t, exec i s = .next t ∧
      StoredByRows s t x (x.liveLanes.map fun L => (localAt x a (laneEa x a f.off L), size, storeValue x f.d size L))) ∧
  ∀ (i : Instr) (size : Nat) (f : SmemForm), (i = .sst f ∧ size = 4) ∨ (i = .sstd f ∧ size = 8) → ∀ (s r : State) (x : Issue),
    Memory.wf s.lmem = true → Ready s x f.sp { sr := [f.b.toNat, f.d.toNat] } r → NoSafePoint x f.sp →
    let a := addrReg x.g f.ar.toNat
    let ea := scalarEa s x a f.b
    a.wr = true → NoAcquire x → NoRest s x → LocalRange x a size ea → LocalWritable s x.g.core (localAt x a ea) size →
    ∃ t, exec i s = .next t ∧
      StoredByRows s t x [(localAt x a ea, size, (scalarReg s x f.d.toNat).toNat % 2 ^ (8 * size))]

/-- R205 to R207, R195, Table Memory Instructions 4: an atomic on aligned words of full lines of its team's local store completes:
the lanes that are not helpers update their words in ascending lane order, each seeing what the lanes below it left; with
C = 0 an access is under way for D that holds each lane's old value, with C = 1 no register is written; every other byte
is as before. The new value is that of the atomic function; `addd` adds 64 bits. -/
def Obligations.LocalAtomics : Prop :=
  (∀ (i : Instr) (fn : Nat) (f : AtomForm), atomFn i = some (fn, f) → i.wf = true → ∀ (s r : State) (x : Issue),
    let size := atomSize fn
    Ready s x f.sp { lr := f.off.toNat :: (if fn = 1 ∨ fn = 10 then [f.d.toNat, f.d.toNat + 1] else [f.d.toNat])
                     lw := if f.c ∨ f.n then [] else pairOf f.d size } r → NoSafePoint x f.sp →
    let a := addrReg x.g f.ar.toNat
    let key := fun L => localAt x a (laneEa x a f.off L)
    let op := fun L => (key L, if fn = 1 then (laneReg x.t x.g f.d.toNat L).toNat + 2 ^ 32 * (laneReg x.t x.g (f.d.toNat + 1) L).toNat
      else (laneReg x.t x.g f.d.toNat L).toNat, (laneReg x.t x.g (f.d.toNat + 1) L).toNat)
    a.atm = true → a.rgn ≠ 5 → NoAcquire x → NoRest s x → (0 < f.ord.toNat → releaseReady r x.g 1 = true) →
    (∀ L ∈ x.liveLanes, LocalRange x a size (laneEa x a f.off L) ∧ laneEa x a f.off L % size = 0 ∧ key L % size = 0 ∧
      LocalReadable s (key L) size ∧ LocalWritable s x.g.core (key L) size) →
    x.liveLanes ≠ [] →
    ∃ t b, exec i s = .next t ∧ t.lmem = atomsDone fn s.lmem (x.liveLanes.map op) ∧
      b = { s with lmem := t.lmem, engines := t.engines, nextId := if f.c then s.nextId else s.nextId + 1 } ∧
      (f.c = true → After b t x x.view none (fun _ => x.cur.next)) ∧
      (f.c = false → ∃ T : Txn, T.id = s.nextId ∧ T.dest = .lanes f.d.toNat (if fn = 1 then 2 else 1) ∧ T.noWrite = f.n ∧
        T.out = 0 ∧ T.acquire = (if 0 < f.ord.toNat then some 1 else none) ∧
        (∀ pre L post, x.liveLanes = pre ++ L :: post → ∃ v : DWord, lookupNat L T.lanes = some v ∧
          v.toNat = memReadLE (atomsDone fn s.lmem (pre.map op)) (key L) size) ∧
        After b t x { x.view with txns := x.g.txns ++ [T] } (some (pendingLatch x f.n f.d.toNat x.liveLanes)) (fun _ => x.cur.next))) ∧
  ((∀ m d e : Word,
    atomNew 0 m.toNat d.toNat e.toNat = (sumWord m d).toNat ∧
    atomNew 2 m.toNat d.toNat e.toNat = (m &&& d).toNat ∧
    atomNew 3 m.toNat d.toNat e.toNat = (m ||| d).toNat ∧
    atomNew 4 m.toNat d.toNat e.toNat = (m ^^^ d).toNat ∧
    atomNew 5 m.toNat d.toNat e.toNat = (smaller m d).toNat ∧
    atomNew 6 m.toNat d.toNat e.toNat = (larger m d).toNat ∧
    atomNew 7 m.toNat d.toNat e.toNat = min m.toNat d.toNat ∧
    atomNew 8 m.toNat d.toNat e.toNat = max m.toNat d.toNat ∧
    atomNew 9 m.toNat d.toNat e.toNat = d.toNat ∧
    atomNew 10 m.toNat d.toNat e.toNat = (if m = d then e else m).toNat ∧
    atomNew 11 m.toNat d.toNat e.toNat = (f32Add ⟨.rne, false⟩ m d).1.toNat ∧
    atomNew 12 m.toNat d.toNat e.toNat = (bfAdd2 .rne m d).1.toNat ∧
    atomNew 13 m.toNat d.toNat e.toNat = (f32Pick true ⟨.rne, false⟩ m d).1.toNat ∧
    atomNew 14 m.toNat d.toNat e.toNat = (f32Pick false ⟨.rne, false⟩ m d).1.toNat ∧
    atomNew 15 m.toNat d.toNat e.toNat = if d.toNat ≤ m.toNat then 0 else m.toNat + 1) ∧
  ∀ (m d : DWord) (e : Nat), atomNew 1 m.toNat d.toNat e = (m + d).toNat)

/-- R200, R129: LOAD_RETURN of an access whose data is all back writes the lanes that hold a value, unless N = 1 or a later
instruction has written them since, and the access is over; an acquire at cluster scope or wider discards the leased lines
of its virtual function on the core; memory is as before. -/
def Obligations.LoadReturnWrites : Prop :=
  ∀ (s : State) (g : Group) (tm : Team) (T : Txn) (d n : Nat), s.group? s.ev.a s.ev.b = some g → s.team? g.team = some tm →
    g.txns.find? (fun t => t.id == s.ev.c) = some T → T.out = 0 → passTxn g T.id = false → T.dest = .lanes d n → d + n ≤ 120 →
    ∃ t g', exec .loadReturn s = .next t ∧ t.group? s.ev.a s.ev.b = some g' ∧ t.mem = s.mem ∧ t.lmem = s.lmem ∧
      (∀ q L, L < g.width → laneReg tm g' q L =
        match lookupNat L T.lanes with
        | some v => if T.noWrite = false ∧ d ≤ q ∧ q < d + n ∧ (∀ k ∈ T.dead, k.1 = q - d → k.2.getLsbD L = false) ∧ L < 64
            then v.extractLsb' (32 * (q - d)) 32 else laneReg tm g q L
        | none => laneReg tm g q L) ∧
      g'.arch.sregs = g.arch.sregs ∧ g'.arch.fpcr = g.arch.fpcr ∧ g'.arch.splits = g.arch.splits ∧
      (∀ U ∈ g'.txns, U.id ≠ T.id) ∧
      (∀ sc, T.acquire = some sc → 2 ≤ sc → ∀ c ∈ t.l1, c.core = g.core → c.vf = tm.vf →
        ∀ cls ex rn v e dd, c.kind ≠ .leased cls ex rn v e dd)

/-- R195, R200 to R202, R204 to R207, R221, R224, Table Memory Instructions 3 and 5: a load of global memory reads the lines that its L1 holds for its
policy, and asks the home of each other line once, as its policy says, its access waiting for as many answers; a store writes the L1
copy under the ownership policy where it holds the line for writing, and asks the home of each other line; an atomic goes to the
home of each line, but for a `C` = 1 update that joins a partial. Pages without `CA`, queue pages and lines with a live sync word
are accessed at the home. A release has been waited for and done first, and a sequentially consistent access asks for a timestamp.
A scalar access has the policy of its page; that a page of policy 10 names it no lease class is the model's reading (log 20), and
that a line the group has an earlier request for is asked for is its choice (log 86). A load that hits an expired line under renewal
goes on in Twilight. But for a store to a line the L1 holds, memory changes only when a home performs a request. -/
def Obligations.GlobalAccessAsks : Prop :=
  (∀ (i : Instr) (size : Nat) (f : MForm), loadSize i = some (size, f) → i.wf = true → ∀ (s r : State) (x : Issue) (fd : Found),
    Ready s x f.sp { lr := [f.off.toNat], lw := if f.n then [] else pairOf f.d size } r → NoSafePoint x f.sp →
    let a := addrReg x.g f.ar.toNat
    let ops := x.lanes.map fun L => (⟨L, laneEa x a f.off L, 0, 0⟩ : Machine.LaneOp)
    let o := ordOf f.pol f.ord
    let u := afterRelease r x o.releases
    checkLanes r x a (loadKind size) ops = .ok fd → GlobalClear r x a (loadKind size) fd → NotPoisoned r fd →
    (o.releases = true → releaseReady r x.g (scopeOf s x) = true) →
    ((∀ e ∈ linesOf fd.ok, ∀ c cls ex v ep d, u.l1? x.g.core e.1 = some c → c.kind = .leased cls ex true v ep d → s.ltick < ex) →
      ∃ t, exec i s = .next t ∧ LoadSent s u t x (.lanes f.d.toNat (if size = 8 then 2 else 1)) f.n o (fun _ => f.pol) f.ord.toNat
        (some (pendingLatch x f.n f.d.toNat x.lanes)) fd) ∧
    ∀ e c cls ex v ep d, linesOf fd.ok = [e] → f.pol = 2 → f.ord ≠ 0 → x.g.twi = none → atHome r e.2 e.1 = false →
      earlierReq r x e.1 = false → r.l1? x.g.core e.1 = some c → c.kind = .leased cls ex true v ep d → ex ≤ s.ltick →
      ∃ t g' w, exec i s = .next t ∧ t.reqs = s.reqs ∧ t.mem = s.mem ∧ t.lmem = s.lmem ∧ t.l1 = s.l1 ∧
        t.group? x.cur.core x.cur.slot = some g' ∧ g'.twi = some w ∧ w.own = s.nextId ∧ w.saved = x.g.arch ∧
        w.lines.map (fun l => (l.line, l.cls, l.ver, l.epo)) = [(e.1, cls, v, ep)]) ∧
  (∀ (i : Instr) (size : Nat) (f : SmemForm), (i = .sld f ∧ size = 4) ∨ (i = .sldd f ∧ size = 8) → ∀ (s r : State) (x : Issue) (fd : Found),
    Ready s x f.sp { sr := [f.b.toNat], sw := [f.d.toNat] } r → NoSafePoint x f.sp →
    let a := addrReg x.g f.ar.toNat
    checkLanes r (plainLane x) a (loadKind size) [⟨0, scalarEa s x a f.b, 0, 0⟩] = .ok fd → GlobalClear r x a (loadKind size) fd →
    NotPoisoned r fd →
    ∃ t, exec i s = .next t ∧ LoadSent s r t x (.scalar f.d.toNat) false .plain Page.pol 0 none fd) ∧
  (∀ (i : Instr) (size : Nat) (f : MForm), storeSize i = some (size, f) → i.wf = true → ∀ (s r : State) (x : Issue) (fd : Found),
    Memory.wf s.mem = true → Ready s x f.sp { lr := f.off.toNat :: pairOf f.d size } r → NoSafePoint x f.sp →
    let a := addrReg x.g f.ar.toNat
    let ops := x.liveLanes.map fun L => (⟨L, laneEa x a f.off L, BitVec.ofNat 64 (storeValue x f.d size L), 0⟩ : Machine.LaneOp)
    let o := ordOf f.pol f.ord
    checkLanes r x a (storeKind size) ops = .ok fd → GlobalClear r x a (storeKind size) fd → Writable r fd →
    (o.releases = true → releaseReady r x.g (scopeOf s x) = true) →
    ∃ t, exec i s = .next t ∧ StoreSent s (afterRelease r x o.releases) t x o (fun _ => f.pol) fd) ∧
  (∀ (i : Instr) (size : Nat) (f : SmemForm), (i = .sst f ∧ size = 4) ∨ (i = .sstd f ∧ size = 8) → ∀ (s r : State) (x : Issue) (fd : Found),
    Memory.wf s.mem = true → Ready s x f.sp { sr := [f.b.toNat, f.d.toNat] } r → NoSafePoint x f.sp →
    let a := addrReg x.g f.ar.toNat
    checkLanes r (plainLane x) a (storeKind size)
      [⟨0, scalarEa s x a f.b, BitVec.ofNat 64 ((scalarReg s x f.d.toNat).toNat % 2 ^ (8 * size)), 0⟩] = .ok fd →
    GlobalClear r x a (storeKind size) fd → Writable r fd →
    ∃ t, exec i s = .next t ∧ StoreSent s r t x .plain Page.pol fd) ∧
  ∀ (i : Instr) (fn : Nat) (f : AtomForm), atomFn i = some (fn, f) → i.wf = true → ∀ (s r : State) (x : Issue) (fd : Found),
    Ready s x f.sp { lr := f.off.toNat :: (if fn = 1 ∨ fn = 10 then [f.d.toNat, f.d.toNat + 1] else [f.d.toNat])
                     lw := if f.c ∨ f.n then [] else pairOf f.d (atomSize fn) } r → NoSafePoint x f.sp →
    let a := addrReg x.g f.ar.toNat
    let lo (L : Nat) : Nat := (laneReg x.t x.g f.d.toNat L).toNat
    let hi (L : Nat) : Nat := (laneReg x.t x.g (f.d.toNat + 1) L).toNat
    let ops := x.liveLanes.map fun L => (⟨L, laneEa x a f.off L, BitVec.ofNat 64 (if fn = 1 then lo L + 2 ^ 32 * hi L else lo L),
      BitVec.ofNat 64 (if fn = 10 then hi L else 0)⟩ : Machine.LaneOp)
    checkLanes r x a (atomKind fn) ops = .ok fd → GlobalClear r x a (atomKind fn) fd → Writable r fd →
    (f.c = false → NotPoisoned r fd) → (0 < f.ord.toNat → releaseReady r x.g (scopeOf s x) = true) →
    ∃ t, exec i s = .next t ∧ AtomSent s (afterRelease r x (decide (0 < f.ord.toNat))) t x fn f fd

/-! ## Sketches -/

/-- R191, R210, R212: `skins` and `skdel` complete: each lane that is not a helper inserts or deletes its key D+1:D with
weight D+2, in ascending lane order, in the region it names; no register changes. -/
def Obligations.SketchUpdates : Prop :=
  ∀ (del : Bool) (f : SkForm) (s r : State) (x : Issue) (fd : Found),
    Ready s x f.sp { lr := [f.off.toNat, f.d.toNat, f.d.toNat + 1, f.d.toNat + 2] } r → NoSafePoint x f.sp →
    SketchClear r x f (skKind true false) (keySpans true) x.liveLanes (fun d => !del || d.deletable) fd →
    ∃ t, exec (if del then .skdel f else .skins f) s = .next t ∧
      After (sketchUpdates del r x fd.ok) t x x.view none (fun _ => x.cur.next)

/-- R191, R192, R193, R211 to R213: `skqry` and `skrank` complete: an access is under way for D+1:D that holds each lane's
answer, formed from its region as it then stands, below the region's status; memory holds what the partials of the lines
read leave. `skmerge`, `skfold`, `skclear` and `skinfo` complete: each distinct region the lanes name is acted on once, and
an access is under way for D+1:D that holds, for each lane, the parameter word and the status of its region as it then
stands. -/
def Obligations.SketchQueriesAndRegions : Prop :=
  (∀ (rank : Bool) (f : SkForm) (s r : State) (x : Issue) (fd : Found),
    Ready s x f.sp { lr := [f.off.toNat, f.d.toNat, f.d.toNat + 1], lw := if f.n then [] else [f.d.toNat, f.d.toNat + 1] } r →
    NoSafePoint x f.sp → SketchClear r x f (skKind false true) (keySpans false) x.lanes (fun d => !rank || d.ty = 3) fd →
    ∃ t T, exec (if rank then .skrank f else .skqry f) s = .next t ∧
      T.id = (fd.ok.foldl (fun s l => settled s x l) r).nextId ∧ T.dest = .lanes f.d.toNat 2 ∧ T.noWrite = f.n ∧ T.out = 0 ∧
      After (fd.ok.foldl (fun s l => settled s x l) r).numbered t x { x.view with txns := x.g.txns ++ [T] }
        (some (pendingLatch x f.n f.d.toNat x.lanes)) (fun _ => x.cur.next) ∧
      ∀ pre l post d base, fd.ok = pre ++ l :: post →
        laneSketch (pre.foldl (fun s l => settled s x l) r) x l = some (d, base) →
        let u := settled (pre.foldl (fun s l => settled s x l) r) x l
        lookupNat l.op.lane T.lanes = some (skPair
          (if rank then d.rank base u.mem (l.op.data.setWidth 32)
            else d.query base u.mem l.op.data (l.op.data.toNat % 2 ^ 32))
          (skStatus d (memReadLE u.mem d.at_ 8) false))) ∧
  (∀ (i : Instr) (w : WholeWork), wholeWork i = some w → ∀ (s r : State) (x : Issue) (fd : Found),
    Ready s x w.f.sp { lr := w.f.off.toNat :: (List.range w.reads).map (fun j => w.f.d.toNat + j)
                       lw := if w.f.n then [] else [w.f.d.toNat, w.f.d.toNat + 1] } r → NoSafePoint x w.f.sp →
    SketchClear r x w.f (skKind w.op.write true) w.op.spans x.liveLanes (fun _ => true) fd →
    let rs := regionsNamed r x fd.ok
    (∀ q ∈ rs, w.op.check r x q.2.2 = none) →
    ∃ t T, exec i s = .next t ∧ T.id = (regionsActed w.op r x rs).nextId ∧
      T.dest = .lanes w.f.d.toNat 2 ∧ T.noWrite = w.f.n ∧ T.out = 0 ∧ T.lanes.map (·.1) = fd.ok.map (·.op.lane) ∧
      After (regionsActed w.op r x rs).numbered t x { x.view with txns := x.g.txns ++ [T] }
        (some (pendingLatch x w.f.n w.f.d.toNat x.liveLanes)) (fun _ => x.cur.next) ∧
      ∀ pre q post l d base, rs = pre ++ q :: post → l ∈ fd.ok → laneSketch r x l = some (d, base) → d.at_ = q.1.at_ →
        lookupNat l.op.lane T.lanes = some (regionAnswer w.op (regionsActed w.op r x pre) x q))

/-- R191, R192, Table Memories 8: in a frequency sketch, inserting weight w of a key raises the estimate of that key by w, up to
the largest value of a cell, and deleting a key just inserted restores every cell, where none saturated. -/
def Obligations.FrequencySketch : Prop :=
  (∀ (d : SkDesc) (base : Nat) (mem : List Host.Cell) (key : DWord) (w q : Nat) (v : Word), Memory.wf mem = true →
    d.ty = 0 → d.paramsOk = true →
    d.query base (d.insert base mem key w v).1 key q = min (2 ^ d.cw - 1) (d.query base mem key q + w)) ∧
  (∀ (d : SkDesc) (base : Nat) (mem : List Host.Cell) (key : DWord) (w : Nat) (v : Word), Memory.wf mem = true →
    d.ty = 0 → d.paramsOk = true → (d.insert base mem key w v).2 = 0 →
    (d.delete base (d.insert base mem key w v).1 key w).1 = mem ∧ (d.delete base (d.insert base mem key w v).1 key w).2 = 0)

/-! ## Remote instructions -/

/-- R215, R216, R218: a remote store or update completes at issue: each lane that is not a helper sends one packet to the
module it names, in ascending lane order; memory changes only when a packet is performed at its target. -/
def Obligations.RemotePuts : Prop :=
  ∀ (i : Instr) (o : RemOp) (data : Nat) (f : RmForm), putWork i = some (o, data, f) → i.wf = true →
    ∀ (s r : State) (x : Issue) (fd : RFound), Ready s x f.sp (remoteUse { f with n := true } data 0) r → NoSafePoint x f.sp →
    RemoteClear r x f o (formLanes x f o) fd →
    ∃ t, exec i s = .next t ∧ After { s with streams := t.streams } t x x.view none (fun _ => x.cur.next) ∧
      Sent s t x.g.core fun p => (fd.ok.filter fun l => l.2 == p).map fun l => lanesPacket s x o [(l.1, l.1.op.lane)] none

/-- R215, R216, R219: the first execution of a remote instruction that returns a value sends, for each lane of the lowest peer in
ascending lane order, one packet that carries the lane's address and data, and the split waits for their replies; `rcas` and
`rxchg` release first. Once they are back, each lane's reply is in D (and D+1), unless N = 1 or a later instruction has written
it (R129), and the pass to the next peer is sent in the same way. When the replies of the last pass are back the instruction
completes: the latch holds the low words; `rcas` and `rxchg` acquire. -/
def Obligations.RemoteGetResults : Prop :=
  ∀ (i : Instr) (o : RemOp) (regs data : Nat) (f : RmForm), getWork i = some (o, regs, data, f) → i.wf = true →
    ∀ (s r : State) (x : Issue), ReadyPass s x f data regs r →
    let pass (u : State) (ls : List RLane) (fd : RFound) (acq : Option Nat) (dead : List (Nat × Mask)) (keep : List RemLane) : Prop :=
      ∃ t, exec i s = .next t ∧
        PassSent u t x ⟨u.nextId, x.active, .lanes f.d.toNat regs, f.n, (nextOnes fd ls).map fun l => (l.1.op.lane, 0),
          (nextOnes fd ls).length, dead, acq⟩ keep false
          fun p => ((nextOnes fd ls).filter fun l => decide (l.2 = p)).map fun l =>
            lanesPacket { u with nextId := u.nextId + 1 } x o [(l.1, l.1.op.lane)] (some u.nextId)
    (x.sp.passTxn = none → x.sp.rem = none → formLanes x f o ≠ [] →
      (∀ e ∈ formLanes x f o, remAddrCheck x (addrReg x.g f.ar.toNat) (remKind o) o.fn e.1.ea = none) →
      (∀ e ∈ formLanes x f o, e.2 < 16 ∧ s.inFabric e.2 = true) →
      (o.ordered = true → releaseReady r x.g (capScope r x 5).1 = true) →
      let u := if o.ordered then releasedRemote r x else r
      ∀ fd, PassClear u x o (formLanes x f o) fd →
        pass u (formLanes x f o) fd (if o.ordered then some (capScope r x 5).1 else none) [] ((formLanes x f o).map RLane.keep)) ∧
    ∀ (T : Txn) (id : Nat), x.sp.passTxn = some id → x.g.txns.find? (fun t => t.id == id) = some T →
      (0 < T.out → ∃ t, exec i s = .next t ∧ Waits s t x) ∧
      (T.out = 0 → T.lanes = [] → ∀ ls, x.sp.rem = some ls →
        let left := (ls.map RemLane.lane_).filter fun e => decide (e.1.lane ∉ x.sp.got.map (·.1))
        ∀ fd, PassClear r x o left fd → left ≠ [] → pass r left fd T.acquire T.dead ls) ∧
      (T.out = 0 → T.lanes ≠ [] → (∀ e ∈ T.lanes, e.1 < 64) →
        ((∃ ls, x.sp.rem = some ls ∧ ∃ q ∈ ls, q.lane ∉ (x.sp.got ++ T.lanes).map (·.1)) →
          ∃ t g', exec i s = .next t ∧ t = { r with groups := t.groups } ∧ t.group? x.cur.core x.cur.slot = some g' ∧
            (∀ q L, L < x.g.width → laneReg x.t g' q L = (written x f.n f.d.toNat regs T T.lanes []).lane q L) ∧
            g'.txns.map (·.id) = x.g.txns.map (·.id) ∧
            (∀ U ∈ g'.txns, U.id = id → U.lanes = []) ∧
            (∀ p ∈ g'.arch.splits, p.slot = x.cur.split → p.got = x.sp.got ++ T.lanes) ∧
            g'.arch.splits.map (fun p => (p.slot, p.pc, p.mask, p.passTxn)) =
              x.g.arch.splits.map fun p => (p.slot, p.pc, p.mask, p.passTxn)) ∧
        (NoSafePoint x f.sp → x.sp.resume = 0 →
          (∀ q ∈ x.sp.rem.getD [], q.lane ∈ (x.sp.got ++ T.lanes).map (·.1)) →
          (∀ L ∈ x.liveLanes, L ∈ (x.sp.got ++ T.lanes).map (·.1)) →
          ∃ t txns, exec i s = .next t ∧
            After { s with modules := t.modules, l1 := t.l1 } t x (written x f.n f.d.toNat regs T T.lanes txns)
              (some fun L => match lookupNat L (x.sp.got ++ T.lanes) with
                | some v => v.extractLsb' 0 32
                | none => if f.n then 0 else laneReg x.t x.g f.d.toNat L)
              (fun _ => x.cur.next) ∧
            (∀ U ∈ txns, U.id ≠ id) ∧ txns.map (·.id) = (x.g.txns.filter fun U => U.id ≠ id).map (·.id) ∧
            (o.ordered = false → t.modules = s.modules ∧ t.l1 = s.l1) ∧
            (o.ordered = true → 2 ≤ (s.vf x.m x.t.vf).cap.toNat → ∀ c ∈ t.l1, c.core = x.g.core → c.vf = x.t.vf →
              ∀ cls ex rn v e d, c.kind ≠ .leased cls ex rn v e d)))

/-- R119, R217: the first execution of `rredf` and `rredh` sends one fetch to each member for each line and mask that lanes
share, and the split waits. When every member's word is back they complete: D of each lane that is not a helper holds the
sum of the words of its members in ascending module number, rounded to nearest even at each addition, every NaN canonical
(R102), and +0 for an empty mask, unless N = 1 or a later instruction has written it. -/
def Obligations.PullReductionResults : Prop :=
  ∀ (half : Bool) (f : RmForm) (s r : State) (x : Issue), nOk f.n f.d = true → ReadyPass s x f 0 1 r →
    let i : Instr := if half then .rredh f else .rredf f
    let o : RemOp := ⟨.read, 4, true, false⟩
    (x.sp.passTxn = none → x.sp.rem = none → memberLanes x f ≠ [] →
      (∀ L ∈ x.liveLanes, addrCheck x (addrReg x.g f.ar.toNat) (remKind o) (remoteEa x f L) = none) →
      (∀ L ∈ x.liveLanes, peerWord x f L < 2 ^ 16 ∧ ∀ n ∈ membersOf (peerWord x f L), s.inFabric n = true) →
      ∀ fd, FetchClear r x o (memberLanes x f) fd →
        let fetches := sharedFetches x f fd.ok
        ∃ t, exec i s = .next t ∧
          PassSent r t x ⟨r.nextId, x.active, .lanes f.d.toNat 1, f.n, fetches.flatMap fun k => k.2.map fun l => (l.2, 0),
            fetches.length, [], none⟩ ((memberLanes x f).map RLane.keep) false
            fun p => (fetches.filter fun k => decide (k.1 = p)).map fun k =>
              lanesPacket { r with nextId := r.nextId + 1 } x o k.2 (some r.nextId)) ∧
    ∀ (T : Txn) (id : Nat), x.sp.passTxn = some id → x.g.txns.find? (fun t => t.id == id) = some T →
      (0 < T.out → ∃ t, exec i s = .next t ∧ Waits s t x) ∧
      (T.out = 0 → x.sp.resume = 0 → NoSafePoint x f.sp →
        let sum (L : Nat) : Word := memberFold half (fun n => ((lookupNat (n * 64 + L) T.lanes).getD 0).extractLsb' 0 32)
          ((List.range 16).filter fun n => (lookupNat (n * 64 + L) T.lanes).isSome)
        ∃ t txns, exec i s = .next t ∧
          After s t x { x.view with
              lane := fun q L => if f.n = false ∧ q = f.d.toNat ∧ x.live.getLsbD L = true ∧
                  T.dead.all (fun k => k.1 != 0 || !k.2.getLsbD L) = true then sum L else laneReg x.t x.g q L
              txns := txns }
            (some fun L => if x.live.getLsbD L then sum L else if f.n then 0 else laneReg x.t x.g f.d.toNat L)
            (fun _ => x.cur.next) ∧
          (∀ U ∈ txns, U.id ≠ id))

/-! ## Matrix engine -/

/-- R127, R281, R289, R293, R294: `gang` sets the gang register to 0 or to a gang the group is in, `mscale` the stream format and scale
of MSC, and `mrdy` goes on, or waits while a store of its group has a bank row still to reach; a gang that is none, or reserved values of MSC, raise ILLOPND, and `gang` of a group that
holds a reservation MATRIX. `mwait` completes once every operation it waits for is complete, with their number and the
union of their status bits, and reports none of them again. `mrel` of a solo holder with no open operation gives the
reservation up: the entry is free, or will be once its operations have been performed. -/
def Obligations.MatrixStateAndWaits : Prop :=
  ((∀ (f : EpForm) (s r : State) (x : Issue), Ready s x f.sp { sr := [f.p.toNat] } r →
    let v := scalarReg s x f.p.toNat
    (x.g.mentry = none → (v = 0 ∨ gangOk s x v = true) → NoSafePoint x f.sp →
      ∃ t, exec (.gang f) s = .next t ∧ After s t x { x.view with gang := v } none (fun _ => x.cur.next)) ∧
    (x.g.mentry = none → v ≠ 0 → gangOk s x v = false → exec (.gang f) s = .next (takeTrap s x (trapAll .illopnd))) ∧
    (x.g.mentry ≠ none → exec (.gang f) s = .next (takeTrap s x (trapAll .matrix)))) ∧
  (∀ (f : EpForm) (s r : State) (x : Issue), Ready s x f.sp { sr := [f.p.toNat] } r →
    let v := scalarReg s x f.p.toNat
    let legal := v.extractLsb' 16 48 = 0 ∧ v.extractLsb' 6 2 = 0 ∧ v.extractLsb' 4 2 ≠ 3 ∧ v.extractLsb' 0 4 ≠ 15
    (legal → NoSafePoint x f.sp →
      ∃ t, exec (.mscale f) s = .next t ∧ After s t x { x.view with msc := v } none (fun _ => x.cur.next)) ∧
    (¬legal → exec (.mscale f) s = .next (takeTrap s x (trapAll .illopnd)))) ∧
  ∀ (f : EsForm) (s r : State) (x : Issue), Ready s x f.sp {} r → NoSafePoint x f.sp →
    (NoRest s x → ∃ t, exec (.mrdy f) s = .next t ∧ After s t x x.view none (fun _ => x.cur.next)) ∧
    (¬NoRest s x → ∃ t, exec (.mrdy f) s = .next t ∧ Waits s t x)) ∧
  ((∀ (f : EpqForm) (s r : State) (x : Issue), Ready s x f.sp { sr := [f.p.toNat], sw := [f.q.toNat] } r → NoSafePoint x f.sp →
    let m := min (scalarReg s x f.p.toNat).toNat x.g.mseq
    ((∀ p ∈ x.g.mposts, p.seq ≤ m → p.status ≠ none) → (x.g.mposts.filter fun p => p.seq ≤ m).length ≤ 65535 →
      ∃ t u v, exec (.mwait f) s = .next t ∧ After s u x (x.view.putScalar f.q.toNat v) none (fun _ => x.cur.next) ∧
        (v.extractLsb' 16 16).toNat = (x.g.mposts.filter fun p => p.seq ≤ m).length ∧ v.toNat < 2 ^ 32 ∧
        (∀ b, b < 16 → (v.getLsbD b = true ↔ ∃ p ∈ x.g.mposts, p.seq ≤ m ∧ ∃ st, p.status = some st ∧ st.getLsbD b = true)) ∧
        t = u.modGroup x.cur.core x.cur.slot fun g => { g with mposts := x.g.mposts.filter fun p => decide (m < p.seq) }) ∧
    ((∃ p ∈ x.g.mposts, p.seq ≤ m ∧ p.status = none) → ∃ t, exec (.mwait f) s = .next t ∧ Waits s t x)) ∧
  ∀ (f : EsForm) (s r : State) (x : Issue), Ready s x f.sp {} r → NoSafePoint x f.sp →
    (x.g.mentry = none → ∃ t, exec (.mrel f) s = .next t ∧ After s t x x.view none (fun _ => x.cur.next)) ∧
    ∀ n, x.g.mentry = some n → n < (s.engine x.cluster).entries.length → (∀ p ∈ x.g.mposts, p.status ≠ none) →
      let e := (s.engine x.cluster).entry n
      e.gang = 0 → e.st ≠ 0 →
      ∃ t u, exec (.mrel f) s = .next t ∧ After s u x x.view none (fun _ => x.cur.next) ∧
        t = { u.modGroup x.cur.core x.cur.slot fun g => { g with mentry := none } with engines := t.engines } ∧
        (t.engine x.cluster).entry n =
          if e.posted = [] ∧ ((s.engine x.cluster).running.map (·.1)) ≠ some n then MEntry.free else { e with exited := true })

/-- R287, R290: `mreq` writes the number of the group's reservation: the one it holds, else the entry its gang gathers in,
which it joins, else the lowest free entry, which it takes; with no entry free `mreq` waits and `mreq … try` writes 2^63.
A solo entry waits for a grant at once, a gang's once all its members have posted. Which entries a member may join, those of its own
band, is the model's reading of R287 (log 58). -/
def Obligations.MatrixReservation : Prop :=
  ∀ (again : Bool) (f : EpForm) (s r : State) (x : Issue), Ready s x f.sp { sw := [f.p.toNat] } r → NoSafePoint x f.sp →
    let out := exec (if again then .mreqTry f else .mreq f) s
    let e := s.engine x.cluster
    let v := x.g.arch.gang
    let k := gangIndex v x.t.num x.g.num
    let done (v : DWord) (t : State) : Prop := After s t x (x.view.putScalar f.p.toNat v) none (fun _ => x.cur.next)
    let takes (i : Nat) (y : MEntry) (t : State) : Prop :=
      EngineKeeps s t x.cluster i ∧ (t.engine x.cluster).entry i = y ∧
      ∃ u, done (BitVec.ofNat 64 i) u ∧
        t = { u.modGroup x.cur.core x.cur.slot fun g => { g with mentry := some i } with engines := t.engines }
    (∀ i, x.g.mentry = some i → ∃ t, out = .next t ∧ done (BitVec.ofNat 64 i) t) ∧
    (x.g.mentry = none → e.entries.length = 16 →
      (∀ i, i < 16 → v ≠ 0 → joins x s (e.entry i) = true → (∀ j, j < i → joins x s (e.entry j) = false) →
        let arr := (e.entry i).arr ||| gangBit k
        let y := { e.entry i with rel := (e.entry i).rel &&& ~~~gangBit k }
        ∃ t, out = .next t ∧ (t.engine x.cluster).nextPseq = e.nextPseq ∧
          takes i (if allMembers v arr then { y with st := 2, arr := 0 } else { y with arr := arr }) t) ∧
      ((∀ j, v ≠ 0 → joins x s (e.entry j) = true → 16 ≤ j) →
        (∀ i, i < 16 → (e.entry i).st = 0 → (∀ j, j < i → (e.entry j).st ≠ 0) →
          let head := if v = 0 then (x.t.num, x.g.num) else (gangMembers v).headD (x.t.num, x.g.num)
          ∃ t, out = .next t ∧ (t.engine x.cluster).nextPseq = e.nextPseq + 1 ∧
            takes i
              { MEntry.free with
                st := if v = 0 then 2 else 1
                pseq := e.nextPseq
                pri := ((bandTeamNo s x.t head.1).getD x.t).prio
                arr := if v = 0 then 0 else gangBit k
                hold := BitVec.ofNat 7 (head.1 * 32 + head.2)
                gang := v
                team := x.t.uid } t) ∧
        ((∀ j, j < 16 → (e.entry j).st ≠ 0) →
          if again then ∃ t, out = .next t ∧ done (BitVec.ofNat 64 (2 ^ 63)) t else ∃ t, out = .next t ∧ Waits s t x)))

/-- R287: at the rendezvous latch of a gang whose members have all posted a reservation and none has released it, a member
of a joint instruction arrives and waits, `MEM0` of a joint `mwl` with the descriptor all will run it on; the last to arrive
releases all; a member that has been released leaves the latch with the descriptor that stood there, and its split goes on; where
another joint instruction has arrived, or a member has exited (R296), MATRIX. -/
def Obligations.MatrixRendezvous : Prop :=
  ∀ (i : Instr) (kind : Nat) (f : EpqForm), matrixKind i = some (kind, f) → ∀ (s r : State) (x : Issue) (n : Nat),
    Ready s x f.sp { sr := [f.p.toNat], sw := [f.q.toNat] } r → x.g.mentry = some n → n < (s.engine x.cluster).entries.length →
    let e := (s.engine x.cluster).entry n
    let bit := gangBit (gangIndex e.gang x.t.num x.g.num)
    e.gang ≠ 0 → x.sp.resume ≠ kind + 1 → gangIndex e.gang x.t.num x.g.num < 6 → (gangMembers e.gang).length ≤ 6 →
    (e.go &&& bit = 0 → ¬MembersHere s e x.t → exec i s = .next (takeTrap s x (trapAll .matrix))) ∧
    (MembersHere s e x.t → e.st ≠ 1 → e.rel = 0 →
    let moves (y : MEntry) (t : State) : Prop := EngineKeeps s t x.cluster n ∧ (t.engine x.cluster).entry n = y ∧
      (t.engine x.cluster).nextPseq = (s.engine x.cluster).nextPseq ∧ Waits { s with engines := t.engines } t x
    (e.go = 0 → (e.arr = 0 ∨ e.joint = some kind) →
      let arr := (if e.joint = some kind then e.arr else 0) ||| bit
      let y := if kind = 0 ∧ gangIndex e.gang x.t.num x.g.num = 0 then { e with mwd := scalarReg s x f.p.toNat } else e
      ∃ t, exec i s = .next t ∧ moves (if allMembers e.gang arr then { y with arr := 0, go := arr, joint := some kind }
        else { y with arr := arr, joint := some kind }) t) ∧
    (e.go &&& bit ≠ 0 → e.joint = some kind →
      ∃ t, exec i s = .next t ∧ moves { e with go := e.go &&& ~~~bit } t ∧
        ∀ g', t.group? x.cur.core x.cur.slot = some g' → ∀ p ∈ g'.arch.splits, p.slot = x.cur.split →
          p.resume = kind + 1 ∧ p.got = [(0, e.mwd)]) ∧
    (e.go = 0 → e.arr ≠ 0 → e.joint ≠ some kind → exec i s = .next (takeTrap s x (trapAll .matrix))))

/-- R291, R292: `mwl`, `mpass` and `mdrain` of a solo holder, or of a gang member past the rendezvous, complete when their
descriptor is legal and fewer than four operations of the group are open: the operation joins those posted to the entry,
MSEQ counts it, sQ holds its number, and the windows it names are touched. Without a reservation they raise MATRIX, or
ILLOPND for reserved bits. -/
def Obligations.MatrixPosting : Prop :=
  ∀ (i : Instr) (kind : Nat) (f : EpqForm), matrixKind i = some (kind, f) → ∀ (s r : State) (x : Issue),
    Ready s x f.sp { sr := [f.p.toNat], sw := [f.q.toNat] } r →
    let d := scalarReg s x f.p.toNat
    (∀ n, x.g.mentry = some n → n < (s.engine x.cluster).entries.length → NoSafePoint x f.sp →
      let e := (s.engine x.cluster).entry n
      let mem := if e.gang = 0 then 0 else gangIndex e.gang x.t.num x.g.num
      let m := x.g.mseq + 1
      (e.gang = 0 ∨ x.sp.resume = kind + 1) → ∀ op named wd windows,
      matrixPost s x kind mem e (if kind = 0 ∧ e.gang ≠ 0 then ((x.sp.got.head?).map (·.2)).getD e.mwd else d) =
        some (op, named, wd, windows) → (windows = [] ∨ NoRest s x) →
      (x.g.mposts.filter fun p => p.status.isNone).length < 4 →
      ∃ t t0 u, exec i s = .next t ∧ t = windows.foldl (fun s w => touchKeys s x.g.core x.g.slot named (lineRun w.1 w.2)) t0 ∧
        After s u x (x.view.putScalar f.q.toNat (BitVec.ofNat 64 m)) none (fun _ => x.cur.next) ∧
        t0 = { u.modGroup x.cur.core x.cur.slot fun g => { g with mseq := m, mposts := x.g.mposts ++ [⟨m, s.nextId, op, none, false⟩] } with
          engines := t0.engines, nextId := s.nextId + 1 } ∧
        EngineKeeps s t0 x.cluster n ∧ (t0.engine x.cluster).nextPseq = (s.engine x.cluster).nextPseq ∧
        (t0.engine x.cluster).entry n =
          { e with wd := wd, posted := e.posted ++ [postedTask s x mem named op] }) ∧
    (x.g.mentry = none → exec i s = .next (takeTrap s x (trapAll
      (if d.extractLsb' (if kind = 0 then 40 else if kind = 1 then 41 else 52) (if kind = 0 then 24 else if kind = 1 then 23 else 12) = 0
        then .matrix else .illopnd))))

/-! ## Copies and windows -/

/-- R269, R270, R173, R299: `touch` of a bound, absent entry starts its copy: the entry is loading, the lines of its window
are pending, and the copy is on the group's pending list; of any other entry it does nothing. `close` makes a batch of the
pending list under the next number, and `waitb` goes on once the batches up to a number are complete. A seventeenth incomplete
batch waits, which is no group switch, and so does a `touch` while an access of its group has a bank row still to reach (R200,
R227). That every line of the window becomes pending, a full one too, is the model's choice (log 83). -/
def Obligations.CopyInstructions : Prop :=
  (∀ (f : EpForm) (s r : State) (x : Issue), Ready s x f.sp {} r → NoSafePoint x f.sp →
    let e := x.t.region f.p.toNat
    (¬NoRest s x → ∃ t, exec (.touch f) s = .next t ∧ Pauses s t x) ∧
    (NoRest s x → ∃ t u, exec (.touch f) s = .next t ∧ After s u x x.view none (fun _ => x.cur.next) ∧
      ((e.st ≠ 1 ∨ e.src = 2) → t = u) ∧
      (e.st = 1 → e.src ≠ 2 → ∃ c, t.copies = s.copies ++ [c] ∧ c.id = s.nextId ∧ c.team = x.t.uid ∧ c.entry = f.p.toNat ∧
        c.core = x.g.core ∧ c.slot = x.g.slot ∧ c.reg = e ∧ c.landed = [] ∧ c.lines = e.rows * e.perRow ∧
        c.dests.head? = some (x.t.core, x.t.uid, x.t.gen) ∧ RegionSet s t x f.p.toNat { e with st := 2 } ∧
        (∀ k ∈ e.keys x.t, t.lineState k = some .pending) ∧
        t = { u.modGroup x.cur.core x.cur.slot fun g => { g with pending := x.g.pending ++ [s.nextId] } with
          copies := t.copies, teams := t.teams, lines := t.lines, nextId := s.nextId + 1 }))) ∧
  (∀ (f : EpForm) (s r : State) (x : Issue), Ready s x f.sp { sw := [f.p.toNat] } r → NoSafePoint x f.sp →
    let b := x.g.bseq + 1
    ((x.g.batches.length < 16 ∨ x.g.pending = []) →
      ∃ t u, exec (.close f) s = .next t ∧ After s u x (x.view.putScalar f.p.toNat (BitVec.ofNat 64 b)) none (fun _ => x.cur.next) ∧
        t = u.modGroup x.cur.core x.cur.slot fun g => { g with
          bseq := b, pending := [], batches := if x.g.pending = [] then x.g.batches else x.g.batches ++ [⟨b, x.g.pending⟩] }) ∧
    (16 ≤ x.g.batches.length → x.g.pending ≠ [] → ∃ t, exec (.close f) s = .next t ∧ Pauses s t x)) ∧
  ∀ (f : EpForm) (s r : State) (x : Issue), Ready s x f.sp { sr := [f.p.toNat] } r → NoSafePoint x f.sp →
    let m := min (scalarReg s x f.p.toNat).toNat x.g.bseq
    ((∀ b ∈ x.g.batches, m < b.seq) → ∃ t, exec (.waitb f) s = .next t ∧ After s t x x.view none (fun _ => x.cur.next)) ∧
    ((∃ b ∈ x.g.batches, b.seq ≤ m) → ∃ t, exec (.waitb f) s = .next t ∧ Waits s t x)

/-- R298, R300: `bind` makes an entry of an image with its window's lines empty, `unbind` empties it, `seal` seals it under
the core's next sequence number and writes the handle, `unseal` ends that once no copy reads it; where the rules refuse an
operation it raises ILLOPND, and while a copy of the entry or a reader is under way it waits; `bind` and `seal` wait, without a
group switch, for the bank rows an access of the group has still to reach (R227). -/
def Obligations.RegionTable : Prop :=
  (∀ (f : EpqForm) (s r : State) (x : Issue), Ready s x f.sp { sr := [f.q.toNat, f.q.toNat + 1, f.q.toNat + 2] } r →
    x.t.regions.length = 64 →
    let old := x.t.region f.p.toNat
    let e : Region := { old with
      w0 := scalarReg s x f.q.toNat
      w1 := scalarReg s x (f.q.toNat + 1)
      w2 := scalarReg s x (f.q.toNat + 2)
      st := 1 }
    let legal := f.q.toNat ≤ 61 ∧ old.sealed = false ∧ e.illFormed = false ∧ windowBad x.t e = false ∧ castBad s x.t e = false
    (legal → old.st ≠ 2 → ¬NoRest s x → ∃ t, exec (.bind f) s = .next t ∧ Pauses s t x) ∧
    (legal → old.st ≠ 2 → NoRest s x → NoSafePoint x f.sp →
      ∃ t u, exec (.bind f) s = .next t ∧ After s u x x.view none (fun _ => x.cur.next) ∧ RegionSet s t x f.p.toNat e ∧
        (∀ k, t.lineState k = if k ∈ e.keys x.t then none else s.lineState k) ∧
        t = { u with teams := t.teams, lines := t.lines, lpoison := t.lpoison }) ∧
    (¬legal → exec (.bind f) s = .next (takeTrap s x (trapAll .illopnd))) ∧
    (legal → old.st = 2 → ∃ t, exec (.bind f) s = .next t ∧ Waits s t x)) ∧
  (∀ (f : EpForm) (s r : State) (x : Issue), Ready s x f.sp {} r → x.t.regions.length = 64 →
    let e := x.t.region f.p.toNat
    let runs (i : Instr) (e : Region) : Prop := ∃ t u, exec i s = .next t ∧ After s u x x.view none (fun _ => x.cur.next) ∧
      RegionSet s t x f.p.toNat e ∧ t = { u with teams := t.teams }
    (e.st ≠ 2 → e.sealed = false → NoSafePoint x f.sp → runs (.unbind f) { e with st := 0 }) ∧
    (e.st ≠ 2 → e.sealed = true → exec (.unbind f) s = .next (takeTrap s x (trapAll .illopnd))) ∧
    (e.st = 2 → ∃ t, exec (.unbind f) s = .next t ∧ Waits s t x) ∧
    (e.rcnt = 0 → NoSafePoint x f.sp → runs (.unseal f) { e with sealed := false }) ∧
    (0 < e.rcnt → ∃ t, exec (.unseal f) s = .next t ∧ Waits s t x)) ∧
  ∀ (f : EpqForm) (s r : State) (x : Issue), Ready s x f.sp { sw := [f.q.toNat] } r → x.t.regions.length = 64 →
    let e := x.t.region f.p.toNat
    let n := (s.core x.g.core).sealSeq + 1
    ((e.st = 1 ∨ e.st = 3) → NoSafePoint x f.sp →
      NoRest s x → ∃ t u v, exec (.seal f) s = .next t ∧ After s u x (x.view.putScalar f.q.toNat v) none (fun _ => x.cur.next) ∧
        (v.extractLsb' 0 6).toNat = x.t.core % 64 ∧ v.extractLsb' 6 6 = f.p ∧ v.extractLsb' 12 4 = 0 ∧
        v.extractLsb' 16 16 = x.t.gen ∧ v.extractLsb' 32 16 = n ∧ v.extractLsb' 48 16 = 0 ∧
        RegionSet s t x f.p.toNat { e with sealed := true, ssq := n } ∧ (t.core x.g.core).sealSeq = n ∧
        t = { u with teams := t.teams, cores := t.cores }) ∧
    ((e.st = 1 ∨ e.st = 3) → ¬NoRest s x → ∃ t, exec (.seal f) s = .next t ∧ Pauses s t x) ∧
    ((e.st = 0 ∨ e.st = 2) → exec (.seal f) s = .next (takeTrap s x (trapAll .illopnd)))

/-! ## Queues -/

/-- R264, R265: `emit` and `emit … try` complete: once the group's accesses are, they reserve a slot for each lane that is not
a helper, write and publish the records, and write the count and the first index; with no such lane they write 0. The node
may then be launched. A node that is not assigned, is another virtual function's or has too small a queue raises QUEUE, as
a disabled queue does for `emit`; `emit … try` writes 2^62 there, and 2^63 where the queue is too full, while `emit` waits. An
`emit` that has issued goes on with the records it issued with. Too full means that the slots in use, those of the records and
`emit`s that wait and now fit before it, and its own exceed the capacity: who stands before whom is the model's choice (log 54); and
either form waits while one that fits has still to take its slots, or the home of a slot lets it wait (R256). -/
def Obligations.EmitResults : Prop :=
  ∀ (again : Bool) (f : EmitForm) (s r : State) (x : Issue),
    Ready s x f.sp { lr := emitRegs s f, sr := [f.q.toNat], sw := [f.k.toNat] } r →
    let out := if again then exec (.emitTry f) s else exec (.emit f) s
    let status (v : DWord) (t : State) : Prop :=
      After { t with groups := s.groups } t x (x.view.putScalar f.k.toNat v) none (fun _ => x.cur.next)
    let same (t : State) : Prop := t.mem = s.mem ∧ t.queues = s.queues ∧ t.acts = s.acts
    let waits (n k : Nat) : Prop := ∃ t, out = .next t ∧ Waits { t with groups := s.groups } t x ∧ same t ∧
      ∀ g', t.group? x.cur.core x.cur.slot = some g' → ∀ p ∈ g'.arch.splits, p.slot = x.cur.split →
        p.emitTo = some f.k.toNat ∧ p.emitAt.map (·.1) = some n ∧ p.emitRecs.map (·.length) = some k
    let c := capScope r x (oscOf x.g)
    let u := releaseDo c.2 x.g.core x.g.slot c.1
    let goes (n k : Nat) : Prop :=
      let e := nodeEntry s x.m n
      let q := s.queue x.m n
      let level := emitLevel u x n
      (releaseReady r x.g c.1 = false → waits n k) ∧
      (releaseReady r x.g c.1 = true →
        (q.cap < level.1 + k → if again then ∃ t, out = .next t ∧ status (BitVec.ofNat 64 (2 ^ 63)) t ∧ same t else waits n k) ∧
        (level.1 + k ≤ q.cap → (level.2 = true ∨ slotsHeld u x.m n k ≠ []) → waits n k) ∧
        (level.1 + k ≤ q.cap → level.2 = false → slotsHeld u x.m n k = [] → ∃ T t, out = .next T ∧
          T = gather x.m false gatherFuel [n] t ∧ status (BitVec.ofNat 64 (k + q.rsv % 2 ^ 32 * 2 ^ 16)) T ∧
          QueuesKeep s t x.m n ∧ (t.queue x.m n).rsv = q.rsv + k ∧ (q.pub = q.rsv → q.done = [] → (t.queue x.m n).pub = q.rsv + k) ∧
          ∀ L ga pg, x.sp.emitRecs = none → x.liveLanes = [L] → e.z = 32 → Memory.wf s.mem = true → NoPartials s →
            translate s (e.hwCtx x.m) .write (e.qva + 128 + q.rsv % q.cap * q.z) = .ok pg → pg.phys = .dram ga →
            ∀ j b, j < 8 → b < 4 → memRead t.mem (ga + 4 * j + b) = (laneReg x.t x.g (8 * f.p.toNat + j) L).extractLsb' (8 * b) 8))
    (∀ recs n j, x.sp.emitRecs = some recs → x.sp.emitAt = some (n, j) → NoSafePoint x f.sp → goes n recs.length) ∧
    (x.sp.emitRecs = none →
      let n := (scalarReg s x f.q.toNat).toNat
      let e := nodeEntry s x.m n
      let q := s.queue x.m n
      let k := x.liveLanes.length
      let on := q.enAt s.cyc
      let mine := n < 1024 ∧ e.assigned = true ∧ e.vf = x.t.vf
      (¬mine → out = .next (takeTrap s x (trapAll .queue))) ∧
      (mine → 15 < f.p.toNat + e.z / 32 → out = .next (takeTrap s x (trapAll .illopnd))) ∧
      (mine → f.p.toNat + e.z / 32 ≤ 15 →
        (q.cap < k ∨ (on = false ∧ again = false) → out = .next (takeTrap s x (trapAll .queue))) ∧
        (k ≤ q.cap → NoSafePoint x f.sp →
          (on = false → again = true → ∃ t, out = .next t ∧ status (BitVec.ofNat 64 (2 ^ 62)) t ∧ same t) ∧
          (on = true → k = 0 → ∃ t, out = .next t ∧ status 0 t ∧ same t) ∧
          (on = true → 0 < k → goes n k))))

/-- R267: a `qctl` of a node the group may name writes the queue's status before it and does what Table Queues 4 gives:
nothing, disable, init, period, supervisor or clear; enable enables a queue whose region and threshold are right, after
which the node may be launched, and sets the node's error flag for any other. Its wait for the home is a group switch, so every
latch is lost (R127, R345). Reserved bits raise ILLOPND; a node it may
not name, or what the operation refuses, QUEUE. That enable refuses a region that meets another queue's or has a page of another
TYPE than 1 (R258), and that init sets WDT to 0 and SUP to 0x3FF, is the model's choice (log 55). -/
def Obligations.QueueControl : Prop :=
  (∀ (i : Instr) (pl : Nat) (f : EpqForm) (refuses : Queue → Nat → Bool)
    (act : Queue → Nat → Nat → Nat → Option Nat → Queue),
    queueWork i = some (pl, f, refuses, act) → ∀ (s r : State) (x : Issue),
    Ready s x f.sp { sr := [f.p.toNat], sw := [f.q.toNat], pl := pl } r →
    let v := scalarReg s x f.p.toNat
    let n := queueNode v
    let e := nodeEntry s x.m n
    let q := s.queue x.m n
    let mine := e.assigned = true ∧ (e.vf = x.t.vf ∨ 2 ≤ x.t.pl) ∧ refuses q (queueArg v) = false
    (queueWordOk v = false → exec i s = .next (takeTrap s x (trapAll .illopnd))) ∧
    (queueWordOk v = true → ¬mine → exec i s = .next (takeTrap s x (trapAll .queue))) ∧
    (queueWordOk v = true → mine → NoSafePoint x f.sp →
      ∃ t u, exec i s = .next t ∧ After s u x (x.view.putScalar f.q.toNat (BitVec.ofNat 64 q.sts)) none (fun _ => x.cur.next) ∧
        t = { u with queues := t.queues } ∧ QueuesKeep s t x.m n ∧
        (∀ g', t.group? x.cur.core x.cur.slot = some g' → ∀ l ∈ g'.arch.window, l.lost = true) ∧
        t.queue x.m n = act q s.cyc (queueArg v) e.recCode (headerLine s x.m n))) ∧
  ∀ (f : EpqForm) (s r : State) (x : Issue), Ready s x f.sp { sr := [f.p.toNat], sw := [f.q.toNat], pl := 1 } r →
    NoSafePoint x f.sp →
    let v := scalarReg s x f.p.toNat
    let n := queueNode v
    let e := nodeEntry s x.m n
    let q := s.queue x.m n
    let fits := (e.grid = true ∨ e.thresh ≤ q.cap) ∧ regionHolds s x.m e (128 + q.cap * e.z) = true ∧
      regionShared s x.m n e (128 + q.cap * e.z) = false
    queueWordOk v = true → e.assigned = true → (e.vf = x.t.vf ∨ 2 ≤ x.t.pl) →
    ∃ u, After s u x (x.view.putScalar f.q.toNat (BitVec.ofNat 64 q.sts)) none (fun _ => x.cur.next) ∧
      (fits → ∃ t, exec (.qctlEnable f) s = .next (homeReplied (gather x.m false gatherFuel [n] t) x) ∧ t = { u with queues := t.queues } ∧
        QueuesKeep s t x.m n ∧ t.queue x.m n = { q with
          en := true, was := some (s.cyc, q.enAt s.cyc), frozen := false, enableTick := s.ltick, header := headerLine s x.m n }) ∧
      (¬fits → ∃ t, exec (.qctlEnable f) s = .next t ∧ t.queues = s.queues ∧ t.groups = (homeReplied u x).groups ∧
        (NoPartials s → (memRead t.mem (nodeAddr s x.m n 42)).getLsbD 7 = true))

/-! ## Sync words -/

/-- R311, R314, R315, R318: `cinit` makes a word that is no sync word a live counter of a value, `cinc` adds to a live counter
modulo 2^64, both as releases; `cwait` of a live counter that has reached its value, and `cwait … poll` of any, write the
counter and acquire, and below the value `cwait` waits on the word. Other words raise SYNC. -/
def Obligations.CounterResults : Prop :=
  (∀ (init : Bool) (f : SyncForm) (s r : State) (x : Issue), Ready s x f.sp { sr := [f.p.toNat, f.r.toNat] } r →
    let out := exec (if init then .cinit f else .cinc f) s
    let v := (scalarReg s x f.r.toNat).toNat
    (x.live = 0 → NoSafePoint x f.sp → ∃ t, out = .next t ∧ After s t x x.view none (fun _ => x.cur.next)) ∧
    ∀ w, x.live ≠ 0 → SyncWord s x f true w → ReleaseNow s x →
      let tag := lookupNat (w.ga / 8) s.sync
      (NoSafePoint x f.sp → Memory.wf s.mem = true → NoPartials s →
        (init = true → tag = none → ∃ t, out = .next t ∧ OwnAfter s t x x.view ∧ WordSet s t w.ga v ∧ TagSet s t w.ga (some .counter)) ∧
        (init = false → tag = some .counter → w.ga / 128 ∉ s.poison → ∃ t, out = .next t ∧ OwnAfter s t x x.view ∧
          WordSet s t w.ga ((memReadLE s.mem w.ga 8 + v) % 2 ^ 64) ∧ t.sync = s.sync)) ∧
      ((init = true ∧ tag ≠ none) ∨ (init = false ∧ tag ≠ some .counter) → out = .next (takeTrap s x (syncTrap .sync w.va true)))) ∧
  (∀ (poll : Bool) (f : SyncForm) (s r : State) (x : Issue) (w : SyncAt),
    Ready s x f.sp { sr := [f.p.toNat, f.r.toNat], sw := [f.r.toNat] } r → SyncWord s x f false w →
    let out := exec (if poll then .cwaitPoll f else .cwait f) s
    let v := memReadLE s.mem w.ga 8
    (x.sp.killed = false → lookupNat (w.ga / 8) s.sync = some .counter → w.ga / 128 ∉ s.poison →
      ((poll = true ∨ (scalarReg s x f.r.toNat).toNat ≤ v) → NoSafePoint x f.sp →
        ∃ t, out = .next t ∧ OwnAfter s t x (x.view.putScalar f.r.toNat (BitVec.ofNat 64 v)) ∧ t.mem = s.mem ∧ t.lmem = s.lmem ∧
          t.sync = s.sync ∧ Acquired s t x) ∧
      (poll = false → v < (scalarReg s x f.r.toNat).toNat → ∃ t, out = .next t ∧ WaitsOn s t x w.ga)) ∧
    ((x.sp.killed = true ∨ lookupNat (w.ga / 8) s.sync ≠ some .counter) → out = .next (takeTrap s x (syncTrap .sync w.va false))))

/-- R315, R317: `synkill` writes the value of a live word, which is a sync word no longer: its waiters are told, and it
leaves its team's list. `cinc … remote` sends one increment to the module it names, after its release at system scope, and
holds its group until that is acknowledged (R219, R314, R318); then it completes, or raises SYNC where the word was no live
counter. -/
def Obligations.KillAndRemoteIncrement : Prop :=
  (∀ (f : SyncForm) (s r : State) (x : Issue) (w : SyncAt), Ready s x f.sp { sr := [f.p.toNat], sw := [f.r.toNat] } r →
    x.live ≠ 0 → SyncWord s x f true w → ReleaseNow s x →
    (lookupNat (w.ga / 8) s.sync ≠ none → w.ga / 128 ∉ s.poison → NoSafePoint x f.sp →
      ∃ t u, exec (.synkill f) s = .next t ∧ OwnAfter s u x (x.view.putScalar f.r.toNat (BitVec.ofNat 64 (memReadLE s.mem w.ga 8))) ∧
        t.mem = s.mem ∧ t.lmem = s.lmem ∧ TagSet s t w.ga none ∧
        (∀ k, t.team? k = (s.team? k).map fun y => { y with bars := y.bars.filter fun b => decide (b.word ≠ w.ga) }) ∧
        ∀ c k, t.group? c k = (u.group? c k).map fun g => { g with arch := { g.arch with
          splits := g.arch.splits.map fun p => if p.waitOn = some (w.ga / 8) then { p with killed := true } else p
          parked := g.arch.parked.map fun p => if p.waitOn = some (w.ga / 8) then { p with killed := true } else p } }) ∧
    (lookupNat (w.ga / 8) s.sync = none → exec (.synkill f) s = .next (takeTrap s x (syncTrap .sync w.va true)))) ∧
  (∀ (f : SyncForm) (s r : State) (x : Issue) (w : SyncAt), Ready s x f.sp { sr := [f.p.toNat, f.r.toNat] } r →
    x.live ≠ 0 → x.sp.passTxn = none → releaseReady s x.g (capScope s x 5).1 = true →
    let u := releasedRemote s x
    let v := scalarReg s x f.r.toNat
    let og := originOf u { x.t.tctx with m := w.m } w.page
    RemoteWord s x f w →
    ∃ t, exec (.cincRemote f) s = .next t ∧
      PassSent u t x ⟨s.nextId, x.active, .lanes 0 0, true, [(0, 0)], 1, [], none⟩ [⟨0, w.va, w.m, v, 0⟩] true fun p =>
        if p = w.m then [⟨0, 0, x.g.slot, some s.nextId, .cinc, [⟨0, w.ga, 8, 0, v, 0, w.va⟩], x.cur.word, og.vf, og.domain, og.pol,
          s.nextId, [⟨0, BitVec.ofNat 56 w.va, v.setWidth 128⟩]⟩] else []) ∧
  (∀ (f : SyncForm) (s r : State) (x : Issue) (T : Txn) (id : Nat), Ready s x f.sp { sr := [f.p.toNat, f.r.toNat] } r →
    x.live ≠ 0 → x.sp.passTxn = some id → x.g.txns.find? (fun t => t.id == id) = some T → 0 < T.out →
    ∃ t, exec (.cincRemote f) s = .next t ∧ Waits s t x) ∧
  ∀ (f : SyncForm) (s r : State) (x : Issue) (T : Txn) (id : Nat), Ready s x f.sp { sr := [f.p.toNat, f.r.toNat] } r →
    x.live ≠ 0 → x.sp.passTxn = some id → x.g.txns.find? (fun t => t.id == id) = some T → T.out = 0 →
    ((∀ l ∈ T.lanes, l.2 ≠ 0) → NoSafePoint x f.sp → ∃ t, exec (.cincRemote f) s = .next t ∧
      After s t x { x.view with txns := x.g.txns.filter fun y => decide (y.id ≠ id) } none (fun _ => x.cur.next)) ∧
    ((∃ l ∈ T.lanes, l.2 = 0) → ∃ i, i.kind = .sync ∧ i.lane = none ∧ exec (.cincRemote f) s = .next (takeTrap s x i))

/-- R316, R317: `barinit` makes a word that is no sync word a live barrier of its image, `barinit … team` one of the groups of
the team that have not exited, in one of the eight places of the team's list. `bararr` at a live barrier writes its phase and
counts one more arrived; the arrival that completes the count begins the next phase and arrives at the parent; a group
arrives once a phase at its team's barrier, and at another team's never. -/
def Obligations.BarrierWords : Prop :=
  (∀ (team : Bool) (f : SyncForm) (s r : State) (x : Issue) (w : SyncAt), Ready s x f.sp { sr := [f.p.toNat, f.r.toNat] } r →
    x.live ≠ 0 → SyncWord s x f true w →
    let out := exec (if team then .barinitTeam f else .barinit f) s
    let v := scalarReg s x f.r.toNat
    let here := (List.range x.t.groups).filter fun g => !x.t.exited.getLsbD g
    let image := v.extractLsb' 16 24 = 0 ∧ (team = true ∨ v.extractLsb' 0 16 ≠ 0)
    (image → ReleaseNow s x → NoSafePoint x f.sp → Memory.wf s.mem = true → NoPartials s →
      lookupNat (w.ga / 8) s.sync = none → (team = true → x.t.bars.length < 8) →
      ∃ t, out = .next t ∧ OwnAfter s t x x.view ∧ TagSet s t w.ga (some .barrier) ∧
        WordSet s t w.ga ((v.extractLsb' 40 24).toNat * 2 ^ 40 + if team then here.length else (v.extractLsb' 0 16).toNat) ∧
        (team = false → t.teams = s.teams) ∧
        (team = true → ∃ b : TeamBar, b.word = w.ga ∧ b.va.toNat = w.va % 2 ^ 56 ∧ b.arrived = 0 ∧
          (∀ g, g < 32 → b.members.getLsbD g = here.contains g) ∧
          t.team? x.t.uid = some { x.t with bars := x.t.bars ++ [b] })) ∧
    (¬image → out = .next (takeTrap s x (trapAll .illopnd))) ∧
    (image → ReleaseNow s x → (lookupNat (w.ga / 8) s.sync ≠ none ∨ (team = true ∧ 8 ≤ x.t.bars.length)) →
      out = .next (takeTrap s x (syncTrap .sync w.va true)))) ∧
  (∀ (f : SyncForm) (s r : State) (x : Issue) (w : SyncAt), Ready s x f.sp { sr := [f.p.toNat], sw := [f.r.toNat] } r →
    x.live ≠ 0 → SyncWord s x f true w → ReleaseNow s x →
    let v := memReadLE s.mem w.ga 8
    let full := barEx v ≤ barArr v + 1
    let owner := s.teams.find? fun t => t.bars.any fun b => b.word == w.ga
    let own := x.view.putScalar f.r.toNat (BitVec.ofNat 64 (barPh v))
    let mask := 1#32 <<< x.g.num
    (lookupNat (w.ga / 8) s.sync = some .barrier → w.ga / 128 ∉ s.poison → NoSafePoint x f.sp → Memory.wf s.mem = true →
      NoPartials s →
      (owner = none ∨ (owner = some x.t ∧ ∀ b ∈ x.t.bars, b.word = w.ga → b.arrived &&& mask = 0) →
        ∃ t, exec (.bararr f) s = .next t ∧ OwnAfter s t x own ∧ t.sync = s.sync ∧ WordSet s t w.ga (barNext v) ∧
          t.parents = s.parents ++ (if full ∧ barPar v ≠ 0 then
            [⟨BitVec.ofNat 56 w.va + BitVec.ofInt 56 (8 * signed 24 (barPar v)), x.t.tctx.m, x.t.vf, x.t.ctx, x.t.l0, x.t.pl, 1⟩] else []) ∧
          (owner = none → t.teams = s.teams) ∧
          ∀ y, owner = some x.t → t.team? x.t.uid = some y → y.bars = x.t.bars.map fun b =>
            if b.word = w.ga then { b with arrived := if full then 0 else b.arrived ||| mask } else b) ∧
      (owner = some x.t → (∃ b, x.t.bars.find? (fun b => b.word == w.ga) = some b ∧ b.arrived &&& mask ≠ 0) → x.g.num < 32 →
        ∃ t, exec (.bararr f) s = .next t ∧ OwnAfter s t x own ∧ t.mem = s.mem ∧ t.teams = s.teams ∧ t.parents = s.parents)) ∧
    ((lookupNat (w.ga / 8) s.sync ≠ some .barrier ∨ (w.ga / 128 ∉ s.poison ∧ ∃ y, owner = some y ∧ y.uid ≠ x.t.uid)) →
      exec (.bararr f) s = .next (takeTrap s x (syncTrap .sync w.va true))))

/-- R316, R318: `barwait` of a live barrier goes on, as an acquire, once its phase is another than the low 8 bits of sR, and
waits until then; `bartest` writes the phase, with bit 63 set if it is another, and acquires then. -/
def Obligations.BarrierWaits : Prop :=
  (∀ (f : SyncForm) (s r : State) (x : Issue) (w : SyncAt), Ready s x f.sp { sr := [f.p.toNat, f.r.toNat] } r →
    SyncWord s x f false w →
    let moved := barPh (memReadLE s.mem w.ga 8) ≠ (scalarReg s x f.r.toNat).toNat % 256
    (x.sp.killed = false → lookupNat (w.ga / 8) s.sync = some .barrier → w.ga / 128 ∉ s.poison →
      (moved → NoSafePoint x f.sp → ∃ t, exec (.barwait f) s = .next t ∧ OwnAfter s t x x.view ∧ t.mem = s.mem ∧
        t.lmem = s.lmem ∧ t.sync = s.sync ∧ Acquired s t x) ∧
      (¬moved → ∃ t, exec (.barwait f) s = .next t ∧ WaitsOn s t x w.ga)) ∧
    ((x.sp.killed = true ∨ lookupNat (w.ga / 8) s.sync ≠ some .barrier) →
      exec (.barwait f) s = .next (takeTrap s x (syncTrap .sync w.va false)))) ∧
  ∀ (f : SyncForm) (s r : State) (x : Issue) (w : SyncAt),
    Ready s x f.sp { sr := [f.p.toNat, f.r.toNat], sw := [f.r.toNat] } r → SyncWord s x f false w →
    let ph := barPh (memReadLE s.mem w.ga 8)
    let moved := ph ≠ (scalarReg s x f.r.toNat).toNat % 256
    (lookupNat (w.ga / 8) s.sync = some .barrier → w.ga / 128 ∉ s.poison → NoSafePoint x f.sp →
      ∃ t, exec (.bartest f) s = .next t ∧ OwnAfter s t x (x.view.putScalar f.r.toNat (BitVec.ofNat 64 (ph + if moved then 2 ^ 63 else 0))) ∧
        t.mem = s.mem ∧ t.lmem = s.lmem ∧ t.sync = s.sync ∧ (moved → Acquired s t x)) ∧
    (lookupNat (w.ga / 8) s.sync ≠ some .barrier → exec (.bartest f) s = .next (takeTrap s x (syncTrap .sync w.va false)))

/-! ## Chunk graphs -/

/-- R306, R307: `cgload` of a legal image writes the slot it takes, the lowest free one of its die (R325),
or, with bit 63, frees an idle slot of its virtual function; `cgrun` posts a run of a loaded graph of its virtual
function under the next number; `cgwait` goes on, as an acquire, once the runs up to a number are complete, with their
number and the union of their status bits. That the image is read at the home of its lines, whatever its page's policy, and that the
count wraps at 2^16, is the model's reading (log 60). -/
def Obligations.GraphInstructions : Prop :=
  (∀ (f : EpqForm) (s r : State) (x : Issue), Ready s x f.sp { sr := [f.p.toNat], sw := [f.q.toNat] } r → NoSafePoint x f.sp →
    let v := scalarReg s x f.p.toNat
    let die := coreDie x.g.core
    let answers (t : State) (n : Nat) : Prop := OwnAfter s t x (x.view.putScalar f.q.toNat (BitVec.ofNat 64 n))
    (∀ h img n slot s1 s2, v.getLsbD 63 = false → plainRead s x v.toNat 64 = .data h s1 → n = h % 256 + 1 →
      plainRead s x v.toNat (64 + 32 * n) = .data img s2 →
      (∀ i, i < slot → s.graph? die i ≠ none) → slot < 64 → s.graph? die slot = none →
      let cs : List Chunk := (List.range n).map fun i => BitVec.ofNat 256 (img / 2 ^ (512 + 256 * i))
      graphBad s cs = false →
      ∃ t, exec (.cgload f) s = .next t ∧ answers t slot ∧ t.graphs = s.graphs ++ [⟨die, slot, x.t.vf, cs⟩] ∧ t.runs = s.runs) ∧
    (∀ g, v.getLsbD 63 = true → s.graph? die (v.extractLsb' 0 6).toNat = some g → g.vf = x.t.vf →
      (∀ q ∈ s.runs, q.die = die → q.slot ≠ (v.extractLsb' 0 6).toNat) →
      ∃ t, exec (.cgload f) s = .next t ∧ answers t 0 ∧ t.graph? die (v.extractLsb' 0 6).toNat = none ∧
        ∀ d i, ¬(d = die ∧ i = (v.extractLsb' 0 6).toNat) → t.graph? d i = s.graph? d i)) ∧
  (∀ (f : EpqkForm) (s r : State) (x : Issue),
    Ready s x f.sp { sr := (List.range (min f.k.toNat 8 + 1)).map (f.p.toNat + ·), sw := [f.q.toNat] } r →
    let slot := ((scalarReg s x f.p.toNat).extractLsb' 0 6).toNat
    let legal := f.k.toNat ≤ 8 ∧ f.p.toNat + f.k.toNat ≤ 63 ∧ ∃ g, s.graph? (coreDie x.g.core) slot = some g ∧ g.vf = x.t.vf
    (legal → ReleaseNow s x → NoSafePoint x f.sp →
      ∃ t u c, exec (.cgrun f) s = .next t ∧ OwnAfter s u x (x.view.putScalar f.q.toNat (BitVec.ofNat 64 (x.g.cseq + 1))) ∧
        t = { u.modGroup x.cur.core x.cur.slot fun g => { g with
          cseq := x.g.cseq + 1, cruns := x.g.cruns ++ [⟨x.g.cseq + 1, s.nextId, none, false⟩] } with
            runs := s.runs ++ [c], nextId := s.nextId + 1 } ∧
        c.id = s.nextId ∧ c.die = coreDie x.g.core ∧ c.slot = slot ∧ c.core = x.g.core ∧ c.gslot = x.g.slot ∧ c.seq = x.g.cseq + 1 ∧
        c.vf = x.t.vf ∧ c.ordinal = ((scalarReg s x f.p.toNat).extractLsb' 32 32).toNat ∧ c.active = false ∧
        (∀ i, i < 8 → nth c.bases i 0 = if i < f.k.toNat then scalarReg s x (f.p.toNat + 1 + i) else 0) ∧ u.mem = s.mem) ∧
    (¬legal → exec (.cgrun f) s = .next (takeTrap s x (trapAll .illopnd)))) ∧
  ∀ (f : EpqForm) (s r : State) (x : Issue), Ready s x f.sp { sr := [f.p.toNat], sw := [f.q.toNat] } r → NoSafePoint x f.sp →
    let m := min (scalarReg s x f.p.toNat).toNat x.g.cseq
    ((∀ q ∈ x.g.cruns, q.seq ≤ m → ∃ st : DWord, q.status = some st ∧ st.toNat < 8) →
      ∃ t u v, exec (.cgwait f) s = .next t ∧ OwnAfter s u x (x.view.putScalar f.q.toNat v) ∧ Acquired s t x ∧
        v.toNat < 2 ^ 48 ∧ (v.extractLsb' 32 16).toNat = (x.g.cruns.filter fun q => decide (q.seq ≤ m)).length % 2 ^ 16 ∧
        (∀ b, b < 32 → (v.getLsbD b = true ↔ ∃ q ∈ x.g.cruns, q.seq ≤ m ∧ ∃ st, q.status = some st ∧ st.getLsbD b = true)) ∧
        t = u.modGroup x.cur.core x.cur.slot fun g => { g with cruns := x.g.cruns.filter fun q => decide (m < q.seq) }) ∧
    ((∃ q ∈ x.g.cruns, q.seq ≤ m ∧ q.status = none) → ∃ t, exec (.cgwait f) s = .next t ∧ Waits s t x)

/-! ## Special registers -/

/-- R133, R134, R303, R352, Tables Registers 5 and 6: `csrr` reads and `csrw` writes an assigned register at its privilege level
and above; below it a hypervisor register reads zero and ignores the write, and any other raises PRIV; an unassigned
number raises ILLOPND. A count is cleared by the read; writes take the fields the tables give. That a write of VFCFG with EN = 0 while the function is
busy is ignored for that bit alone is the model's choice (log 62). -/
def Obligations.SpecialRegisters : Prop :=
  (∀ (f : EpqkForm) (s r : State) (x : Issue), Ready s x f.sp { sw := [f.p.toNat] } r →
    let n := f.q.toNat * 128 + f.k.toNat
    (csrAccess n = none → exec (.csrr f) s = .next (takeTrap s x (trapAll .illopnd))) ∧
    ∀ pl hv, csrAccess n = some (pl, hv) →
      (x.t.pl < pl → hv = false → exec (.csrr f) s = .next (takeTrap s x (trapAll .priv))) ∧
      (NoSafePoint x f.sp →
        (x.t.pl < pl → hv = true → ∃ t, exec (.csrr f) s = .next t ∧ After s t x (x.view.putScalar f.p.toNat 0) none (fun _ => x.cur.next)) ∧
        (pl ≤ x.t.pl → ∀ v, csrValue s x n = some v →
          ∃ t, exec (.csrr f) s = .next t ∧ After s t x (x.view.putScalar f.p.toNat v) none (fun _ => x.cur.next)) ∧
        (pl ≤ x.t.pl → s.inFabric x.m = true → ∀ k : Nat, k < 2 → n = 0x430 + k →
          ∃ t, exec (.csrr f) s = .next t ∧ OwnAfter s t x (x.view.putScalar f.p.toNat
            (BitVec.ofNat 64 (if k = 0 then (s.mod x.m).cecc else (s.mod x.m).uecc))) ∧
            (if k = 0 then (t.mod x.m).cecc else (t.mod x.m).uecc) = 0))) ∧
  (∀ (f : EpqkForm) (s r : State) (x : Issue), Ready s x f.sp { sr := [f.p.toNat] } r →
    let n := f.q.toNat * 128 + f.k.toNat
    let v := scalarReg s x f.p.toNat
    let sel := (s.vf x.m x.t.vf).vsel.toNat
    (csrAccess n = none → exec (.csrw f) s = .next (takeTrap s x (trapAll .illopnd))) ∧
    ∀ pl hv, csrAccess n = some (pl, hv) →
      (x.t.pl < pl → hv = false → exec (.csrw f) s = .next (takeTrap s x (trapAll .priv))) ∧
      (NoSafePoint x f.sp →
        (x.t.pl < pl → hv = true → ∃ t, exec (.csrw f) s = .next t ∧ After s t x x.view none (fun _ => x.cur.next)) ∧
        (n = 1 → ∃ t, exec (.csrw f) s = .next t ∧ After s t x { x.view with srseed := v } none (fun _ => x.cur.next)) ∧
        (n = 0 → ∃ t c, exec (.csrw f) s = .next t ∧ After s t x { x.view with fpcr := c } none (fun _ => x.cur.next) ∧
          c.extractLsb' 0 3 = v.extractLsb' 0 3 ∧ c.extractLsb' 8 7 = v.extractLsb' 8 7 ∧
          c.extractLsb' 3 3 = (if 6 ≤ (v.extractLsb' 3 3).toNat then x.g.arch.fpcr.extractLsb' 3 3 else v.extractLsb' 3 3) ∧
          c.extractLsb' 6 2 = 0 ∧ c.extractLsb' 15 17 = 0) ∧
        (pl ≤ x.t.pl → s.inFabric x.m = true → ∀ y,
          vfWritten n v (s.teams.any fun t => t.m == x.m && t.vf == sel) (s.vf x.m sel) = some y →
          ∃ t, exec (.csrw f) s = .next t ∧ OwnAfter s t x x.view ∧ t.vf x.m sel = y ∧ t = { s with groups := t.groups, modules := t.modules } ∧
            ∀ m k, ¬(m = x.m ∧ k = sel) → t.vf m k = s.vf m k)))

/-! ## Contexts -/

/-- R167, Table Control 5: `ctxsave` to the S region stores the doublewords of the image's parts, 8 bytes each at their
offsets; to global memory it stores them as a plain store of the ownership policy does, in lines the L1 holds or by one request
to the home of each line. The image holds the trap registers, FPCR, SRSEED, the gang register, the scalar and address registers
and the allocated blocks. `ctxload` of such an image restores FPCR and SRSEED, the scalar registers and the blocks; of another
width's it raises ILLOPND; address registers it never restores: parts with bit 2 raise ILLINS. From global memory it reads the
lines the L1 owns, asks the home of each other line for ownership, and waits for the replies. That bytes 960 to 1023 are written
with the address part, and that the load is of the ownership policy, with one request for each line, is the model's choice (log
61). -/
def Obligations.ContextSaveLoad : Prop :=
  (∀ (f : CtxForm) (s r : State) (x : Issue), Memory.wf s.lmem = true →
    Ready s x f.sp { lr := if f.p.getLsbD 3 then allocRegs s else [], sr := if f.p.getLsbD 1 then List.range 48 else [] } r →
    NoSafePoint x f.sp →
    let a := addrReg x.g f.ar.toNat
    a.wr = true → a.rgn = 4 → a.ptr.toNat % 128 = 0 → localAt x a a.ptr.toNat % 8 = 0 →
    LocalRange x a (ctxSize x.g.width f.p) a.ptr.toNat → NoAcquire x → NoRest s x →
    (∀ w ∈ ctxImage x.g f.p, LocalWritable s x.g.core (localAt x a (a.ptr.toNat + w.1)) 8) →
    ∃ t, exec (.ctxsave f) s = .next t ∧
      LocalStored s t x ((ctxImage x.g f.p).map fun w => (localAt x a (a.ptr.toNat + w.1), 8, w.2.toNat))) ∧
  (∀ (f : CtxForm) (s r : State) (x : Issue) (fd : Found),
    Ready s x f.sp { lr := if f.p.getLsbD 3 then allocRegs s else [], sr := if f.p.getLsbD 1 then List.range 48 else [] } r →
    NoSafePoint x f.sp →
    let a := addrReg x.g f.ar.toNat
    a.wr = true → a.rgn = 0 → a.ptr.toNat % 128 = 0 → a.base.toNat ≤ a.ptr.toNat →
    a.ptr.toNat + ctxSize x.g.width f.p ≤ a.limit.toNat →
    checkLanes s (plainLane x) a ctxStoreKind ((ctxImage x.g f.p).map fun w => ⟨0, a.ptr.toNat + w.1, w.2, 0⟩) = .ok fd →
    Memory.wf s.mem = true → GlobalClear s x a ctxStoreKind fd → Writable s fd →
    ∃ t, exec (.ctxsave f) s = .next t ∧ StoreSent s s t x .plain (fun _ => 0) fd) ∧
  (∀ (g : Group) (p : BitVec 4),
    (p.getLsbD 0 = true → (0, g.trap.tpc) ∈ ctxImage g p ∧ (8, g.trap.tcause) ∈ ctxImage g p ∧
      (16, g.arch.fpcr.setWidth 64) ∈ ctxImage g p ∧ (24, g.arch.srseed) ∈ ctxImage g p ∧ (32, g.arch.gang) ∈ ctxImage g p) ∧
    (p.getLsbD 1 = true → ∀ n, n < 48 → (64 + 8 * n, nth g.arch.sregs n 0) ∈ ctxImage g p) ∧
    (p.getLsbD 2 = true → ∀ j, j < 16 → (448 + 32 * j, (addrReg g j).ptr.setWidth 64) ∈ ctxImage g p ∧
      (472 + 32 * j, (addrReg g j).perm.setWidth 64) ∈ ctxImage g p) ∧
    (p.getLsbD 3 = true → ∀ b e, b < 15 → nth g.arch.blocks b .unallocated ≠ .unallocated → e < 4 * g.width →
      (1024 + 32 * g.width * b + 8 * e, ((nth g.arch.blocks b .unallocated).get (2 * e + 1) ++ (nth g.arch.blocks b .unallocated).get (2 * e) : DWord))
        ∈ ctxImage g p)) ∧
  (∀ (f : CtxForm) (s : State) (x : Issue), s.issue? = some x → f.p.getLsbD 2 = true →
    exec (.ctxload f) s = .next (takeTrap s x (trapAll .illins))) ∧
  (∀ (f : CtxForm) (s r : State) (x : Issue) (fd : Found), Ready s x f.sp {} r → f.p.getLsbD 2 = false → x.sp.passTxn = none →
    let a := addrReg x.g f.ar.toNat
    let n := ctxSize x.g.width f.p
    a.rd = true → a.rgn = 0 → a.ptr.toNat % 128 = 0 → a.base.toNat ≤ a.ptr.toNat → a.ptr.toNat + n ≤ a.limit.toNat →
    checkLanes s (plainLane x) a ctxLoadKind (ctxOps a.ptr.toNat n) = .ok fd → GlobalClear s x a ctxLoadKind fd → NotPoisoned s fd →
    let asked := (linesOf fd.ok).filter fun e => (loadHits s x .plain 0 0 e.2 e.1 (byteMask (accsOn e.1 fd.ok))).isNone
    asked ≠ [] →
    ∃ t g' T new, exec (.ctxload f) s = .next t ∧
      t = { s with groups := t.groups, reqs := s.reqs ++ new, nextId := t.nextId } ∧
      (∀ c k, ¬(c = x.cur.core ∧ k = x.cur.slot) → t.group? c k = s.group? c k) ∧
      new.map (fun q => (q.line, q.kind)) = asked.map (fun e => (e.1, loadAsks s x .plain 0 0 e.2 e.1)) ∧
      (∀ q ∈ new, q.agent = .group x.g.core x.g.slot ∧ q.core = x.g.core ∧ q.fn = .read ∧ q.txn = some T.id ∧ q.sc = false ∧
        q.accs = accsOn q.line fd.ok) ∧
      t.group? x.cur.core x.cur.slot = some g' ∧ g'.txns = x.g.txns ++ [T] ∧ T.id = s.nextId ∧ T.out = asked.length ∧
      T.noWrite = true ∧ T.acquire = none ∧ (∀ p ∈ g'.arch.splits, p.slot = x.cur.split → p.passTxn = some T.id) ∧
      g'.arch.blocks = x.g.arch.blocks ∧ g'.arch.sregs = x.g.arch.sregs ∧ g'.arch.aregs = x.g.arch.aregs ∧
      g'.arch.fpcr = x.g.arch.fpcr ∧ g'.arch.srseed = x.g.arch.srseed ∧ g'.trap = x.g.trap ∧
      g'.arch.splits.map (fun p => (p.slot, p.pc, p.mask)) = x.g.arch.splits.map (fun p => (p.slot, p.pc, p.mask))) ∧
  ∀ (f : CtxForm) (s r u : State) (x : Issue) (img : Nat), Ready s x f.sp {} r → f.p.getLsbD 2 = false →
    let a := addrReg x.g f.ar.toNat
    let n := ctxSize x.g.width f.p
    let at_ := localAt x a a.ptr.toNat
    a.rd = true → a.ptr.toNat % 128 = 0 → a.base.toNat ≤ a.ptr.toNat → a.ptr.toNat + n ≤ a.limit.toNat →
    NoRest s x →
    ((a.rgn = 4 ∧ a.ptr.toNat + n ≤ regionSize x.t 4 ∧ img = memReadLE s.lmem at_ n ∧ u = s ∧
        ∀ b, b < n → s.lineState ((at_ + b) / 128) = some .full ∧ (at_ + b) / 128 ∉ s.lpoison) ∨
      (a.rgn = 0 ∧ u = s ∧ ∃ id T, x.sp.passTxn = some id ∧ x.g.txns.find? (fun t => t.id == id) = some T ∧ T.out = 0 ∧
        img = imageOf T.lanes) ∨
      (a.rgn = 0 ∧ u = s.numbered ∧ x.sp.passTxn = none ∧ ∃ fd,
        checkLanes s (plainLane x) a ctxLoadKind (ctxOps a.ptr.toNat n) = .ok fd ∧ GlobalClear s x a ctxLoadKind fd ∧ NotPoisoned s fd ∧
        (∀ e ∈ linesOf fd.ok, loadHits s x .plain 0 0 e.2 e.1 (byteMask (accsOn e.1 fd.ok)) ≠ none) ∧ img < 2 ^ (8 * n) ∧
        ∀ l ∈ fd.ok, ∀ p ∈ l.pieces, ∀ ga pg, p.place = .glob ga pg →
          p.off = 0 ∧ img / 2 ^ (64 * l.op.lane) % 2 ^ 64 = memReadLE s.mem ga 8)) →
    (img / 2 ^ 384 % 256 ≠ x.g.width → exec (.ctxload f) s = .next (takeTrap s x (trapAll .illopnd))) ∧
    (img / 2 ^ 384 % 256 = x.g.width → (∀ T ∈ x.g.txns, x.sp.passTxn = some T.id) →
      ctxRoom u x (ctxRestore { x.g with txns := [] } f.p img) ≠ none → NoSafePoint x f.sp →
    ∃ t, exec (.ctxload f) s = .next t ∧
      After u t x { x.view with
          txns := []
          fpcr := if f.p.getLsbD 0 then fpcrWrite x.g.arch.fpcr (imageWord img 16) else x.g.arch.fpcr
          srseed := if f.p.getLsbD 0 then imageWord img 24 else x.g.arch.srseed
          sreg := fun q => if f.p.getLsbD 1 then imageWord img (64 + 8 * q) else nth x.g.arch.sregs q 0
          lane := fun q L => if f.p.getLsbD 3 ∧ q < 120 then
            (if (imageWord img 40).getLsbD (q / 8) then
              BitVec.ofNat 32 (img / 2 ^ (8 * (1024 + 32 * x.g.width * (q / 8) + 4 * (q % 8 * x.g.width + L)))) else 0)
            else laneReg x.t x.g q L }
        none (fun _ => x.cur.next))

/-- R168, R174, R268: a `dusk` whose drain is under way and has nothing left outstanding completes: no group or team of the
partition is left, its local stores are zero and empty under the next generation, and each of its queues keeps its
records, returned to the unconsumed state, or loses them. A partition that does not exist, or the group's own, raises
ILLOPND. -/
def Obligations.DuskResults : Prop :=
  ∀ (f : DuskForm) (s r : State) (x : Issue), Ready s x f.sp { sr := [f.p.toNat], sw := [f.q.toNat], pl := 2 } r →
    let p := (scalarReg s x f.p.toNat).toNat % 256
    let cores := partCores s x.m p
    ((s.partition? x.m p = none ∨ (s.corePart x.g.core).num = p) → exec (.dusk f) s = .next (takeTrap s x (trapAll .illopnd))) ∧
    (∀ y, s.partition? x.m p = some y → (s.corePart x.g.core).num ≠ p → y.clusters.Nodup → x.g.core ∉ cores → NoSafePoint x f.sp →
      ∀ d, s.drains.find? (fun d => d.m == x.m && d.part == p) = some d → d.core = x.g.core → d.slot = x.g.slot →
      d.pc = x.cur.pc → d.on = true → s.log = [] → s.reqs = [] → NoPartials s → drained s x.m p cores = true →
      ∃ t g', exec (.dusk f) s = .next t ∧ t.group? x.cur.core x.cur.slot = some g' ∧
        ((nth g'.arch.sregs f.q.toNat 0).extractLsb' 16 16).toNat = min d.grp 65535 ∧
        ((nth g'.arch.sregs f.q.toNat 0).extractLsb' 32 16).toNat = min d.rpt 65535 ∧
        (∀ g ∈ t.groups, g.core ∉ cores) ∧ (∀ u ∈ t.teams, u.core ∉ cores) ∧
        (∀ c ∈ cores, (t.core c).gen = (s.core c).gen + 1 ∧ (∀ k, k / (localBytes / 128) = c → t.lineState k = none) ∧
          ∀ cell ∈ t.lmem, cell.1 / localBytes ≠ c) ∧
        (∀ L, x.active.getLsbD L = true → g'.arch.standsAt L x.cur.next) ∧
        ∀ n ∈ partNodes s x.m p, (t.queue x.m n).tkn = (t.queue x.m n).fre ∧
          (f.keep = false → (t.queue x.m n).pub = (t.queue x.m n).fre ∧ (t.queue x.m n).rsv = (t.queue x.m n).fre))

/-- R169, Table Control 7: `walk cfg` takes the 64 bytes of local store at sP as the core's walk, if sP is a multiple of 64
below 2 MiB, else ILLOPND. `walk run` over n consecutive units of local store completes: a fill writes the pattern to each of
their bytes and nothing else, and the count n; a compare writes nothing, and counts the units that hold a byte other than the
pattern's. With an operation above 3 or a unit not of 4 to 128 bytes it does nothing but set the error bit. In general it goes
over its units in order, at addresses of local store or of memory that its descriptor forms: a fill or a scrub writes each unit, a
copy writes the second address, a compare writes nothing; the result is the count, and a unit at an address outside its space ends
the walk with the error bit set. That a walk of local addresses touches no register block is the model's choice (log 100), and that
a whole local line written is good again follows R336. -/
def Obligations.WalkerResults : Prop :=
  (∀ (f : EpForm) (s r : State) (x : Issue), Ready s x f.sp { sr := [f.p.toNat], pl := 3 } r →
    let v := (scalarReg s x f.p.toNat).toNat
    (v < 2 ^ 21 → v % 64 = 0 → NoSafePoint x f.sp →
      ∃ t u, exec (.walkCfg f) s = .next t ∧ After s u x x.view none (fun _ => x.cur.next) ∧ t = { u with cores := t.cores } ∧
        (t.core x.g.core).walker.toNat = memReadLE s.lmem (localKey x.g.core v) 64 ∧
        ∀ c, c ≠ x.g.core → t.core c = s.core c) ∧
    (¬(v < 2 ^ 21 ∧ v % 64 = 0) → exec (.walkCfg f) s = .next (takeTrap s x (trapAll .illopnd)))) ∧
  (∀ (f : EqForm) (s r : State) (x : Issue), Ready s x f.sp { sw := [f.q.toNat], pl := 3 } r → NoSafePoint x f.sp →
    s.drains = [] →
    let d := (s.core x.g.core).walker
    (3 < walkField d 60 8 ∨ walkField d 61 8 < 2 ∨ 7 < walkField d 61 8) →
    ∃ t, exec (.walkRun f) s = .next t ∧ After s t x (x.view.putScalar f.q.toNat (BitVec.ofNat 64 (2 ^ 63))) none (fun _ => x.cur.next)) ∧
  (∀ (s : State) (core k unit i0 i1 i2 i3 : Nat) (d : BitVec 512), k < 2 → 0 < unit →
    let n := (walkSum d k i0 i1 i2 i3).toNat
    let at_ := walkAt s core d k unit [i0, i1, i2, i3]
    0 ≤ walkSum d k i0 i1 i2 i3 → n % unit = 0 →
    (walkField d (8 + 24 * k) 64 < 2 ^ 63 → n + unit ≤ 2 ^ 21 - (s.corePart core).l1KiB * 1024 → at_ = .loc (localKey core n)) ∧
    (2 ^ 63 ≤ walkField d (8 + 24 * k) 64 → n < 2 ^ 52 → ∀ ga, physOf s (coreMod core) n = .dram ga → at_ = .phys ga)) ∧
  (∀ (f : EqForm) (s r : State) (x : Issue), Ready s x f.sp { sw := [f.q.toNat], pl := 3 } r → NoSafePoint x f.sp →
    s.drains = [] →
    let d := (s.core x.g.core).walker
    let op := walkField d 60 8
    let unit := 2 ^ walkField d 61 8
    let w := walked x.g.core d op unit s
    let goes (i : Nat) : Prop := unitGoes (w i).2 x.g.core d op unit i
    let ends (n v : Nat) : Prop := ∃ t, exec (.walkRun f) s = .next t ∧
      OwnAfter (w n).2 t x (x.view.putScalar f.q.toNat (BitVec.ofNat 64 v)) ∧ t = { (w n).2 with groups := t.groups }
    op ≤ 3 → 2 ≤ walkField d 61 8 → walkField d 61 8 ≤ 7 →
    ((∀ i, i < walkUnits d → goes i) → ends (walkUnits d) (min (w (walkUnits d)).1 (2 ^ 32 - 1))) ∧
    (∀ j, j < walkUnits d → (∀ i, i < j → goes i) →
      (walkAt (w j).2 x.g.core d 0 unit (walkIdx d j) = .bad ∨ walkAt (w j).2 x.g.core d 1 unit (walkIdx d j) = .bad) →
      ends j (min (w j).1 (2 ^ 32 - 1) + 2 ^ 63)) ∧
    ∀ i, i < walkUnits d → goes i →
      let a := (w i).2
      let b := (w (i + 1)).2
      let at_ (k : Nat) : WalkAt := walkAt a x.g.core d k unit (walkIdx d i)
      let v := walkRead a (at_ 0) unit
      (op = 0 → UnitSet a b (at_ 0) 0 unit (walkPat d unit)) ∧ (op = 1 → UnitRead a b) ∧
      (op = 2 → UnitRead a v.2 ∧ UnitSet v.2 b (at_ 1) 2 unit v.1) ∧ (op = 3 → UnitRead a v.2 ∧ UnitSet v.2 b (at_ 0) 3 unit v.1) ∧
      (NoPartials a → v.1 = match at_ 0 with
        | .loc key => memReadLE a.lmem key unit
        | .phys ga => memReadLE a.mem ga unit
        | .bad => 0)) ∧
  ∀ (f : EqForm) (s r : State) (x : Issue), Ready s x f.sp { sw := [f.q.toNat], pl := 3 } r → NoSafePoint x f.sp →
    s.drains = [] → Memory.wf s.lmem = true →
    let d := (s.core x.g.core).walker
    let u := walkField d 61 8
    let n := walkField d 0 16 + 1
    let base := walkField d 8 64
    let room := 2 ^ 21 - (s.corePart x.g.core).l1KiB * 1024
    let key := localKey x.g.core base
    let pat (b : Nat) : Byte := BitVec.ofNat 8 (walkField d 56 32 / 2 ^ (8 * (b % 4)))
    2 ≤ u → u ≤ 7 → walkField d 2 16 = 0 → walkField d 4 16 = 0 → walkField d 6 16 = 0 →
    walkField d 16 32 = 2 ^ u → base % 2 ^ u = 0 → base + n * 2 ^ u ≤ room →
    walkField d 40 32 = 0 → walkField d 32 64 % 2 ^ u = 0 → walkField d 32 64 + 2 ^ u ≤ room →
    (walkField d 60 8 = 0 →
      ∃ t, exec (.walkRun f) s = .next t ∧ OwnAfter s t x (x.view.putScalar f.q.toNat (BitVec.ofNat 64 n)) ∧ t.mem = s.mem ∧
        ∀ k, memRead t.lmem k = if key ≤ k ∧ k < key + n * 2 ^ u then pat (k - key) else memRead s.lmem k) ∧
    (walkField d 60 8 = 1 →
      ∃ t, exec (.walkRun f) s = .next t ∧ After s t x (x.view.putScalar f.q.toNat (BitVec.ofNat 64
        ((List.range n).filter fun i => (List.range (2 ^ u)).any fun b => memRead s.lmem (key + i * 2 ^ u + b) != pat b).length)) none
        (fun _ => x.cur.next))

/-! ## Events: registers written by application cores -/

/-- R259, R260, R322, R334, R337, R352, R353: what an application core's access to a register does: PRECTL asks the running
groups of a virtual function to stop; PFRES resolves a fault pair, so that what it held goes on; VFCFG, VFSALT and PWRCAP
take the values they accept (that a write of EN = 0 while the function runs leaves its other fields to take effect is the model's
choice, log 62); an RC register is read and cleared, for GENDROP at the core that is named (log 47); a store to PDN, through the
context of the application core, marks a record done or sets PERR; an add to RSV answers the value before; another store to a header,
and an address that does not translate, fault and change nothing; before Dawn no access has an effect (R18). -/
def Obligations.HostRegisterEvents : Prop :=
  ∀ s : State,
    let m := s.ev.a
    let v := s.ev.v
    let vf := (v.extractLsb' 0 5).toNat
    let pr : Pair := ⟨m, s.ev.b, (v.extractLsb' 4 12).toNat, (v.extractLsb' 16 40).toNat⟩
    (s.inFabric m = true → v.getLsbD 8 = true → ∃ t, exec .prectl s = .next t ∧
      (t.mod m).preReq.getLsbD vf = true ∧ (∀ k, k ≠ vf → (t.mod m).preReq.getLsbD k = (s.mod m).preReq.getLsbD k) ∧
      ∀ c k g u, s.group? c k = some g → s.team? g.team = some u → ∃ g', t.group? c k = some g' ∧
        g' = if coreMod g.core = m ∧ u.vf = vf ∧ g.preempt = .running then { g with preempt := .asked s.cyc } else g) ∧
    (v.getLsbD 63 = false → (s.mod m).heldPcie = [] → ∃ t, exec .pfres s = .next t ∧ pr ∉ t.pairs ∧
        (∀ q, q ≠ pr → (q ∈ t.pairs ↔ q ∈ s.pairs)) ∧ t.mem = s.mem ∧
        t.log = s.log.map (fun e => if coreMod e.core = m ∧ e.vf = pr.vf ∧ e.ctx = pr.ctx ∧ e.page = pr.page ∧ e.st = 1 ∧ e.loss = false
          then { e with st := 2 } else e) ∧
        ∀ c k g u, s.group? c k = some g → s.team? g.team = some u → coreMod g.core = m → u.vf = pr.vf → u.ctx = pr.ctx →
          pr.page ∈ g.heldPages → ∃ g', t.group? c k = some g' ∧ g'.heldPages = g.heldPages.filter (fun p => decide (p ≠ pr.page)) ∧
            g'.arch = g.arch) ∧
    (s.inFabric m = true →
      (∃ t, exec .vfcfg s = .next t ∧
        some (t.vf m s.ev.b) = vfWritten 0x231 v (s.teams.any fun t => t.m == m && t.vf == s.ev.b) (s.vf m s.ev.b) ∧
        t = { s with modules := t.modules }) ∧
      (∃ t, exec .vfsalt s = .next t ∧ some (t.vf m s.ev.b) = vfWritten 0x232 v false (s.vf m s.ev.b) ∧
        t = { s with modules := t.modules }) ∧
      (∃ t, exec .pwrcap s = .next t ∧ (t.mod m).pwrcap = (if 600 ≤ v.toNat ∧ v.toNat ≤ 1600 then v.toNat else (s.mod m).pwrcap) ∧
        t = { s with modules := t.modules })) ∧
    ((s.mod (coreMod m)).done = false → exec .rcRegisterRead s = .next s) ∧
    (s.ev.b = 0x420 → (s.mod (coreMod m)).done = true → ∃ t, exec .rcRegisterRead s = .next t ∧ t.hostReply = BitVec.ofNat 64 (s.core m).gendrop ∧
      (t.core m).gendrop = 0 ∧ t.mem = s.mem ∧ t.groups = s.groups) ∧
    (s.ev.b = 0x421 → s.inFabric (coreMod m) = true → (s.mod (coreMod m)).done = true → ∃ t, exec .rcRegisterRead s = .next t ∧
      t.hostReply = BitVec.ofNat 64 (s.mod (coreMod m)).syncwr ∧ (t.mod (coreMod m)).syncwr = 0 ∧ t.mem = s.mem) ∧
    ((s.mod m).done = false → exec .pdnStore s = .next s ∧ exec .rsvReserve s = .next s) ∧
    ∀ h, s.ev.host = some h → (s.mod m).done = true →
      let c := hostCtx h m
      (∀ f, agentFault s c .write h.va 8 = some f → exec .pdnStore s = .next { s with hostFault := true }) ∧
      (∀ f, translate s c .write (h.va % 2 ^ 56) = .error f → exec .rsvReserve s = .next { s with hostFault := true }) ∧
      ∀ g ga q', translate s c .write (h.va % 2 ^ 56) = .ok g → g.phys = .dram ga → s.headerQueue? (ga / 128) = some q' →
        let n := q'.m
        let k := q'.node
        let q := s.queue n k
        (agentFault s c .write h.va 8 = none →
          (ga % 128 ≠ 32 → ∃ t, exec .pdnStore s = .next t ∧ t.hostFault = true ∧ t.queues = s.queues ∧ t.mem = s.mem) ∧
          (ga % 128 = 32 →
            ((v.toNat < q.pub ∨ q.rsv ≤ v.toNat ∨ v.toNat ∈ q.done) → ∃ t, exec .pdnStore s = .next t ∧ QueuesKeep s t n k ∧
              t.queue n k = { q with perr := true, pdn := v } ∧ t.mem = s.mem ∧ t.hostFault = false) ∧
            (q.pub ≤ v.toNat → v.toNat < q.rsv → v.toNat ∉ q.done → ∃ t, exec .pdnStore s = .next (gather n false gatherFuel [k] t) ∧
              QueuesKeep s t n k ∧ t.hostFault = false ∧ (t.queue n k).pdn = v ∧ (t.queue n k).perr = q.perr ∧
              (v.toNat = q.pub → q.done = [] → (t.queue n k).pub = q.pub + 1 ∧ (t.queue n k).done = []) ∧
              (v.toNat ≠ q.pub → q.pub ∉ q.done → (t.queue n k).pub = q.pub ∧ v.toNat ∈ (t.queue n k).done)))) ∧
        (ga % 128 ≠ 8 → exec .rsvReserve s = .next { s with hostFault := true }) ∧
        (ga % 128 = 8 → ∃ t, exec .rsvReserve s = .next t ∧ t.hostReply = BitVec.ofNat 64 q.rsv ∧ t.hostFault = false ∧
          QueuesKeep s t n k ∧ t.queue n k = { q with rsv := (q.rsv + v.toNat) % 2 ^ 64 })

/-! ## Events: launches and issue -/

/-- R31, R34, R37 to R45, R50, R122, R262: a node with records enough becomes ready and takes them; the next band of the
activation whose turn it is is placed, its groups as a launch leaves them; an activation passed over long enough reserves,
and a group's priority rises; a parked split is exchanged in; a grid that has triggered or completed adds a credit to each
edge that waits for it, or holds its signal while that edge is full; a group that reaches no safe point stops by force; a spilled block is filled. -/
def Obligations.LaunchEvents : Prop :=
  ∀ s : State,
    let m := s.ev.a
    let n := s.ev.b
    let e := nodeEntry s m n
    let q := s.queue m n
    let es1 := successors s m n true
    let es2 (a : Activation) : List (Nat × Nat) := successors s m n false ++ if a.triggered then [] else es1
    let raised (es : List (Nat × Nat)) (u : State) : Prop := ∀ p ∈ es,
      if edgeCredits s m p.1 p.2 < 65535 then edgeCredits u m p.1 p.2 = edgeCredits s m p.1 p.2 + 1
      else edgeCredits u m p.1 p.2 = 65535 ∧ (m, p.1, p.2) ∈ u.owed
    (∀ c b tm l, readyCount s m n true = some c → e.edges = 0 → q.pub = q.tkn + c → launchShape s m n q.tkn = some (b, tm, l) → 0 < b →
      ∃ t a, exec .coalesceTimeout s = .next t ∧ t.acts = s.acts ++ [a] ∧ a.m = m ∧ a.node = n ∧ a.act = q.nextAct ∧
        a.first = q.tkn ∧ a.count = c ∧ a.bands = b ∧ a.teams = tm ∧ a.lanes = l ∧ a.nextBand = 0 ∧
        (t.queue m n).tkn = q.pub ∧ (t.queue m n).nextAct = q.nextAct + 1 ∧ t.mem = s.mem) ∧
    (∀ a cl, s.act? m n s.ev.c = some a → placesNow s a = true → bandCluster s a e = some cl → a.teams = 1 →
      ∃ t core u gs, exec .placeBand s = .next t ∧ core ∈ fitCores s m cl (ceilDiv a.lanes e.width) (e.gw + e.ga + e.gc + e.gs) ∧
        t.teams = s.teams ++ [u] ∧ t.groups = s.groups ++ gs ∧ gs.length = ceilDiv a.lanes e.width ∧ t.mem = s.mem ∧
        u.core = core ∧ u.band = a.nextBand ∧ u.lanes = a.lanes ∧ u.pl = e.pl ∧ u.vf = e.vf ∧ u.gen = (s.core core).gen + 1 ∧
        (t.core core).gen = u.gen ∧ u.regions = List.replicate 64 Region.zero ∧
        (∀ g ∈ gs, g.core = core ∧ g.team = u.uid ∧ g.width = e.width ∧ g.arch.blocks = List.replicate 15 .unallocated ∧
          g.arch.sregs = List.replicate 48 0 ∧ g.arch.gang = 0 ∧ g.arch.msc = 0 ∧ g.arch.window = [] ∧ g.trap.handler = false ∧
          ∀ p ∈ g.arch.splits, p.pc = BitVec.ofNat 56 e.kva) ∧
        ∀ b, t.act? m n s.ev.c = some b → b.nextBand = a.nextBand + 1) ∧
    (∀ a, s.act? m n s.ev.c = some a → reserveDue s a = true →
      ∃ t, exec .activationReserving s = .next t ∧ t.act? m n s.ev.c = some { a with reserving := true } ∧
        t = { s with acts := t.acts }) ∧
    (∀ g, s.group? m n = some g → 65536 ≤ g.waited → ∃ t, exec .issuePriorityAgeing s = .next t ∧
      t.group? m n = some { g with age := g.age + 1, waited := 0 } ∧ t = { s with groups := t.groups }) ∧
    (∀ g k ks, s.group? m n = some g → g.arch.parked = k :: ks → g.arch.splits ≠ [] → k.since + 4095 ≤ s.cyc →
      (g.preempt = .running ∨ ∃ c, g.preempt = .asked c) →
      ∃ t g', exec .parkedSplitExchange s = .next t ∧ t.group? m n = some g' ∧ g'.arch.blocks = g.arch.blocks ∧
        (∃ p ∈ g'.arch.splits, p.pc = k.pc ∧ ∀ L, k.mask.getLsbD L = true → p.mask.getLsbD L = true) ∧
        ∀ l ∈ g'.arch.window, l.lost = true) ∧
    (∀ a, s.act? m n s.ev.c = some a → Memory.wf s.mem = true → NoPartials s →
      (triggerDue s a = true → ∃ u, exec .gridTrigger s = .next (gather m true gatherFuel (es1.map (·.1)) u) ∧ raised es1 u ∧
        u.act? m n s.ev.c = some { a with triggered := true }) ∧
      (completeDue a = true → ∃ u, exec .gridComplete s = .next (gather m true gatherFuel ((es2 a).map (·.1)) u) ∧
        raised (es2 a) u ∧ u.act? m n s.ev.c = none ∧
        (q.completed = [] → a.first = q.fre → 0 < a.count → (u.queue m n).fre = q.fre + a.count))) ∧
    (∀ g since, s.group? m n = some g → g.preempt = .asked since → since + 65536 ≤ s.cyc → g.twi = none → g.faulted = false →
      g.mentry = none → ∃ t, exec .forcedStop s = .next t ∧ t.group? m n = some { g with
        preempt := .parked true
        arch := { g.arch with window := g.arch.window.map fun l => if l.n then l else { l with lost := true } } }) ∧
    ∀ g tm vs r, s.group? m n = some g → s.team? g.team = some tm → nth g.arch.blocks s.ev.c .unallocated = .spilled vs →
      makeRoom (32 * g.width) g.core g.slot 1024 s = some r → ∃ t g', exec .blockFill s = .next t ∧ t.group? m n = some g' ∧
        nth g'.arch.blocks s.ev.c .unallocated = .resident vs ∧ (∀ k L, laneReg tm g' k L = laneReg tm g k L) ∧ t.mem = s.mem

/-! ## Events: requests at their homes -/

/-- R177, R178, R180, R235, R237, R253, R254, R257, R302: what each request does at the home of its line. -/
def Obligations.DirectoryEvents : Prop :=
  (∀ (s : State) (r : Req), Serves s r .tracked → PlainLine s r.line → (s.dirOf r.line).st.toNat ≤ 5 →
    ¬((s.dirOf r.line).st = 2 ∧ (s.dirOf r.line).owner = some r.core) →
    ∃ t, exec .trackedRead s = .next t ∧ (t.dirOf r.line).st = 1 ∧ holdsTracked t r.core r.line = true ∧
      Answered s t r (r.accs.map fun a => (a.lane, BitVec.ofNat 64 (t.readGa a.ga a.size))) ∧ (NoPartials s → t.mem = s.mem)) ∧
  (∀ (s : State) (r : Req) (cls : Nat), Serves s r (.lease cls) → PlainLine s r.line → s.l1? r.core r.line = none →
    (s.dirOf r.line).owner ≠ some r.core →
    let len := leaseLen s (coreMod r.core) r.vf cls
    ∃ t, exec .leaseLoad s = .next t ∧ (NoPartials s → t.mem = s.mem) ∧
      Answered s t r (r.accs.map fun a => (a.lane, BitVec.ofNat 64 (t.readGa a.ga a.size))) ∧
      (len = 0 → t.l1? r.core r.line = none) ∧
      (0 < len → t.l1? r.core r.line = some ⟨r.core, r.line, r.vf, .leased cls (s.ltick + len)
        (renewMode s (coreMod r.core) r.vf) (t.dirOf r.line).ver (t.dirOf r.line).epo (memLine t.mem r.line)⟩)) ∧
  (∀ (s : State) (r : Req) (store : Bool), Serves s r (.own store) → PlainLine s r.line →
    ((s.dirOf r.line).st = 0 → NoPartials s →
      ∃ t, exec .ownershipRequest s = .next t ∧ Granted s t r) ∧
    let ts := roundTargets s (s.dirOf r.line) r.line (some r.core)
    ((s.dirOf r.line).st = 1 → (s.tag? r.line).isSome = true → ts ≠ [] →
      ∃ t, exec .ownershipRequest s = .next t ∧ (t.dirOf r.line).st = 3 ∧ (t.dirOf r.line).ack = BitVec.ofNat 12 ts.length ∧
        (t.dirOf r.line).req = BitVec.ofNat 12 r.core ∧ t.msgs = s.msgs ++ ts.map (fun c => .inval c r.line) ∧ t.mem = s.mem ∧
        t.l1 = s.l1 ∧ t.reqs = s.reqs.map (fun q => if q.id = r.id then { q with inRound := true } else q))) ∧
  (∀ (s : State) (r : Req) (wis : Bool), Serves s r (.homeWrite wis) → r.fn.writes = true → PlainLine s r.line → NoPartials s →
    (s.dirOf r.line).st = 0 → (s.ev.up = false ∨ r.fn ≠ .atomic 12) → ∃ t, exec .homeWrite s = .next t ∧ Performed s t r) ∧
  (∀ (s : State) (r : Req) (f : Nat), Serves s r .commut → PlainLine s r.line → r.fn = .atomic f → f ≠ 16 → NoPartials s →
    (s.dirOf r.line).st = 0 →
    ∃ t, exec .commutativeUpdate s = .next t ∧ t.mem = s.mem ∧ (t.dirOf r.line).st = 5 ∧ (t.dirOf r.line).ptrs = [r.core] ∧
      t.l1? r.core r.line = some ⟨r.core, r.line, r.vf, .part (fnCop f) (r.accs.foldl (partAdd f) []) r.agent.slots
        (r.domain, r.pagePol)⟩ ∧ Answered s t r []) ∧
  ∀ (s : State), let line := s.ev.b
    s.tags = [] → s.datas = [] → (s.vf (lineMod line) s.ev.a).twmask ≠ 0 → (s.vf (lineMod line) s.ev.a).dwmask ≠ 0 →
    let c := memLine s.mem line
    let dom : Option Nat := if s.syncLine line || !s.ev.up then none else some s.ev.a
    ∃ t g, exec .dramFill s = .next t ∧ t.mem = s.mem ∧ t.tags = [g] ∧ g.line = line ∧ g.vf = s.ev.a ∧ (t.dirOf line).st = 0 ∧
      (∀ i, i < 32 → (t.dirOf line).wtag.extractLsb' (2 * i) 2 = BitVec.ofNat 2 s.ev.c) ∧
      (c = 0 → g.z = true ∧ g.data = none ∧ t.datas = []) ∧
      (c ≠ 0 → ∃ d, t.datas = [d] ∧ d.data = c ∧ d.domain = dom ∧ d.count = 1 ∧ d.vf = s.ev.a ∧
        d.hash = hashLine (if dom.isSome then (s.vf (lineMod line) s.ev.a).salt else 0) c ∧ d.set = d.hash.toNat % 8192 ∧
        d.slice = lineSlice line ∧ g.z = false ∧ g.data = some (d.set, d.way))

/-! ## Events: coherence messages and leases -/

/-- R225, R235, R237, R246, R254, R255, R302: what each coherence message does where it arrives, what an eviction leaves, and
how a lease ends or is renewed. A group whose renewal is refused is rolled back to the window it saved, with the latches that were
lost only while it waited, and the recall of copies when a tag goes is immediate: both are the model's choice (logs 85 and 17). A
group that waited for the reply at a safe point parks when it comes, at the load if it was refused (log 108). -/
def Obligations.CoherenceMessages : Prop :=
  ∀ s : State,
    let a := s.ev.a
    let line := s.ev.b
    let d := s.dirOf line
    (∀ h cop vals slots page, s.l1? a line = some h → h.kind = .part cop vals slots page → a < 8192 → s.l1? (8192 + a) line = none →
      noPath s (coreMod a) (lineMod line) = false → ∃ t, exec .partialDelivery s = .next t ∧
        t.l1? a line = none ∧ t.l1? (8192 + a) line = some ⟨8192 + a, line, h.vf, .part cop vals [] page⟩ ∧ (t.dirOf line).dlv = true ∧
        (∀ k ∈ (t.dirOf line).ptrs, k ≠ a) ∧ t.mem = s.mem ∧ t.msgs = s.msgs ∧ exec .l1Evict s = .next t) ∧
    (noPath s (coreMod a) (lineMod line) = true → exec .partialDelivery s = .next s) ∧
    (noPath s (targetMod a) (lineMod line) = true → exec .invalidation s = .next s ∧ exec .acknowledgement s = .next s) ∧
    (.inval a line ∈ s.msgs → noPath s (targetMod a) (lineMod line) = false →
      ∃ t, exec .invalidation s = .next t ∧ t = { s with l1 := t.l1, msgs := t.msgs } ∧
        t.msgs = s.msgs.erase (.inval a line) ++ [.ack a line] ∧
        (∀ c, c ∈ t.l1 ↔ c ∈ s.l1 ∧ ¬(c.line = line ∧ c.kind = .tracked ∧
          if a < 4096 then c.core = a else coreMod c.core = a - 4096 ∧
            ∀ r, s.reqs.find? (fun r => r.line == line && r.inRound) = some r → c.core ≠ r.core))) ∧
    (.ack a line ∈ s.msgs → NoNotice s a line → d.st = 3 → noPath s (targetMod a) (lineMod line) = false →
      (1 < d.ack.toNat → ∃ t, exec .acknowledgement s = .next t ∧ t = { s with msgs := t.msgs, dir := t.dir } ∧
        t.msgs = s.msgs.erase (.ack a line) ∧ t.dirOf line = { d with ack := d.ack - 1 } ∧
        ∀ l, l ≠ line → t.dirOf l = s.dirOf l) ∧
      (d.ack = 1 → s.reqs.find? (fun r => r.line == line && r.inRound) = none →
        ∃ t, exec .acknowledgement s = .next t ∧ t = { s with msgs := t.msgs, dir := t.dir } ∧
          t.msgs = s.msgs.erase (.ack a line) ∧ (t.dirOf line).st = 0 ∧ (t.dirOf line).ptrs = [] ∧
          ∀ l, l ≠ line → t.dirOf l = s.dirOf l) ∧
      ∀ r, d.ack = 1 → s.reqs.find? (fun r => r.line == line && r.inRound) = some r → r.core < 4096 →
        (∀ store, r.kind = .own store → PlainLine s line → ∃ t, exec .acknowledgement s = .next t ∧ Granted s t r) ∧
        (∀ wis, r.kind = .homeWrite wis → r.fn.writes = true → PlainLine s line → NoPartials s →
          ∃ t, exec .acknowledgement s = .next t ∧ Performed s t r)) ∧
    (.ack a line ∈ s.msgs → d.st ≠ 3 → NoNotice s a line → noPath s (targetMod a) (lineMod line) = false →
      exec .acknowledgement s = .next { s with msgs := s.msgs.erase (.ack a line) }) ∧
    (.notice a line ∈ s.msgs → ∃ t, exec .evictionNotice s = .next t ∧ t = { s with msgs := t.msgs, dir := t.dir } ∧
      t.msgs = s.msgs.erase (.notice a line) ∧ (∀ l, l ≠ line → t.dirOf l = s.dirOf l) ∧
      (d.st = 1 → d.crs = false → a ∈ d.ptrs → a ∉ (t.dirOf line).ptrs ∧
        ((t.dirOf line).st = if d.ptrs.all (fun c => c == a) then 0 else 1))) ∧
    (∀ c, s.l1? a line = some c →
      (c.kind = .tracked → ∃ t, exec .l1Evict s = .next t ∧ t.l1? a line = none ∧ t.msgs = s.msgs ++ [.notice a line] ∧
        t.mem = s.mem ∧ t.dir = s.dir) ∧
      (∀ cls ex rn ver epo v, c.kind = .leased cls ex rn ver epo v →
        (∃ t, exec .l1Evict s = .next t ∧ t.l1? a line = none ∧ t.msgs = s.msgs ∧ t.mem = s.mem ∧ t.dir = s.dir) ∧
        (s.ltick < ex → exec .leaseExpiry s = .next s) ∧
        (ex ≤ s.ltick → rn = false → ∃ t, exec .leaseExpiry s = .next t ∧ t = { s with l1 := t.l1 } ∧ t.l1? a line = none)) ∧
      (∀ dirty, c.kind = .owned dirty → NoPartials s → (∀ e ∈ s.l1, e.line = line → e = c) →
        noPath s (coreMod a) (lineMod line) = false →
        ∃ t, exec .l1Evict s = .next t ∧ t.l1? a line = none ∧ (t.dirOf line).st = 0 ∧ t.mem = s.mem ∧ t.msgs = s.msgs) ∧
      (∀ mask, c.kind = .priv mask → NoPartials s → noPath s (coreMod a) (lineMod line) = false →
        ∃ t, exec .l1Evict s = .next t ∧ t.l1? a line = none ∧ t.mem = s.mem ∧ t.msgs = s.msgs)) ∧
    ∀ g w l, s.group? a line = some g → g.twi = some w → w.lines[s.ev.c]? = some l → (s.tag? l.line).isSome = true →
      (s.dirOf l.line).st.toNat ≤ 1 → noPath s (coreMod g.core) (lineMod l.line) = false →
      (s.mod (lineMod l.line)).done = true →
      let left := w.lines.filter fun y => decide (y.line ≠ l.line)
      ((s.dirOf l.line).ver = l.ver ∧ (s.dirOf l.line).epo = l.epo → ∃ t, exec .renewalReply s = .next t ∧ t.mem = s.mem ∧
        (left ≠ [] ∨ g.parkMask = none → t.group? a line =
          some { g with twi := if left = [] then none else some { w with lines := left } }) ∧
        (∀ mask, left = [] → g.parkMask = some mask → ∃ g', t.group? a line = some g' ∧ g'.twi = none ∧ g'.parkMask = none ∧
          g'.preempt = .parked false ∧ g'.arch.splits = g.arch.splits ∧ g'.arch.sregs = g.arch.sregs ∧ g'.txns = g.txns ∧
          g'.arch.window = loseLatches g.arch.window) ∧
        ∀ h cls ex rn ver epo v, s.l1? g.core l.line = some h → h.kind = .leased cls ex rn ver epo v →
          let rn' := renewMode s (coreMod g.core) h.vf
          let ex' := s.ltick + leaseLen s (coreMod g.core) h.vf cls
          t.l1? g.core l.line = some { h with kind := .leased cls ex' rn' ver epo v }) ∧
      (¬((s.dirOf l.line).ver = l.ver ∧ (s.dirOf l.line).epo = l.epo) → g.arch.blocks.length = w.saved.blocks.length →
        ∃ t g', exec .renewalReply s = .next t ∧ t.group? a line = some g' ∧ t.mem = s.mem ∧ g'.twi = none ∧
          g'.parkMask = none ∧ g'.preempt = (if g.parkMask.isSome then .parked false else g.preempt) ∧
          (∀ T ∈ g'.txns, T.id ≠ w.own) ∧
          g'.arch.window = (if g.parkMask.isSome then loseLatches w.saved.window else w.saved.window) ∧ g'.arch.sregs = w.saved.sregs ∧
          g'.arch.aregs = w.saved.aregs ∧ g'.arch.fpcr = w.saved.fpcr ∧ g'.arch.srseed = w.saved.srseed ∧
          (∀ tm k L, k < 120 → laneReg tm g' k L = laneReg tm { g with arch := w.saved } k L) ∧
          g'.arch.splits.map (fun p => (p.slot, p.pc, p.mask)) = w.saved.splits.map (fun p => (p.slot, p.pc, p.mask)))

/-! ## Events: the matrix engine, copies and chunk graphs -/

/-- R247, R284, R285, R286, R292, R293: an idle engine grants the ready entry of the highest effective priority, and an
operation granted is performed once its lines are full: a load latches its tile, a pass folds every element of its C tile,
a drain stores every element it converts. -/
def Obligations.EngineEvents : Prop :=
  ∀ s : State,
    let cl := s.ev.a
    let e := s.engine cl
    (∀ i hs, e.running = none → i < 16 → entryReady s e i (e.entry i) = true → (e.entry i).heads = some hs →
      (∀ j, j < 16 → j ≠ i → entryReady s e j (e.entry j) = true → (e.entry j).eff < (e.entry i).eff ∨ ((e.entry j).eff = (e.entry i).eff ∧
        (((e.entry i).pseq - e.nextPseq).toNat < ((e.entry j).pseq - e.nextPseq).toNat ∨
          ((e.entry i).pseq = (e.entry j).pseq ∧ i < j)))) →
      ∃ t, exec .matrixGrant s = .next t ∧ t = { s with engines := t.engines } ∧ (t.engine cl).running = some (i, hs) ∧
        (t.engine cl).tile = e.tile ∧ (t.engine cl).lown = e.lown ∧
        (t.engine cl).entry i = { e.entry i with
          st := 3
          age := 0
          wait := 0 } ∧
        ∀ j, j < 16 → j ≠ i → (t.engine cl).entry j = if entryReady s e j (e.entry j) = true then
          (if (e.entry j).wait = 15 then { e.entry j with age := min 15 ((e.entry j).age + 1), wait := 0 }
            else { e.entry j with wait := (e.entry j).wait + 1 }) else e.entry j) ∧
    (∀ r, e.running = some r → exec .matrixGrant s = .next s) ∧
    (e.running = none → exec .matrixOperationComplete s = .next s) ∧
    (∀ i hs, e.running = some (i, hs) → needsReload e i hs = false → hs.all (taskReady s e.tile) = false →
      exec .matrixOperationComplete s = .next s) ∧
    (∀ i k d own u, e.running = some (i, [k]) → k.op = .load d → k.mem = 0 → k.old = [] → s.team? k.team = some own → s.team? k.named = some u →
      allFull s (lineRun (regionKey u 1 (wOff d)) (wLines d)) = true →
      ∃ t, exec .matrixOperationComplete s = .next t ∧ (t.engine cl).running = none ∧ (t.engine cl).tile = some (readTile s (regionKey u 1 (wOff d)) d) ∧
        ((e.entry i).gang = 0 → (e.entry i).exited = false → (t.engine cl).lown = some i) ∧
        StatusIs s t k (loadStatus (readTile s (regionKey u 1 (wOff d)) d)) ∧ t.lmem = s.lmem ∧ t.mem = s.mem) ∧
    (∀ i k d msc w own u T, PassReady s cl i k d msc w own u T → Memory.wf s.lmem = true →
      let c := regionKey own 3 (pCoff d)
      let f0 : Flags := if T.trn then Flag.trn else 0
      ∃ t, exec .matrixOperationComplete s = .next t ∧ (t.engine cl).running = none ∧ (t.engine cl).tile = some T ∧ t.mem = s.mem ∧
        (∀ m n, m < pM d → n < T.n →
          BitVec.ofNat 32 (memReadLE t.lmem (c + 128 * (m * ceilDiv T.n 32) + 4 * n) 4) = (passAt s d msc own u T m n).1) ∧
        (∀ a, a < c ∨ c + 128 * cLines (pM d) T.n ≤ a → memRead t.lmem a = memRead s.lmem a) ∧
        StatusIs s t k (opStatus ((List.range (pM d)).foldl (fun f m => f ||| (List.range T.n).foldl
          (fun f n => f ||| (passAt s d msc own u T m n).2) 0) f0) false false)) ∧
    ∀ i k d own, e.running = some (i, [k]) → k.op = .drain d → s.team? k.team = some own → needsReload e i [k] = false →
      taskReady s e.tile k = true → k.old = [] → s.lpoison = [] → (e.entry i).touched = [] → own.lsOff % 128 = 0 → drainFmt d = true →
      Memory.wf s.lmem = true →
      let c := regionKey own 3 (dCoff d)
      let q := regionKey own 2 (dDoff d)
      let row := rowLines (dFmt d) (dN d)
      let w := fmtWidth (dFmt d)
      let at_ (m n : Nat) : Word := BitVec.ofNat 32 (memReadLE s.lmem (c + 128 * (m * ceilDiv (dN d) 32) + 4 * n) 4)
      let block (m b : Nat) : Nat × List Nat × Flags := mxPack (dFmt d)
        ((((List.range (dN d)).drop (32 * b)).take 32).map fun n => decodeF Fmt.f32 (at_ m n).toNat)
      ∃ t, exec .matrixOperationComplete s = .next t ∧ (t.engine cl).running = none ∧ (t.engine cl).tile = e.tile ∧ t.mem = s.mem ∧
        (∀ l ∈ lineRun q (dM d * row), t.lineState l = some .full) ∧
        (∀ a, a < q ∨ q + 128 * aLines (dFmt d) (dN d) (dM d) (dMx d) ≤ a → memRead t.lmem a = memRead s.lmem a) ∧
        (dMx d = false → (∀ m n, m < dM d → n < dN d →
          memReadLE t.lmem (q + 128 * (m * row) + n * (w / 8)) (w / 8) = (drainElem d (at_ m n)).1.toNat % 2 ^ w) ∧
          StatusIs s t k (opStatus ((List.range (dM d)).foldl (fun f m => f ||| (List.range (dN d)).foldl
            (fun f n => f ||| (drainElem d (at_ m n)).2) 0) 0) false false)) ∧
        (dMx d = true → ∀ m n, m < dM d → n < dN d →
          codeAt t.lmem (q + 128 * (m * row)) w n = nth (block m (n / 32)).2.1 (n % 32) 0 % 2 ^ w ∧
          memReadLE t.lmem (q + 128 * (dM d * row) + 32 * m + n / 32) 1 = (block m (n / 32)).1 % 256)

/-- R174, R249, R269, R270, R271, R306, R307, R308: a line of a copy arrives with the bytes its source line holds, or is
dropped and counted where no allocation of its generation holds its line now; a run activates in its turn; a chunk moves or reduces its line,
increments its counter, and the last chunk of a run ends it; a chunk to a module that has been lost is skipped. -/
def Obligations.CopyAndGraphEvents : Prop :=
  (∀ (s : State) (c : Copy) (d : Nat × Nat × BitVec 16), let j := s.ev.c
    let r := c.reg
    s.copies.find? (fun x => x.id == s.ev.a) = some c → c.dests.find? (fun x => x.1 == s.ev.b) = some d → j < c.lines →
    (s.ev.b, j) ∉ c.landed → Memory.wf s.lmem = true →
    let line := (lookupNat d.1 c.bases).getD 0 + r.woff + j / r.perRow * r.stride + j % r.perRow
    let k := localKey d.1 0 / 128 + line
    (∀ u ga p, r.src = 0 → c.data.find? (fun x => x.1 = j) = none →
      let col := j % r.perRow
      let va := (BitVec.ofInt 56 ((r.gva.toNat : Int) + ((j / r.perRow : Nat) : Int) * r.gst.toInt + ((128 * col : Nat) : Int))).toNat
      let n := min 128 (ceilDiv (rowBits r.fmt r.elems) 8 - 128 * col)
      va / 65536 ∉ c.failed → 0 < n → va % 128 + n ≤ 128 → translate s c.tctx .read va = .ok p → p.phys = .dram ga → groupBusy s c (ga / 128) va = false →
      noPath s (coreMod c.core) (lineMod (ga / 128)) = false → homeWaits s (ga / 128) false = false → ga / 128 ∉ s.poison →
      NoPartials s → teamAt s d.1 line = some u → u.gen = d.2.2 → sealedLine s d.1 k = false →
      let v : LineData := BitVec.ofNat 1024 (s.readGa ga n) &&& elemMask r col
      ∃ t, exec .copyArrival s = .next t ∧ t.mem = s.mem ∧ t.lineState k = some .full ∧
        (∀ b, b < 128 → memRead t.lmem (128 * k + b) = v.extractLsb' (8 * b) 8) ∧
        (∀ a, a / 128 ≠ k → memRead t.lmem a = memRead s.lmem a) ∧
        (c.landed.length + 1 = c.lines * c.dests.length → (∀ x ∈ t.copies, x.id ≠ c.id) ∧
          ∀ g ∈ t.groups, c.id ∉ g.pending ∧ ∀ b ∈ g.batches, c.id ∉ b.copies ∧ b.copies ≠ []) ∧
        (c.landed.length + 1 ≠ c.lines * c.dests.length → ∃ y, t.copies.find? (fun x => x.id == c.id) = some y ∧
          y.landed = (s.ev.b, j) :: c.landed)) ∧
    (∀ x, c.reading = true → c.data.find? (fun x => x.1 = j) = some x → (∀ u, teamAt s d.1 line = some u → u.gen ≠ d.2.2) →
      ∃ t, exec .copyArrival s = .next t ∧ t.lmem = s.lmem ∧ (t.core d.1).gendrop = min ((s.core d.1).gendrop + 1) (2 ^ 32 - 1))) ∧
  (∀ (s : State) (r : CRun), s.run? s.ev.a = some r →
    (activates s r = true → ∃ t, exec .runActivate s = .next t ∧ t = { s with runs := t.runs } ∧ t.run? r.id = some { r with
      active := true
      states := (runChunks s r).map fun c => if c.dep = 0 then .started else .waiting c.dep }) ∧
    (activates s r = false → exec .runActivate s = .next s)) ∧
  (∀ (s : State) (r : CRun) (c : Chunk), OneChunk s r c → Memory.wf s.mem = true → NoPartials s →
    (∀ g ga, c.op = 3 → c.ce = true → translate s (r.tctx c.dm) .write (chunkVa r c.cb c.coff) = .ok g → g.phys = .dram ga →
      g.ty = 0 → ga % 8 = 0 → lookupNat (ga / 8) s.sync = some .counter →
      ∃ t, exec .chunkComplete s = .next t ∧ WordSet s t ga ((memReadLE s.mem ga 8 + 1) % 2 ^ 64) ∧ RunOver s t r 0) ∧
    (∀ g h a b, c.op < 3 → c.lines = 1 → c.ce = false → chunkVa r c.sb c.soff % 128 = 0 → chunkVa r c.db c.doff % 128 = 0 →
      translate s (r.tctx c.sm) .read (chunkVa r c.sb c.soff) = .ok g → g.phys = .dram (128 * a) →
      translate s (r.tctx c.dm) .write (chunkVa r c.db c.doff) = .ok h → h.phys = .dram (128 * b) →
      a ∉ s.poison → b ∉ s.poison → s.headerQueue? a = none → PlainLine s b → hitsSync s (128 * b) 128 = false →
      ∃ t, exec .chunkComplete s = .next t ∧ memLine t.mem b = chunkData c.op (memLine s.mem a) (memLine s.mem b) ∧
        (∀ x, x / 128 ≠ b → memRead t.mem x = memRead s.mem x) ∧ t.lmem = s.lmem ∧ RunOver s t r 0)) ∧
  ∀ (s : State) (r : CRun) (c : Chunk), s.run? s.ev.a = some r → r.states[s.ev.b]? = some .started → (runChunks s r)[s.ev.b]? = some c →
    (chunkCut s r c = false → exec .chunkSkip s = .next s) ∧
    (chunkCut s r c = true →
      let gone := reachFrom (runChunks s r) (runChunks s r).length [s.ev.b]
      let sts := r.states.mapIdx fun j (x : ChunkState) => if gone.contains j then .skipped else x
      ∃ t, exec .chunkSkip s = .next t ∧ t.mem = s.mem ∧
        (sts.all ChunkState.over = false → t.groups = s.groups ∧ t.run? r.id = some { r with
          skipped := true
          states := sts }) ∧
        (sts.all ChunkState.over = true → r.active = true →
          RunOver s t r (BitVec.ofNat 64 (r.poison.toNat + 2 + 4 * r.lost.toNat))))

/-! ## Events: replays, packets, arrivals and records -/

/-- R218, R243, R244, R264, R265, R273, R274, R316, R335: what a side-log entry, a packet of a stream, an arrival at a parent
barrier and a watchdog bring, and how a record that waited takes a freed slot. That the replay and the packets of a stream
of a passed epoch are reported and dropped as they are is the model's reading (log 21); that a bad parent is counted in the SYNCERR of
the module that is home to its word, and one that no address names in that of the module it came from, is the model's choice
(log 107). A packet whose write sharers have still to acknowledge waits, and its home tells them. -/
def Obligations.TrafficEvents : Prop :=
  ∀ s : State,
    let a := s.ev.a
    let b := s.ev.b
    let x := s.stream a b
    let w := s.window a b
    let q := s.queue a b
    (∀ e, s.log.find? (fun e => e.core == a && !e.loss) = some e →
      let rest := s.log.filter fun y => !(y.core == e.core && y.seq == e.seq)
      (e.st ≠ 2 → exec .sideLogReplay s = .next s) ∧
      (∀ l p ga, e.st = 2 → e.remote = false → e.pseq = none → e.fn = .write → e.lanes = [l] → 0 < e.size → e.size ≤ 8 →
        l.va.toNat % 128 + e.size ≤ 128 → translate s e.tctx .write l.va.toNat = .ok p → p.phys = .dram ga → p.ty ≠ 2 →
        noPath s (coreMod a) (lineMod (ga / 128)) = false → homeWaits s (ga / 128) true = false → tableBusy s (ga / 128) e.born = false →
        earlierAccess s e (ga / 128) = false → PlainLine s (ga / 128) → NoPartials s → Memory.wf s.mem = true →
        ∃ t, exec .sideLogReplay s = .next t ∧ t.log = rest ∧ t.lmem = s.lmem ∧ ∀ y, memRead t.mem y =
          if ga ≤ y ∧ y < ga + e.size then l.data.extractLsb' (8 * (y - ga)) 8 else memRead s.mem y) ∧
      (∀ f, e.st = 2 → e.remote = false → e.pseq = none → e.zo = false → logFault s e = some f → f.page = e.page →
        (⟨coreMod e.core, e.vf, e.ctx, f.page⟩ : Pair) ∉ s.pairs → ∃ t, exec .sideLogReplay s = .next t ∧
          ∀ y ∈ t.log, y.core = e.core → y.seq = e.seq → y.loss = true) ∧
      (e.st = 2 → e.pseq = none → e.zo = false → e.fn ≠ .cinc → logFault s e = none →
        ((entryPieces s e).flatMap (pieceSpans s e)).any (fun p => hitsSync s p.1 p.2) = true → ∃ t, exec .sideLogReplay s = .next t ∧
          ∀ y ∈ t.log, y.core = e.core → y.seq = e.seq → y.loss = true)) ∧
    (∀ p, x.flight.find? (fun p => p.seq = s.ev.c) = some p →
      (noPath s (coreMod a) b = true → exec .packetArrival s = .next s) ∧
      (noPath s (coreMod a) b = false → p.epo ≠ w.epo → ∃ t, exec .packetArrival s = .next t ∧
        t.stream a b = { x.drop p.seq with epo := w.epo }) ∧
      (∀ c, noPath s (coreMod a) b = false → p.epo = w.epo → x.flight = [p] → w.reorder = [] → seqDiff p.seq w.dseq < 2 ^ 31 →
        p.accs = [c] → packetBlocked s p = false → PlainLine s (c.ga / 128) → hitsSync s c.ga c.size = false → NoPartials s →
        Memory.wf s.mem = true →
        let went (t : State) : Prop := (t.stream a b).flight = [] ∧ (t.stream a b).buffer = x.buffer ∧
          (t.window a b).dseq = (p.seq + 1) % 2 ^ 32 ∧ (t.window a b).reorder = [] ∧ t.lmem = s.lmem
        (p.fn = .write → p.txn = none → ∃ t, exec .packetArrival s = .next t ∧ went t ∧ t.groups = s.groups ∧
          t.mem = memWriteLE s.mem c.ga c.size c.data.toNat) ∧
        ∀ id g, p.fn = .read → p.txn = some id → s.group? a p.slot = some g →
          ∃ t, exec .packetArrival s = .next t ∧ went t ∧ t.mem = s.mem ∧ t.group? a p.slot = some { g with txns := g.txns.map fun y =>
            if y.id = id then { y.give c.lane c.off (BitVec.ofNat 64 (s.readGa c.ga c.size)) with out := y.out - 1 } else y }) ∧
      (∀ c, noPath s (coreMod a) b = false → p.epo = w.epo → x.flight = [p] → w.reorder = [] → seqDiff p.seq w.dseq < 2 ^ 31 →
        p.accs = [c] → p.fn.writes = true → sharersHold s (c.ga / 128) = true → halfDone s (c.ga / 128) = false →
        let ts := roundTargets s (s.dirOf (c.ga / 128)) (c.ga / 128) none
        ∃ t, exec .packetArrival s = .next t ∧ t.mem = s.mem ∧ t.streams = s.streams ∧ (t.window a b).reorder = [p] ∧
          (t.dirOf (c.ga / 128)).st = 3 ∧ (t.dirOf (c.ga / 128)).ack = BitVec.ofNat 12 ts.length ∧
          t.msgs = s.msgs ++ ts.map (fun k => .inval k (c.ga / 128)))) ∧
    (∃ t, exec .custodyAck s = .next t ∧ t = { s with streams := t.streams } ∧ (t.stream a b).flight = x.flight ∧
      (t.stream a b).buffer = x.buffer.filter (fun p => decide (p.seq ≠ s.ev.c)) ∧ (t.stream a b).epo = x.epo ∧
      (t.stream a b).nseq = x.nseq) ∧
    (∀ p pg ga, s.parents[a]? = some p → translate s ⟨p.m, p.vf, p.ctx, p.l0, p.pl⟩ .write p.va.toNat = .ok pg → pg.phys = .dram ga →
      noPath s p.m (lineMod (ga / 128)) = false → homeWaits s (ga / 128) true = false → tableBusy s (ga / 128) s.nextId = false →
      let v := memReadLE s.mem ga 8
      let good := pg.ty = 0 ∧ ga % 8 = 0 ∧ lookupNat (ga / 8) s.sync = some .barrier ∧ p.depth < 8
      (good → NoPartials s → Memory.wf s.mem = true → ∃ t, exec .parentArrival s = .next t ∧ WordSet s t ga (barNext v) ∧
        ∃ up, t.parents = s.parents.eraseIdx a ++ up ∧
          up = if barEx v ≤ barArr v + 1 ∧ barPar v ≠ 0 then [⟨p.va + BitVec.ofInt 56 (8 * signed 24 (barPar v)), p.m, p.vf, p.ctx, p.l0, p.pl,
            p.depth + 1⟩] else []) ∧
      (¬good → s.inFabric (lineMod (ga / 128)) = true → ∃ t, exec .parentArrival s = .next t ∧ t.parents = s.parents.eraseIdx a ∧
        t.mem = s.mem ∧ (t.mod (lineMod (ga / 128))).syncerr = min ((s.mod (lineMod (ga / 128))).syncerr + 1) (2 ^ 32 - 1))) ∧
    (∀ p f, s.parents[a]? = some p → translate s ⟨p.m, p.vf, p.ctx, p.l0, p.pl⟩ .write p.va.toNat = .error f → s.inFabric p.m = true →
      ∃ t, exec .parentArrival s = .next t ∧ t.parents = s.parents.eraseIdx a ∧ t.mem = s.mem ∧
        (t.mod p.m).syncerr = min ((s.mod p.m).syncerr + 1) (2 ^ 32 - 1)) ∧
    (q.wdt = 0 ∨ q.en = false ∨ q.wdg = true ∨ q.rsv ≤ q.fre ∨ q.wcount < q.wdt → exec .watchdogFire s = .next s) ∧
    (q.wdt ≠ 0 → q.en = true → q.wdg = false → q.fre < q.rsv → q.wdt ≤ q.wcount → watchdogWaits s a b = false →
      let sq := s.queue a q.sup
      ∃ u, exec .watchdogFire s = .next (gather a false gatherFuel [q.sup] u) ∧
        (canDeliver s a q.sup (nodeEntry s a b).vf = false → u.mem = s.mem ∧ u.queue a b = { q with
          wdg := true
          wcnt := min (q.wcnt + 1) 65535
          wlost := true }) ∧
        (canDeliver s a q.sup (nodeEntry s a b).vf = true → q.sup ≠ b → sq.rsv - sq.freAt s.cyc < sq.cap → sq.waiting = [] →
          slotsHeld s a q.sup 1 = [] →
          u.queue a b = { q with
            wdg := true
            wcnt := min (q.wcnt + 1) 65535 } ∧
          (u.queue a q.sup).rsv = sq.rsv + 1 ∧ (sq.pub = sq.rsv → sq.done = [] → (u.queue a q.sup).pub = sq.rsv + 1))) ∧
    (∀ r rest, q.waiting = r :: rest →
      (q.cap ≤ q.rsv - q.freAt s.cyc → exec .emitSpaceFreed s = .next s) ∧
      (q.rsv - q.freAt s.cyc < q.cap → slotsHeld s a b 1 ≠ [] →
        exec .emitSpaceFreed s = .next (openRounds s (slotsHeld s a b 1))) ∧
      (q.rsv - q.freAt s.cyc < q.cap → slotsHeld s a b 1 = [] → ∃ u, exec .emitSpaceFreed s = .next (gather a false gatherFuel [b] u) ∧
        (u.queue a b).waiting = rest ∧ (u.queue a b).rsv = q.rsv + 1 ∧
        (q.pub = q.rsv → q.done = [] → (u.queue a b).pub = q.rsv + 1)))

/-! ## Events: links and lost paths -/

/-- R218, R244, R245, R246, R340, R351: a link found down trains at both ends and its streams send again; training succeeds,
fails, or retires the port; 200 µs without a path the cores of a module discard their copies of the lost home's lines and
UNREACH can be raised for its packets; 2 ms after a recall or an invalidation was sent a home goes on without a module it cannot reach; a path that is back lets
what waited for it go on. That both ends of a link change in one step (log 53) and that the clocks of 200 µs and 2 ms are 210,000 and
2,100,000 (log 71) is the model's choice. -/
def Obligations.LinkEvents : Prop :=
  ∀ s : State,
    let m := s.ev.a
    let b := s.ev.b
    (∀ p, (s.mod m).ports[b]? = some p → p.st ≠ 3 → exec .linkDown s = .next s) ∧
    (∀ p, (s.mod m).ports[b]? = some p → p.st = 3 → s.inFabric m = true → ∃ t, exec .linkDown s = .next t ∧
      ((t.mod m).ports[b]?.map (·.st) = some 2) ∧
      (∀ r, s.inFabric p.peer = true → (s.mod p.peer).ports[p.pport]? = some r → (t.mod p.peer).ports[p.pport]?.map (·.st) = some 2) ∧
      t.mem = s.mem ∧ t.groups = s.groups ∧
      (s.inFabric p.peer = true → m ≠ p.peer → pathExists t m p.peer = false → noPath t m p.peer = true) ∧
      ∀ x ∈ s.streams, coreMod x.core = m → x.target = p.peer → { x with
        flight := x.flight ++ x.buffer.filter fun y => !x.flight.any fun z => z.seq = y.seq } ∈ t.streams) ∧
    (∀ p, (s.mod m).ports[b]? = some p → (p.st ≠ 2 → exec .linkTrainingComplete s = .next s) ∧
      (p.st = 2 → p.peer ≠ m → s.inFabric m = true →
        (s.ev.up = true → ∃ t, exec .linkTrainingComplete s = .next t ∧
          (t.mod m).ports[b]?.map (fun q => (q.st, q.fail)) = some (3, 0) ∧
          (∀ r, s.inFabric p.peer = true → (s.mod p.peer).ports[p.pport]? = some r → (t.mod p.peer).ports[p.pport]?.map (fun q => (q.st, q.fail)) = some (3, 0))) ∧
        (s.ev.up = false → p.fail < 2 → ∃ t, exec .linkTrainingComplete s = .next t ∧
          (t.mod m).ports[b]? = some { p with fail := p.fail + 1 }) ∧
        (s.ev.up = false → 2 ≤ p.fail → b < 16 → p.pport < 16 → ∃ t, exec .linkTrainingComplete s = .next t ∧
          (t.mod m).ports[b]?.map (·.st) = some 4 ∧ (t.mod m).rport.getLsbD b = true ∧ (t.mod m).adv = true ∧
          (t.mod m).advKind = 3 ∧ (t.mod m).advLast = BitVec.ofNat 12 b ∧
          (s.inFabric p.peer = true → (t.mod p.peer).rport.getLsbD p.pport = true)))) ∧
    (∀ p, s.nopath.find? (fun p => p.m == m && p.h == b) = some p →
      (p.applied = true ∨ s.cyc < p.since + Config.lossClocks → exec .lossOfHome s = .next s) ∧
      (p.applied = false → p.since + Config.lossClocks ≤ s.cyc → ∃ t, exec .lossOfHome s = .next t ∧ cutOff t m b = true ∧
        (∀ c ∈ t.l1, c.core < 8192 → coreMod c.core = m → lineMod c.line = b → ∃ cop v slots page, c.kind = .part cop v slots page) ∧
        ∀ c k g w l, (s.groups.filter fun h => h.core == c && h.slot == k) = [g] → coreMod c = m → g.twi = some w → l ∈ w.lines →
          lineMod l.line = b →
          (g.parkMask = none → t.group? c k = some (g.dropTwilight w)) ∧
          (g.parkMask.isSome = true → ∃ g', t.group? c k = some g' ∧ g'.twi = none ∧ g'.preempt = .parked false ∧
            g'.arch.splits = (g.dropTwilight w).arch.splits ∧ g'.arch.sregs = w.saved.sregs))) ∧
    (let line := m
     let d := s.dirOf line
     (cutOff s b (lineMod line) = false → exec .sharerPresumedUnreachable s = .next s) ∧
     (s.cyc < d.sent + Config.presumeClocks → (∀ p ∈ s.nopath, p.since ≤ d.sent) → exec .sharerPresumedUnreachable s = .next s) ∧
     (cutOff s b (lineMod line) = true → d.st = 3 → d.sent + Config.presumeClocks ≤ s.cyc → (s.msgs.filter (ofModule b line)).length < d.ack.toNat →
       ∃ t, exec .sharerPresumedUnreachable s = .next t ∧ t.msgs = s.msgs.filter (fun x => !ofModule b line x) ∧
         t.dirOf line = { d with ack := d.ack - BitVec.ofNat 12 (s.msgs.filter (ofModule b line)).length } ∧ t.mem = s.mem) ∧
     (∀ o p, s.nopath.find? (fun p => p.m == b && p.h == lineMod line && p.applied) = some p → d.st = 2 → d.ptrs = [o] → coreMod o = b →
       d.sent < p.since →
         (s.reqs.any (fun r => r.line == line) = false → exec .sharerPresumedUnreachable s = .next s) ∧
         (s.reqs.any (fun r => r.line == line) = true → ∃ t, exec .sharerPresumedUnreachable s = .next t ∧ t = { s with dir := t.dir } ∧
           t.dirOf line = { d with sent := s.cyc })) ∧
     (∀ o h k p, s.nopath.find? (fun p => p.m == b && p.h == lineMod line && p.applied) = some p → d.st = 2 → d.ptrs = [o] →
       coreMod o = b → p.since ≤ d.sent → d.sent + Config.presumeClocks ≤ s.cyc → s.l1? o line = some h → h.kind = .owned k → k ≠ 0 →
       ∃ t, exec .sharerPresumedUnreachable s = .next t ∧ line ∈ t.poison ∧ (t.dirOf line).st = 0 ∧ t.l1? o line = none ∧ t.mem = s.mem)) ∧
    (cutOff s (coreMod m) b = false → exec .remoteUnreachable s = .next s) ∧
    (∀ p g tm, cutOff s (coreMod m) b = true → (s.stream m b).flight = [p] → s.group? m p.slot = some g → s.team? g.team = some tm →
      (∀ id, p.txn = some id → p.fn ≠ .cinc → ∃ t, exec .remoteUnreachable s = .next t ∧ (t.stream m b).flight = [] ∧ t.log = s.log ∧
        t.group? m p.slot = some { g with txns := g.txns.filter fun y => decide (y.id ≠ id) }) ∧
      (p.txn = none ∨ p.fn = .cinc → 0 < logRoom s m → ∃ t e, exec .remoteUnreachable s = .next t ∧ (t.stream m b).flight = [] ∧
        t.log = s.log ++ [e] ∧
        e.core = m ∧ e.slot = p.slot ∧ e.peer = b ∧ e.zo = true ∧ e.remote = true ∧ e.st = 3 ∧ e.fn = p.fn ∧ e.lanes = p.lanes ∧
        e.pseq = some p.seq ∧ e.epo = p.epo ∧ e.seq = (s.core m).logSeq)) ∧
    (pathExists s m b = false → exec .pathRestored s = .next s) ∧
    (s.nopath.any (fun p => p.m == m && p.h == b) = true → pathExists s m b = true → NoPartials s →
      ∃ t, exec .pathRestored s = .next t ∧ t.nopath = s.nopath.filter (fun p => !(p.m == m && p.h == b)) ∧ t.mem = s.mem ∧ t.l1 = s.l1 ∧
        t.log = s.log.map (fun e => if coreMod e.core = m ∧ e.peer = b ∧ e.st = 3 then { e with st := 2 } else e))

/-! ## Events: ports, measurements, boot, errors and retirement -/

/-- R348, R349: what a root port answers to an endpoint's request: unsupported where the slot is not valid; held or aborted
where a page faults; else the bytes are written or read; and what the SPDM responder answers. The digests, certificates and
signatures it gives are free (log 6). That a read of poisoned bytes is answered as any other is the model's choice (log 67). -/
def Obligations.PortAndMeasurementEvents : Prop :=
  ∀ s : State,
    let m := s.ev.a
    let port := s.ev.b
    (∀ r, s.ev.pcie = some r → s.inFabric m = true →
      (15 < r.pasid.getD 0 ∨ slotCtx s m port (r.pasid.getD 0) = none → ∃ t, exec .pcieRequest s = .next t ∧
        t = { s with modules := t.modules } ∧ (t.mod m).pcie = .unsupportedRequest) ∧
      (∀ c, r.pasid.getD 0 ≤ 15 → slotCtx s m port (r.pasid.getD 0) = some c →
        (∀ f, reqFault s c r = some f →
          let pr : Pair := ⟨c.m, c.vf, c.ctx, f.page⟩
          let sup := (nth (s.mod m).psup port 0).toNat
          (pr ∈ s.pairs → ∃ t, exec .pcieRequest s = .next t ∧ t.mem = s.mem ∧
            (t.mod m).heldPcie = (s.mod m).heldPcie ++ [⟨s.nextId, port, r.pasid.getD 0, f.page, r, false⟩]) ∧
          (pr ∉ s.pairs → sup = 0x3FF ∨ (nodeEntry s m sup).assigned = false ∨ (s.queue m sup).enAt s.cyc = false →
            ∃ t, exec .pcieRequest s = .next t ∧ t = { s with modules := t.modules } ∧ (t.mod m).pcie = .completerAbort)) ∧
        (reqFault s c r = none → reqWaits s c r = true → ∃ t, exec .pcieRequest s = .next t ∧ t.mem = s.mem ∧
          (t.mod m).heldPcie = (s.mod m).heldPcie ++ [⟨s.nextId, port, r.pasid.getD 0, 0, r, true⟩]) ∧
        ∀ va n g ga, reqFault s c r = none → reqWaits s c r = false → piecesOf r.va.toNat (reqSize r) = [(va, n)] →
          translate s c (reqNeed r) (va % 2 ^ 56) = .ok g → g.ty ≠ 2 → g.phys = .dram ga → NoPartials s →
          (∀ bs, r.data = some bs → PlainLine s (ga / 128) → ∃ t,
            exec .pcieRequest s = .next t ∧ t.mem = memWriteBytes s.mem ga bs ∧ (t.mod m).pcie = .success []) ∧
          (r.data = none → ∃ t, exec .pcieRequest s = .next t ∧ t.mem = s.mem ∧
            (t.mod m).pcie = .success (leBytes n (s.readGa ga n))))) ∧
    ((s.mod m).heldPcie[port]? = none → exec .completionTimeout s = .next s) ∧
    (∀ h, (s.mod m).heldPcie[port]? = some h → ∃ t, exec .completionTimeout s = .next t ∧ t = { s with modules := t.modules } ∧
      (t.mod m).pcie = .completerAbort ∧ (t.mod m).heldPcie = (s.mod m).heldPcie.filter fun y => decide (y.id ≠ h.id)) ∧
    let spdm (i : Instr) (ok : SpdmReply → Prop) : Prop := ((s.mod m).done = false → exec i s = .next s) ∧
      ((s.mod m).done = true → ∃ t, exec i s = .next t ∧ t = { s with modules := t.modules, freeCount := t.freeCount } ∧
        ok (t.mod m).spdm ∧ { t.mod m with spdm := (s.mod m).spdm } = s.mod m)
    spdm .getVersion (fun r => r = .version) ∧ spdm .getCapabilities (fun r => r = .capabilities) ∧
    spdm .negotiateAlgorithms (fun r => r = .algorithms) ∧ spdm .getDigests (fun r => ∃ d, r = .digests d) ∧
    spdm .getCertificate (fun r => ∃ c, r = .certificate c) ∧ spdm .challenge (fun r => ∃ c, r = .challengeAuth c) ∧
    spdm .getMeasurements (fun r => ∃ v sig, r = .measurements v sig ∧
      (1 ≤ port → port ≤ 6 → v = nth (s.mod m).meas (port - 1) 0)) ∧
    spdm .unsupportedRequest (fun r => r = .unsupported)

/-- R75, R95, R170, R323, R336, R340, R341, R347, R350, R353: Dawn boots a module, all its links up, or stops at the step that fails, the
configuration's where firmware gives a partition a size it may not have, the fabric's where a link is miscabled; what the steps before
did stands. That a link trains at once (log 72), where the node table lies and which partition there is by default (logs 10 and 11),
what a measurement is (log 27), which steps and causes go together (log 109) and that a cluster counts once (log 66) are the model's
choices. The coolant stops issue and lets it
go on; errors are counted and poison what they strike; a retired core or cluster stops and holds nothing; an encoding or a
fetch that names no instruction traps. -/
def Obligations.BootAndErrorEvents : Prop :=
  ∀ s : State,
    let m := s.ev.a
    let x := s.mod m
    (∀ d, s.ev.dawn = some d → x.done = false → x.step = 0 → s.inFabric m = true →
      let P := s.modules.length
      let sizes : Bool := (d.parts.getD []).all fun p => sizesOk p.l1KiB p.rKiB
      let links : Bool := d.miscabled.all fun p => 16 ≤ p || (Port.cabled P m p).st = 0
      let meas := (List.range 6).map fun i => extendMeasurement 0 (nth d.digests i 0)
      let parts := (d.parts.map fun l => l.map Partition.ofInput).getD [Partition.reset]
      let cleared (t : State) : Prop :=
        (∀ a, memRead t.mem a = if a / 2 ^ 40 = m then 0 else memRead s.mem a) ∧
        (∀ k, memRead t.lmem k = if k / 2 ^ 29 = m then 0 else memRead s.lmem k) ∧
        (∀ c, coreMod c = m → t.core c = Core.reset c) ∧ t.groups = s.groups
      (∀ step cause, d.failure = some (step, cause) → failureOk (step, cause) = false → exec .dawn s = .next s) ∧
      (∀ step cause, d.failure = some (step, cause) → failureOk (step, cause) = true → step ≤ 3 →
        ∃ t, exec .dawn s = .next t ∧ t = { s with modules := t.modules } ∧
          t.mod m = { Mod.reset m with
            meas := if step = 1 then (Mod.reset m).meas else meas
            step := BitVec.ofNat 8 step
            cause := BitVec.ofNat 4 cause }) ∧
      (d.failure = none → sizes = false → Memory.wf s.mem = true → Memory.wf s.lmem = true → ∃ t, exec .dawn s = .next t ∧ cleared t ∧
        t.mod m = { Mod.reset m with
          meas := meas
          step := 4
          cause := 3 }) ∧
      (d.failure = none → sizes = true → links = false → Memory.wf s.mem = true → Memory.wf s.lmem = true →
        ∃ t, exec .dawn s = .next t ∧ cleared t ∧
          t.mod m = { Mod.reset m with
            meas := meas
            parts := parts
            nodeBase := d.nodeBase.getD Config.nodeBase
            ports := (List.range 16).map fun p =>
              if p ∈ d.miscabled ∧ (Port.cabled P m p).st = 3 then { Port.cabled P m p with st := 1 } else Port.cabled P m p
            step := 5
            cause := 4 }) ∧
      (d.failure = none → sizes = true → links = true → Memory.wf s.mem = true → Memory.wf s.lmem = true →
        ∃ t, exec .dawn s = .next t ∧ cleared t ∧
          (∀ c, (∃ q ∈ s.windows, q.core = c ∧ q.target = m) → (t.window c m).epo = (s.window c m).epo + 1) ∧
        t.mod m = { Mod.reset m with
          done := true
          ports := (List.range 16).map (Port.cabled P m)
          meas := meas
          parts := parts
          nodeBase := d.nodeBase.getD Config.nodeBase
          cyc0 := s.cyc
          ltick0 := s.ltick })) ∧
    (x.done = true ∨ x.step ≠ 0 → exec .dawn s = .next s) ∧
    (x.done = true →
      (∃ t, exec .coolantBreach s = .next t ∧ t = { s with modules := t.modules } ∧ t.mod m = { x with
        cool := false
        cause := 5
        step := 0 }) ∧
      (x.cool = false → ∃ t, exec .coolantRestored s = .next t ∧ t = { s with modules := t.modules } ∧ t.mod m = { x with
        cool := true
        cause := 0 })) ∧
    (s.inFabric m = true →
      (∃ t, exec .correctedError s = .next t ∧ t = { s with modules := t.modules } ∧ t.mod m = { x with cecc := min (x.cecc + 1) (2 ^ 32 - 1) }) ∧
      (∀ w, s.ev.site = some w → ∃ t, exec .uncorrectableError s = .next t ∧
        (∀ core line, w = .l1Clean core line → (t.mod m).cecc = min (x.cecc + 1) (2 ^ 32 - 1) ∧ (t.mod m).uecc = x.uecc) ∧
        ((∀ core line, w ≠ .l1Clean core line) → (t.mod m).uecc = min (x.uecc + 1) (2 ^ 32 - 1) ∧ (t.mod m).cecc = x.cecc) ∧
        (∀ line, w = .dram line → line ∈ t.poison ∧ (t.mod m).uepa = BitVec.ofNat 64 (2 ^ 63 + linePa m line) ∧ t.mem = s.mem) ∧
        (∀ line, w = .l2 line → ∀ l ∈ sharedLines s line, l ∈ t.poison) ∧
        (∀ core line, w = .l1Dirty core line → line ∈ t.poison) ∧
        (∀ core line, w = .localLine core line → core * 2 ^ 14 + line ∈ t.lpoison) ∧
        (∀ core k g, s.group? core k = some g → (w = .groupArea core k → t.group? core k = some { g with badArea := true }) ∧
          (w = .saveSlot core k → t.group? core k = some { g with badSave := true }) ∧
          ∀ b, w = .regBlock core k b → t.group? core k = some { g with badBlocks := b :: g.badBlocks }) ∧
        (∀ line, w = .directory line → line ∈ t.poison ∧ t.dir? line = none ∧ ∀ c ∈ t.l1, c.line ≠ line) ∧
        ∀ word, w = .syncTag word → word / 16 ∈ t.poison ∧ lookupNat word t.sync = none)) ∧
    (s.inFabric (coreMod m) = true → retiredCore s m = false → inDrain s m = false → ∃ t, exec .coreRetire s = .next t ∧
      (t.mod (coreMod m)).rcores.getLsbD (m % 256) = true ∧ (t.mod (coreMod m)).adv = true ∧ (t.mod (coreMod m)).advKind = 1 ∧
      (t.mod (coreMod m)).nret = min ((s.mod (coreMod m)).nret + 1) 255 ∧ (∀ c ∈ t.l1, c.core ≠ m) ∧
      ∀ k g, s.group? m k = some g → ∃ g', t.group? m k = some g' ∧ g'.faulted = true ∧ g'.preempt = .stopped ∧
        (g.faulted = false → g'.trap.tcause = TrapInfo.cause { kind := .retire, code := 1 } false)) ∧
    (retiredCore s m = true → exec .coreRetire s = .next s) ∧
    (s.inFabric (m / 64) = true → (s.mod (m / 64)).rclu.getLsbD (m % 64) = false → inDrain s (4 * m) = false →
      ∃ t, exec .clusterRetire s = .next t ∧ (t.mod (m / 64)).rclu.getLsbD (m % 64) = true ∧ (t.mod (m / 64)).advKind = 2 ∧
        (t.mod (m / 64)).nret = min ((s.mod (m / 64)).nret + 1) 255 ∧ t.engine m = Engine.reset m ∧
        ∀ g ∈ t.groups, coreCluster g.core = m → g.mentry = none ∧ g.savedRes = none) ∧
    ((s.mod s.ev.b).adv = false → exec .replaceAdvisory s = .next s) ∧
    ((s.mod s.ev.b).adv = true → (m = s.ev.b ∨ noPath s m s.ev.b = false) → s.inFabric m = true → s.ev.b < 16 →
      ∃ t, exec .replaceAdvisory s = .next t ∧ t = { s with modules := t.modules } ∧ (t.mod m).radvf.getLsbD s.ev.b = true ∧
        ∀ k, k ≠ s.ev.b → (t.mod m).radvf.getLsbD k = x.radvf.getLsbD k) ∧
    ∀ y, s.issue? = some y → CanTrap y →
      (∃ t, exec .illegalEncoding s = .next t ∧ TrapEntry s t y { kind := .illins }) ∧
      ∃ t, exec .fetchFault s = .next t ∧ TrapEntry s t y { kind := .fetch, addr := (s.ev.v.setWidth 56).toNat, fetch := true }

/-! ## Encodings, steps and reset -/

/-- R73, R74, R76, R77, R88, R89: the halfwords of the worked example of 04_formats_and_opcode_map.md decode as it says, from
the intended entry and from the wrong ones. -/
def Obligations.DecodeSampleWords : Prop :=
  decode [0xF860] = .ok (.iadd16 ⟨true, 30, 3⟩) ∧
  decode [0x105D, 0x9409] = .ok (.ffma ⟨none, false, 8, 9, 0x94⟩) ∧
  decode [0x64AA] = .ok (.shl16 ⟨false, 25, 5⟩) ∧
  decode [0x2053, 0x8010, 0x3FFD, 0x000E] = .ok (.fadd ⟨some 0x000E3FFD, false, 16, 16, 0x80⟩) ∧
  decode [0x04E1, 0xFFC1] = .ok (.brc ⟨none, 4, 1, 0x1FF8⟩) ∧
  decode [0x3FFD, 0x000E] = .error (.illegalEncoding 0x000E3FFD) ∧
  decode [0x9409, 0x64AA] = .ok (.imul ⟨none, false, 74, 0xAA, 0x64⟩) ∧
  decode [0x000E] = .ok (.shra16 ⟨false, 0, 0⟩) ∧
  decode [0x0000] = .error .zeroHalfword ∧
  decode [0x0001, 0x0000] = .ok (.iadd ⟨none, false, 0, 0, 0⟩)

/-- R73, R77, R95: the decoder reads an instruction from a stream of halfwords exactly when the stream begins with the
encoding of that instruction, its mask word included, and the instruction is well formed: no bit of an encoding is dropped,
and no stream has two readings. -/
def Obligations.DecodeEncode : Prop :=
  ∀ (hs : List (BitVec 16)) (i : Instr),
    decode hs = .ok i ↔ i.wf = true ∧ i.hasEncoding = true ∧ ∃ rest, hs = encodeHalves i ++ rest

/-- R73, R94: a step that issues a split, which nothing bars, fetches the halfwords at its program counter, each from where its address translates
to, and is the meaning of the instruction they decode to, the instruction's length added to the program counter for the
address after it; where they decode to none it is the event that raises ILLINS; an event is its own meaning, and a turn of a bank row is
the group's next step in local store. -/
def Obligations.StepRunsDecoded : Prop :=
  (∀ (s : State) (core slot split : Nat) (rest : List Turn) (g : Group) (tm : Team) (sp : Split) (hs : List (BitVec 16)),
    s.agenda = .issue core slot split :: rest → s.group? core slot = some g → s.team? g.team = some tm →
    g.arch.splits.find? (fun p => p.slot == split) = some sp → g.faulted = false → g.mayIssue = true →
    (s.mod (coreMod core)).done = true → (s.mod (coreMod core)).cool = true → g.savedRes = none → splitBarred g sp = false →
    fetchHalves s g tm sp.pc = (hs, none) →
    let c : Cur := ⟨core, slot, split, sp.pc, sp.pc + BitVec.ofNat 56 (2 * hs.length), fetchedWord s.freeCount hs⟩
    (∀ i, decode hs = .ok i → step s = exec i { s with
      agenda := rest
      cur := some c }) ∧
    (∀ e, decode hs = .error e → step s = exec .illegalEncoding { s with
      agenda := rest
      cur := some c
      ev := { v := c.word.setWidth 64 } })) ∧
  (∀ (s : State) (g : Group) (tm : Team) (va : VAddr) (p : Page) (ga : Nat), fetchFailed g va = false →
    translate s tm.tctx .exec va.toNat = .ok p →
    p.phys = .dram ga → ga / 128 ∉ s.poison → cutOff s (coreMod g.core) (lineMod (ga / 128)) = false →
    fetchHalf s g tm va = .ok (s.byteAt (ga + 1) ++ s.byteAt ga)) ∧
  (∀ (s : State) (i : Instr) (x : EvArgs) (rest : List Turn), s.agenda = .event i x :: rest → step s = exec i { s with
    agenda := rest
    ev := x }) ∧
  ∀ (s : State) (core slot : Nat) (rest : List Turn), s.agenda = .bankRow core slot :: rest →
    step s = .next (takeRow { s with agenda := rest } core slot)

/-- The model's own invariant (log 1): global memory and local stores stay in canonical form, addresses rising and no byte
listed that equals what an unlisted address reads as, over every step from every state. -/
def Obligations.MemoryKept : Prop :=
  ∀ s t : State, s.memWf = true → step s = .next t → t.memWf = true

/-- R122, R235, R265, R303, R321, R322, R347, R349, R353: what the machine holds right after reset: no team, no request and no
copy; both memories in canonical form, every byte 0 (log 1); the registers of each virtual function, core and module at the
values the manual gives; Dawn still to run (log 13). -/
def Obligations.ResetState : Prop :=
  let s := State.reset
  s.memWf = true ∧ (∀ a, memRead s.mem a = 0 ∧ memRead s.lmem a = 0) ∧
  s.groups = [] ∧ s.teams = [] ∧ s.acts = [] ∧ s.l1 = [] ∧ s.reqs = [] ∧ s.msgs = [] ∧ s.log = [] ∧ s.streams = [] ∧ s.sync = [] ∧
  (∀ l, (s.dirOf l).st = 0 ∧ (s.dirOf l).ver = 0 ∧ (s.dirOf l).epo = 0) ∧ (∀ k, s.lineState k = none) ∧
  (∀ m v, (s.vf m v).leases = [0, 4, 16, 64, 256, 1024, 4096, 16384] ∧ (s.vf m v).lmode = 1 ∧ (s.vf m v).twmask = 0xFFFFFF ∧
    (s.vf m v).dwmask = 0xFFFF ∧ (s.vf m v).cap = 5 ∧ (s.vf m v).en = false ∧ (s.vf m v).scap = false) ∧
  (∀ c, (s.core c).gen = 0 ∧ (s.core c).lamport = 0 ∧ (s.core c).gendrop = 0) ∧
  (∀ m n, (s.queue m n).en = false ∧ (s.queue m n).wdt = 0 ∧ (s.queue m n).sup = 0x3FF ∧ (s.queue m n).wcnt = 0) ∧
  (∀ m, (s.mod m).dstat = 0 ∧ (s.mod m).pwrcap = 1600 ∧ (s.mod m).nret = 0 ∧ (s.mod m).preReq = 0 ∧
    (s.mod m).slots = List.replicate 64 0 ∧ (s.mod m).done = false) ∧
  s.cyc = 0 ∧ s.ltick = 0 ∧ s.hostReply = 0 ∧ s.hostFault = false
end

