-- ==== Sys2Proof/Laws/Encoding.lean ====
section
/-!
SUPPORT. Fields of an encoded instruction word: what the decoder reads back of each form the encoder writes
(04_formats_and_opcode_map.md R73 to R88).
-/
namespace Sys2Proof.Laws

set_option Elab.async false
set_option linter.unusedSimpArgs false

/-! ## Parts of a concatenation -/

theorem bits_high {n m : Nat} (x : BitVec n) (y : BitVec m) (k w : Nat) (h : m ≤ k) :
    (x ++ y).extractLsb' k w = x.extractLsb' (k - m) w := by
  apply BitVec.eq_of_getLsbD_eq
  intro i hi
  simp only [BitVec.getLsbD_extractLsb', BitVec.getLsbD_append, hi, decide_true, Bool.true_and]
  rw [if_neg (by omega), show k + i - m = k - m + i by omega]

theorem bits_low {n m : Nat} (x : BitVec n) (y : BitVec m) (k w : Nat) (h : k + w ≤ m) :
    (x ++ y).extractLsb' k w = y.extractLsb' k w := by
  apply BitVec.eq_of_getLsbD_eq
  intro i hi
  simp only [BitVec.getLsbD_extractLsb', BitVec.getLsbD_append, hi, decide_true, Bool.true_and]
  rw [if_pos (by omega)]

theorem bits_all {n : Nat} (x : BitVec n) : x.extractLsb' 0 n = x := by
  apply BitVec.eq_of_getLsbD_eq
  intro i hi
  simp [hi]

theorem bits_two {n m l : Nat} (x : BitVec n) (y : BitVec m) (z : BitVec l) :
    (x ++ y ++ z).extractLsb' 0 (m + l) = y ++ z := by
  apply BitVec.eq_of_getLsbD_eq
  intro i hi
  simp only [BitVec.getLsbD_extractLsb', BitVec.getLsbD_append, hi, decide_true, Bool.true_and, Nat.zero_add]
  split
  · rfl
  · rw [if_pos (by omega)]

theorem bit_high {n m : Nat} (x : BitVec n) (y : BitVec m) (k : Nat) (h : m ≤ k) :
    (x ++ y).getLsbD k = x.getLsbD (k - m) := by
  rw [BitVec.getLsbD_append, if_neg (by omega)]

theorem bit_low {n m : Nat} (x : BitVec n) (y : BitVec m) (k : Nat) (h : k < m) :
    (x ++ y).getLsbD k = y.getLsbD k := by
  rw [BitVec.getLsbD_append, if_pos h]

theorem bit_ofBool (b : Bool) : (BitVec.ofBool b).getLsbD 0 = b := by cases b <;> rfl

theorem and_parts {n m : Nat} (a c : BitVec n) (b d : BitVec m) : (a ++ b) &&& (c ++ d) = (a &&& c) ++ (b &&& d) := by
  apply BitVec.eq_of_getLsbD_eq
  intro i _
  simp only [BitVec.getLsbD_and, BitVec.getLsbD_append]
  split <;> rfl

/-! ## Fields of each form -/

theorem v_fields (maj : BitVec 6) (f : VForm) : VForm.ofWord f.sp (f.word maj) = f := by
  simp (disch := decide) only [VForm.ofWord, VForm.word, bits_high, bits_low, bit_high, bit_low, bits_all, bit_ofBool, spBit, Nat.reduceSub]

theorem v_major (maj : BitVec 6) (f : VForm) : (f.word maj).extractLsb' 2 6 = maj := by
  simp (disch := decide) only [VForm.word, bits_high, bits_low, bit_high, bit_low, bits_all, bit_ofBool, spBit, Nat.reduceSub]

theorem v_length (maj : BitVec 6) (f : VForm) : (f.word maj).getLsbD 0 = true ∧ (f.word maj).getLsbD 1 = f.sp.isSome := by
  constructor <;> simp (disch := decide) only [VForm.word, bits_high, bits_low, bit_high, bit_low, bits_all, bit_ofBool, spBit, Nat.reduceSub] <;> rfl

theorem x_fields (maj : BitVec 6) (fn : BitVec 4) (f : XForm) : XForm.ofWord f.sp (f.word maj fn) = f := by
  simp (disch := decide) only [XForm.ofWord, XForm.word, bits_high, bits_low, bit_high, bit_low, bits_all, bit_ofBool, spBit, Nat.reduceSub]

theorem x_major (maj : BitVec 6) (fn : BitVec 4) (f : XForm) : (f.word maj fn).extractLsb' 2 6 = maj := by
  simp (disch := decide) only [XForm.word, bits_high, bits_low, bit_high, bit_low, bits_all, bit_ofBool, spBit, Nat.reduceSub]

theorem x_fn (maj : BitVec 6) (fn : BitVec 4) (f : XForm) : (f.word maj fn).extractLsb' 24 4 = fn := by
  simp (disch := decide) only [XForm.word, bits_high, bits_low, bit_high, bit_low, bits_all, bit_ofBool, spBit, Nat.reduceSub]

theorem x_length (maj : BitVec 6) (fn : BitVec 4) (f : XForm) : (f.word maj fn).getLsbD 0 = true ∧ (f.word maj fn).getLsbD 1 = f.sp.isSome := by
  constructor <;> simp (disch := decide) only [XForm.word, bits_high, bits_low, bit_high, bit_low, bits_all, bit_ofBool, spBit, Nat.reduceSub] <;> rfl

theorem xm_fields (maj : BitVec 6) (fn : BitVec 4) (f : XmForm) : XmForm.ofWord f.sp (f.word maj fn) = f := by
  simp (disch := decide) only [XmForm.ofWord, XmForm.word, bits_high, bits_low, bit_high, bit_low, bits_all, bit_ofBool, spBit, Nat.reduceSub]

theorem xm_major (maj : BitVec 6) (fn : BitVec 4) (f : XmForm) : (f.word maj fn).extractLsb' 2 6 = maj := by
  simp (disch := decide) only [XmForm.word, bits_high, bits_low, bit_high, bit_low, bits_all, bit_ofBool, spBit, Nat.reduceSub]

theorem xm_fn (maj : BitVec 6) (fn : BitVec 4) (f : XmForm) : (f.word maj fn).extractLsb' 24 4 = fn := by
  simp (disch := decide) only [XmForm.word, bits_high, bits_low, bit_high, bit_low, bits_all, bit_ofBool, spBit, Nat.reduceSub]

theorem xm_length (maj : BitVec 6) (fn : BitVec 4) (f : XmForm) : (f.word maj fn).getLsbD 0 = true ∧ (f.word maj fn).getLsbD 1 = f.sp.isSome := by
  constructor <;> simp (disch := decide) only [XmForm.word, bits_high, bits_low, bit_high, bit_low, bits_all, bit_ofBool, spBit, Nat.reduceSub] <;> rfl

theorem cvt_fields (maj : BitVec 6) (f : CvtForm) : CvtForm.ofWord f.sp (f.word maj) = f := by
  simp (disch := decide) only [CvtForm.ofWord, CvtForm.word, bits_high, bits_low, bit_high, bit_low, bits_all, bit_ofBool, spBit, Nat.reduceSub]

theorem cvt_major (maj : BitVec 6) (f : CvtForm) : (f.word maj).extractLsb' 2 6 = maj := by
  simp (disch := decide) only [CvtForm.word, bits_high, bits_low, bit_high, bit_low, bits_all, bit_ofBool, spBit, Nat.reduceSub]

theorem cvt_length (maj : BitVec 6) (f : CvtForm) : (f.word maj).getLsbD 0 = true ∧ (f.word maj).getLsbD 1 = f.sp.isSome := by
  constructor <;> simp (disch := decide) only [CvtForm.word, bits_high, bits_low, bit_high, bit_low, bits_all, bit_ofBool, spBit, Nat.reduceSub] <;> rfl

theorem m_fields (maj : BitVec 6) (f : MForm) : MForm.ofWord f.sp (f.word maj) = f := by
  simp (disch := decide) only [MForm.ofWord, MForm.word, bits_high, bits_low, bit_high, bit_low, bits_all, bit_ofBool, spBit, Nat.reduceSub]

theorem m_major (maj : BitVec 6) (f : MForm) : (f.word maj).extractLsb' 2 6 = maj := by
  simp (disch := decide) only [MForm.word, bits_high, bits_low, bit_high, bit_low, bits_all, bit_ofBool, spBit, Nat.reduceSub]

theorem m_length (maj : BitVec 6) (f : MForm) : (f.word maj).getLsbD 0 = true ∧ (f.word maj).getLsbD 1 = f.sp.isSome := by
  constructor <;> simp (disch := decide) only [MForm.word, bits_high, bits_low, bit_high, bit_low, bits_all, bit_ofBool, spBit, Nat.reduceSub] <;> rfl

theorem atom_fields (fn : BitVec 4) (f : AtomForm) : AtomForm.ofWord f.sp (f.word fn) = f := by
  simp (disch := decide) only [AtomForm.ofWord, AtomForm.word, bits_high, bits_low, bit_high, bit_low, bits_all, bit_ofBool, spBit, Nat.reduceSub]

theorem atom_major (fn : BitVec 4) (f : AtomForm) : (f.word fn).extractLsb' 2 6 = 0xD#4 ++ f.ord := by
  simp (disch := decide) only [AtomForm.word, bits_high, Nat.reduceSub]
  exact bits_two _ _ _

theorem atom_fn (fn : BitVec 4) (f : AtomForm) : (f.word fn).extractLsb' 27 4 = fn := by
  simp (disch := decide) only [AtomForm.word, bits_high, bits_low, bit_high, bit_low, bits_all, bit_ofBool, spBit, Nat.reduceSub]

theorem atom_length (fn : BitVec 4) (f : AtomForm) : (f.word fn).getLsbD 0 = true ∧ (f.word fn).getLsbD 1 = f.sp.isSome := by
  constructor <;> simp (disch := decide) only [AtomForm.word, bits_high, bits_low, bit_high, bit_low, bits_all, bit_ofBool, spBit, Nat.reduceSub] <;> rfl

theorem sk_fields (fn : BitVec 5) (f : SkForm) : SkForm.ofWord f.sp (f.word fn) = f := by
  simp (disch := decide) only [SkForm.ofWord, SkForm.word, bits_high, bits_low, bit_high, bit_low, bits_all, bit_ofBool, spBit, Nat.reduceSub]

theorem sk_major (fn : BitVec 5) (f : SkForm) : (f.word fn).extractLsb' 2 6 = 0x37#6 := by
  simp (disch := decide) only [SkForm.word, bits_high, bits_low, bit_high, bit_low, bits_all, bit_ofBool, spBit, Nat.reduceSub]

theorem sk_fn (fn : BitVec 5) (f : SkForm) : (f.word fn).extractLsb' 27 5 = fn := by
  simp (disch := decide) only [SkForm.word, bits_high, bits_low, bit_high, bit_low, bits_all, bit_ofBool, spBit, Nat.reduceSub]

theorem sk_length (fn : BitVec 5) (f : SkForm) : (f.word fn).getLsbD 0 = true ∧ (f.word fn).getLsbD 1 = f.sp.isSome := by
  constructor <;> simp (disch := decide) only [SkForm.word, bits_high, bits_low, bit_high, bit_low, bits_all, bit_ofBool, spBit, Nat.reduceSub] <;> rfl

theorem br_fields (f : BrForm) : BrForm.ofWord f.sp (f.word) = f := by
  simp (disch := decide) only [BrForm.ofWord, BrForm.word, bits_high, bits_low, bit_high, bit_low, bits_all, bit_ofBool, spBit, Nat.reduceSub]

theorem br_major (f : BrForm) : (f.word).extractLsb' 2 6 = 0x38#6 := by
  simp (disch := decide) only [BrForm.word, bits_high, bits_low, bit_high, bit_low, bits_all, bit_ofBool, spBit, Nat.reduceSub]

theorem br_length (f : BrForm) : (f.word).getLsbD 0 = true ∧ (f.word).getLsbD 1 = f.sp.isSome := by
  constructor <;> simp (disch := decide) only [BrForm.word, bits_high, bits_low, bit_high, bit_low, bits_all, bit_ofBool, spBit, Nat.reduceSub] <;> rfl

theorem j_fields (l : BitVec 1) (f : JForm) : JForm.ofWord f.sp (f.word l) = f := by
  simp (disch := decide) only [JForm.ofWord, JForm.word, bits_high, bits_low, bit_high, bit_low, bits_all, bit_ofBool, spBit, Nat.reduceSub]

theorem j_major (l : BitVec 1) (f : JForm) : (f.word l).extractLsb' 2 6 = 0x39#6 := by
  simp (disch := decide) only [JForm.word, bits_high, bits_low, bit_high, bit_low, bits_all, bit_ofBool, spBit, Nat.reduceSub]

theorem j_length (l : BitVec 1) (f : JForm) : (f.word l).getLsbD 0 = true ∧ (f.word l).getLsbD 1 = f.sp.isSome := by
  constructor <;> simp (disch := decide) only [JForm.word, bits_high, bits_low, bit_high, bit_low, bits_all, bit_ofBool, spBit, Nat.reduceSub] <;> rfl

theorem sr_fields (fn : BitVec 6) (f : SrForm) : SrForm.ofWord f.sp (f.word fn) = f := by
  simp (disch := decide) only [SrForm.ofWord, SrForm.word, bits_high, bits_low, bit_high, bit_low, bits_all, bit_ofBool, spBit, Nat.reduceSub]

theorem sr_major (fn : BitVec 6) (f : SrForm) : (f.word fn).extractLsb' 2 6 = 0x3A#6 := by
  simp (disch := decide) only [SrForm.word, bits_high, bits_low, bit_high, bit_low, bits_all, bit_ofBool, spBit, Nat.reduceSub]

theorem sr_fn (fn : BitVec 6) (f : SrForm) : (f.word fn).extractLsb' 26 6 = fn := by
  simp (disch := decide) only [SrForm.word, bits_high, bits_low, bit_high, bit_low, bits_all, bit_ofBool, spBit, Nat.reduceSub]

theorem sr_length (fn : BitVec 6) (f : SrForm) : (f.word fn).getLsbD 0 = true ∧ (f.word fn).getLsbD 1 = f.sp.isSome := by
  constructor <;> simp (disch := decide) only [SrForm.word, bits_high, bits_low, bit_high, bit_low, bits_all, bit_ofBool, spBit, Nat.reduceSub] <;> rfl

theorem smov_fields (fn : BitVec 6) (f : SmovForm) : SmovForm.ofWord f.sp (f.word fn) = f := by
  simp (disch := decide) only [SmovForm.ofWord, SmovForm.word, bits_high, bits_low, bit_high, bit_low, bits_all, bit_ofBool, spBit, Nat.reduceSub]

theorem smov_major (fn : BitVec 6) (f : SmovForm) : (f.word fn).extractLsb' 2 6 = 0x3A#6 := by
  simp (disch := decide) only [SmovForm.word, bits_high, bits_low, bit_high, bit_low, bits_all, bit_ofBool, spBit, Nat.reduceSub]

theorem smov_fn (fn : BitVec 6) (f : SmovForm) : (f.word fn).extractLsb' 26 6 = fn := by
  simp (disch := decide) only [SmovForm.word, bits_high, bits_low, bit_high, bit_low, bits_all, bit_ofBool, spBit, Nat.reduceSub]

theorem smov_length (fn : BitVec 6) (f : SmovForm) : (f.word fn).getLsbD 0 = true ∧ (f.word fn).getLsbD 1 = f.sp.isSome := by
  constructor <;> simp (disch := decide) only [SmovForm.word, bits_high, bits_low, bit_high, bit_low, bits_all, bit_ofBool, spBit, Nat.reduceSub] <;> rfl

theorem smem_fields (fn : BitVec 6) (f : SmemForm) : SmemForm.ofWord f.sp (f.word fn) = f := by
  simp (disch := decide) only [SmemForm.ofWord, SmemForm.word, bits_high, bits_low, bit_high, bit_low, bits_all, bit_ofBool, spBit, Nat.reduceSub]

theorem smem_major (fn : BitVec 6) (f : SmemForm) : (f.word fn).extractLsb' 2 6 = 0x3A#6 := by
  simp (disch := decide) only [SmemForm.word, bits_high, bits_low, bit_high, bit_low, bits_all, bit_ofBool, spBit, Nat.reduceSub]

theorem smem_fn (fn : BitVec 6) (f : SmemForm) : (f.word fn).extractLsb' 26 6 = fn := by
  simp (disch := decide) only [SmemForm.word, bits_high, bits_low, bit_high, bit_low, bits_all, bit_ofBool, spBit, Nat.reduceSub]

theorem smem_length (fn : BitVec 6) (f : SmemForm) : (f.word fn).getLsbD 0 = true ∧ (f.word fn).getLsbD 1 = f.sp.isSome := by
  constructor <;> simp (disch := decide) only [SmemForm.word, bits_high, bits_low, bit_high, bit_low, bits_all, bit_ofBool, spBit, Nat.reduceSub] <;> rfl

theorem si_fields (f : SiForm) : SiForm.ofWord f.sp (f.word) = f := by
  simp (disch := decide) only [SiForm.ofWord, SiForm.word, bits_high, bits_low, bit_high, bit_low, bits_all, bit_ofBool, spBit, Nat.reduceSub]

theorem si_major (f : SiForm) : (f.word).extractLsb' 2 6 = 0x3B#6 := by
  simp (disch := decide) only [SiForm.word, bits_high, bits_low, bit_high, bit_low, bits_all, bit_ofBool, spBit, Nat.reduceSub]

theorem si_length (f : SiForm) : (f.word).getLsbD 0 = true ∧ (f.word).getLsbD 1 = f.sp.isSome := by
  constructor <;> simp (disch := decide) only [SiForm.word, bits_high, bits_low, bit_high, bit_low, bits_all, bit_ofBool, spBit, Nat.reduceSub] <;> rfl

theorem rm_fields (fn : BitVec 6) (f : RmForm) : RmForm.ofWord f.sp (f.word fn) = f := by
  simp (disch := decide) only [RmForm.ofWord, RmForm.word, bits_high, bits_low, bit_high, bit_low, bits_all, bit_ofBool, spBit, Nat.reduceSub]

theorem rm_major (fn : BitVec 6) (f : RmForm) : (f.word fn).extractLsb' 2 6 = 0x3C#6 := by
  simp (disch := decide) only [RmForm.word, bits_high, bits_low, bit_high, bit_low, bits_all, bit_ofBool, spBit, Nat.reduceSub]

theorem rm_fn (fn : BitVec 6) (f : RmForm) : (f.word fn).extractLsb' 26 6 = fn := by
  simp (disch := decide) only [RmForm.word, bits_high, bits_low, bit_high, bit_low, bits_all, bit_ofBool, spBit, Nat.reduceSub]

theorem rm_length (fn : BitVec 6) (f : RmForm) : (f.word fn).getLsbD 0 = true ∧ (f.word fn).getLsbD 1 = f.sp.isSome := by
  constructor <;> simp (disch := decide) only [RmForm.word, bits_high, bits_low, bit_high, bit_low, bits_all, bit_ofBool, spBit, Nat.reduceSub] <;> rfl

theorem j_link (l : BitVec 1) (f : JForm) : (f.word l).getLsbD 8 = l.getLsbD 0 := by
  simp (disch := decide) only [JForm.word, bits_high, bits_low, bit_high, bit_low, bits_all, Nat.reduceSub]

theorem x_unused (maj : BitVec 6) (fn : BitVec 4) (f : XForm) : f.word maj fn &&& 0xF0000000#32 = 0#32 := by
  refine (and_parts (n := 31) _ (0xF#4 ++ 0#4 ++ 0#8 ++ 0#7 ++ 0#1 ++ 0#6 ++ 0#1) _ 0#1).trans ?_
  rw [and_parts (n := 30), and_parts (n := 24), and_parts (n := 23), and_parts (n := 16), and_parts (n := 8), and_parts (n := 4)]
  simp only [BitVec.and_zero]
  rfl

theorem smov_unused (fn : BitVec 6) (f : SmovForm) : f.word fn &&& 0x03F00000#32 = 0#32 := by
  refine (and_parts (n := 31) _ (0#6 ++ 0x3F#6 ++ 0#6 ++ 0#6 ++ 0#6 ++ 0#1) _ 0#1).trans ?_
  rw [and_parts (n := 30), and_parts (n := 24), and_parts (n := 18), and_parts (n := 12), and_parts (n := 6)]
  simp only [BitVec.and_zero]
  rfl

theorem smem_unused (fn : BitVec 6) (f : SmemForm) : f.word fn &&& 0x000C0000#32 = 0#32 := by
  refine (and_parts (n := 31) _ (0#6 ++ 0#6 ++ 0x3#2 ++ 0#4 ++ 0#6 ++ 0#6 ++ 0#1) _ 0#1).trans ?_
  rw [and_parts (n := 30), and_parts (n := 24), and_parts (n := 18), and_parts (n := 14), and_parts (n := 12), and_parts (n := 6)]
  simp only [BitVec.and_zero]
  rfl

/-! ## Format E -/

theorem e_major (maj : BitVec 6) (cls : BitVec 5) (k : BitVec 7) (q p : BitVec 6) (sp : Sp) : (eWord maj cls k q p sp).extractLsb' 2 6 = maj := by
  simp (disch := decide) only [eWord, bits_high, bits_low, bit_high, bit_low, bits_all, bit_ofBool, spBit, Nat.reduceSub]

theorem e_class (maj : BitVec 6) (cls : BitVec 5) (k : BitVec 7) (q p : BitVec 6) (sp : Sp) : (eWord maj cls k q p sp).extractLsb' 8 5 = cls := by
  simp (disch := decide) only [eWord, bits_high, bits_low, bit_high, bit_low, bits_all, bit_ofBool, spBit, Nat.reduceSub]

theorem e_length (maj : BitVec 6) (cls : BitVec 5) (k : BitVec 7) (q p : BitVec 6) (sp : Sp) : (eWord maj cls k q p sp).getLsbD 0 = true ∧ (eWord maj cls k q p sp).getLsbD 1 = sp.isSome := by
  constructor <;> simp (disch := decide) only [eWord, bits_high, bits_low, bit_high, bit_low, bits_all, bit_ofBool, spBit, Nat.reduceSub] <;> rfl

theorem es_fields (maj : BitVec 6) (cls : BitVec 5) (k : BitVec 7) (q p : BitVec 6) (sp : Sp) :
    EsForm.ofWord sp (eWord maj cls k q p sp) = ⟨sp⟩ := by
  rfl

theorem ep_fields (maj : BitVec 6) (cls : BitVec 5) (k : BitVec 7) (q p : BitVec 6) (sp : Sp) :
    EpForm.ofWord sp (eWord maj cls k q p sp) = ⟨sp, p⟩ := by
  simp (disch := decide) only [EpForm.ofWord, eWord, bits_high, bits_low, bit_high, bit_low, bits_all, bit_ofBool, spBit, Nat.reduceSub]

theorem eq_fields (maj : BitVec 6) (cls : BitVec 5) (k : BitVec 7) (q p : BitVec 6) (sp : Sp) :
    EqForm.ofWord sp (eWord maj cls k q p sp) = ⟨sp, q⟩ := by
  simp (disch := decide) only [EqForm.ofWord, eWord, bits_high, bits_low, bit_high, bit_low, bits_all, bit_ofBool, spBit, Nat.reduceSub]

theorem ek_fields (maj : BitVec 6) (cls : BitVec 5) (k : BitVec 7) (q p : BitVec 6) (sp : Sp) :
    EkForm.ofWord sp (eWord maj cls k q p sp) = ⟨sp, k⟩ := by
  simp (disch := decide) only [EkForm.ofWord, eWord, bits_high, bits_low, bit_high, bit_low, bits_all, bit_ofBool, spBit, Nat.reduceSub]

theorem epq_fields (maj : BitVec 6) (cls : BitVec 5) (k : BitVec 7) (q p : BitVec 6) (sp : Sp) :
    EpqForm.ofWord sp (eWord maj cls k q p sp) = ⟨sp, p, q⟩ := by
  simp (disch := decide) only [EpqForm.ofWord, eWord, bits_high, bits_low, bit_high, bit_low, bits_all, bit_ofBool, spBit, Nat.reduceSub]

theorem epqk_fields (maj : BitVec 6) (cls : BitVec 5) (k : BitVec 7) (q p : BitVec 6) (sp : Sp) :
    EpqkForm.ofWord sp (eWord maj cls k q p sp) = ⟨sp, p, q, k⟩ := by
  simp (disch := decide) only [EpqkForm.ofWord, eWord, bits_high, bits_low, bit_high, bit_low, bits_all, bit_ofBool, spBit, Nat.reduceSub]

theorem emit_fields (maj : BitVec 6) (cls : BitVec 5) (c : BitVec 1) (k q p : BitVec 6) (sp : Sp) :
    EmitForm.ofWord sp (eWord maj cls (c ++ k) q p sp) = ⟨sp, p, q, k⟩ := by
  simp (disch := decide) only [EmitForm.ofWord, eWord, bits_high, bits_low, bit_high, bit_low, bits_all, bit_ofBool, spBit, Nat.reduceSub]

theorem sync_fields (maj : BitVec 6) (cls : BitVec 5) (c : BitVec 1) (r p : BitVec 6) (ar : BitVec 4) (sp : Sp) :
    SyncForm.ofWord sp (eWord maj cls (c ++ r) (0#2 ++ ar) p sp) = ⟨sp, p, ar, r⟩ := by
  simp (disch := decide) only [SyncForm.ofWord, eWord, bits_high, bits_low, bit_high, bit_low, bits_all, bit_ofBool, spBit, Nat.reduceSub]
  simp only [Nat.reduceAdd, Nat.reduceSub, bits_all]

theorem fence_fields (maj : BitVec 6) (cls : BitVec 5) (k : BitVec 7) (q : BitVec 6) (kind : BitVec 2) (sp : Sp) :
    FenceForm.ofWord sp (eWord maj cls k q (0#4 ++ kind) sp) = ⟨sp, kind, q⟩ := by
  simp (disch := decide) only [FenceForm.ofWord, eWord, bits_high, bits_low, bit_high, bit_low, bits_all, bit_ofBool, spBit, Nat.reduceSub]
  simp only [Nat.reduceAdd, Nat.reduceSub, bits_all]

theorem ctx_fields (maj : BitVec 6) (cls : BitVec 5) (k : BitVec 7) (p ar : BitVec 4) (sp : Sp) :
    CtxForm.ofWord sp (eWord maj cls k (0#2 ++ ar) (0#2 ++ p) sp) = ⟨sp, p, ar⟩ := by
  simp (disch := decide) only [CtxForm.ofWord, eWord, bits_high, bits_low, bit_high, bit_low, bits_all, bit_ofBool, spBit, Nat.reduceSub]
  simp only [Nat.reduceAdd, Nat.reduceSub, bits_all]

theorem dusk_fields (maj : BitVec 6) (cls : BitVec 5) (b : Bool) (q p : BitVec 6) (sp : Sp) :
    DuskForm.ofWord sp (eWord maj cls (0#6 ++ BitVec.ofBool b) q p sp) = ⟨sp, p, q, b⟩ := by
  simp (disch := decide) only [DuskForm.ofWord, eWord, bits_high, bits_low, bit_high, bit_low, bits_all, bit_ofBool, spBit, Nat.reduceSub]

theorem aadd_fields (maj : BitVec 6) (cls : BitVec 5) (k : BitVec 7) (p : BitVec 6) (ar : BitVec 4) (sp : Sp) :
    AaddForm.ofWord sp (eWord maj cls k (0#2 ++ ar) p sp) = ⟨sp, p, ar, k⟩ := by
  simp (disch := decide) only [AaddForm.ofWord, eWord, bits_high, bits_low, bit_high, bit_low, bits_all, bit_ofBool, spBit, Nat.reduceSub]
  simp only [Nat.reduceAdd, Nat.reduceSub, bits_all]

theorem aset_fields (maj : BitVec 6) (cls : BitVec 5) (k : BitVec 5) (p : BitVec 6) (ar : BitVec 4) (sp : Sp) :
    AsetForm.ofWord sp (eWord maj cls (0#2 ++ k) (0#2 ++ ar) p sp) = ⟨sp, p, ar, k⟩ := by
  simp (disch := decide) only [AsetForm.ofWord, eWord, bits_high, bits_low, bit_high, bit_low, bits_all, bit_ofBool, spBit, Nat.reduceSub]
  simp only [Nat.reduceAdd, Nat.reduceSub, bits_all]

theorem aget_fields (maj : BitVec 6) (cls : BitVec 5) (k : BitVec 2) (p : BitVec 6) (ar : BitVec 4) (sp : Sp) :
    AgetForm.ofWord sp (eWord maj cls (0#5 ++ k) (0#2 ++ ar) p sp) = ⟨sp, p, ar, k⟩ := by
  simp (disch := decide) only [AgetForm.ofWord, eWord, bits_high, bits_low, bit_high, bit_low, bits_all, bit_ofBool, spBit, Nat.reduceSub]
  simp only [Nat.reduceAdd, Nat.reduceSub, bits_all]

theorem e_and (maj : BitVec 6) (cls : BitVec 5) (k c : BitVec 7) (q d p e : BitVec 6) (sp : Sp) :
    eWord maj cls k q p sp &&& (c ++ d ++ e ++ 0#5 ++ 0#6 ++ 0#1 ++ 0#1) =
      (k &&& c) ++ (q &&& d) ++ (p &&& e) ++ 0#5 ++ 0#6 ++ 0#1 ++ 0#1 := by
  refine (and_parts (n := 31) _ _ _ _).trans ?_
  rw [and_parts (n := 30), and_parts (n := 24), and_parts (n := 19), and_parts (n := 13), and_parts (n := 7)]
  simp only [BitVec.and_zero]

theorem and_seven : ∀ k : BitVec 7, k &&& 0x7F#7 = k := by decide
theorem and_six : ∀ k : BitVec 6, k &&& 0x3F#6 = k := by decide
theorem and_flag : ∀ (c : BitVec 1) (r : BitVec 6), (c ++ r) &&& 0x40#7 = c ++ 0#6 := by decide
theorem and_reg : ∀ a : BitVec 4, (0#2 ++ a) &&& 0x30#6 = 0#6 := by decide
theorem and_kind : ∀ a : BitVec 2, (0#4 ++ a) &&& 0x3C#6 = 0#6 := by decide
theorem and_keep : ∀ b : Bool, (0#6 ++ BitVec.ofBool b) &&& 0x7E#7 = 0#7 := by decide
theorem and_perm : ∀ a : BitVec 5, (0#2 ++ a) &&& 0x60#7 = 0#7 := by decide
theorem and_part : ∀ a : BitVec 2, (0#5 ++ a) &&& 0x7C#7 = 0#7 := by decide

theorem e_free_p (maj : BitVec 6) (cls : BitVec 5) (k : BitVec 7) (q p : BitVec 6) (sp : Sp) :
    eWord maj cls k q p sp &&& 0xFFF80000#32 = k ++ q ++ 0#6 ++ 0#5 ++ 0#6 ++ 0#1 ++ 0#1 := by
  refine (e_and maj cls _ 0x7F#7 _ 0x3F#6 _ 0#6 sp).trans ?_
  rw [and_seven, and_six, BitVec.and_zero]

theorem e_free_pq (maj : BitVec 6) (cls : BitVec 5) (k : BitVec 7) (q p : BitVec 6) (sp : Sp) :
    eWord maj cls k q p sp &&& 0xFE000000#32 = k ++ 0#6 ++ 0#6 ++ 0#5 ++ 0#6 ++ 0#1 ++ 0#1 := by
  refine (e_and maj cls _ 0x7F#7 _ 0#6 _ 0#6 sp).trans ?_
  rw [and_seven, BitVec.and_zero, BitVec.and_zero]

theorem e_free_none (maj : BitVec 6) (cls : BitVec 5) (k : BitVec 7) (q p : BitVec 6) (sp : Sp) :
    eWord maj cls k q p sp &&& 0xFFFFE000#32 = k ++ q ++ p ++ 0#5 ++ 0#6 ++ 0#1 ++ 0#1 := by
  refine (e_and maj cls _ 0x7F#7 _ 0x3F#6 _ 0x3F#6 sp).trans ?_
  rw [and_seven, and_six, and_six]

theorem e_emit (maj : BitVec 6) (cls : BitVec 5) (c : BitVec 1) (r q p : BitVec 6) (sp : Sp) :
    eWord maj cls (c ++ r) q p sp &&& 0x80000000#32 = c ++ 0#6 ++ 0#6 ++ 0#6 ++ 0#5 ++ 0#6 ++ 0#1 ++ 0#1 := by
  refine (e_and maj cls _ 0x40#7 _ 0#6 _ 0#6 sp).trans ?_
  rw [and_flag, BitVec.and_zero, BitVec.and_zero]

theorem e_sync (maj : BitVec 6) (cls : BitVec 5) (c : BitVec 1) (r p : BitVec 6) (a : BitVec 4) (sp : Sp) :
    eWord maj cls (c ++ r) (0#2 ++ a) p sp &&& 0x81800000#32 = c ++ 0#6 ++ 0#6 ++ 0#6 ++ 0#5 ++ 0#6 ++ 0#1 ++ 0#1 := by
  refine (e_and maj cls _ 0x40#7 _ 0x30#6 _ 0#6 sp).trans ?_
  rw [and_flag, and_reg, BitVec.and_zero]

theorem e_fence (maj : BitVec 6) (cls : BitVec 5) (k : BitVec 7) (q : BitVec 6) (a : BitVec 2) (sp : Sp) :
    eWord maj cls k q (0#4 ++ a) sp &&& 0xFE078000#32 = k ++ 0#6 ++ 0#6 ++ 0#5 ++ 0#6 ++ 0#1 ++ 0#1 := by
  refine (e_and maj cls _ 0x7F#7 _ 0#6 _ 0x3C#6 sp).trans ?_
  rw [and_seven, BitVec.and_zero, and_kind]

theorem e_free_k (maj : BitVec 6) (cls : BitVec 5) (k : BitVec 7) (q p : BitVec 6) (sp : Sp) :
    eWord maj cls k q p sp &&& 0x01FFE000#32 = 0#7 ++ q ++ p ++ 0#5 ++ 0#6 ++ 0#1 ++ 0#1 := by
  refine (e_and maj cls _ 0#7 _ 0x3F#6 _ 0x3F#6 sp).trans ?_
  rw [BitVec.and_zero, and_six, and_six]

theorem e_ctx (maj : BitVec 6) (cls : BitVec 5) (k : BitVec 7) (p a : BitVec 4) (sp : Sp) :
    eWord maj cls k (0#2 ++ a) (0#2 ++ p) sp &&& 0xFF860000#32 = k ++ 0#6 ++ 0#6 ++ 0#5 ++ 0#6 ++ 0#1 ++ 0#1 := by
  refine (e_and maj cls _ 0x7F#7 _ 0x30#6 _ 0x30#6 sp).trans ?_
  rw [and_seven, and_reg, and_reg]

theorem e_dusk (maj : BitVec 6) (cls : BitVec 5) (b : Bool) (q p : BitVec 6) (sp : Sp) :
    eWord maj cls (0#6 ++ BitVec.ofBool b) q p sp &&& 0xFC000000#32 = 0#7 ++ 0#6 ++ 0#6 ++ 0#5 ++ 0#6 ++ 0#1 ++ 0#1 := by
  refine (e_and maj cls _ 0x7E#7 _ 0#6 _ 0#6 sp).trans ?_
  rw [and_keep, BitVec.and_zero, BitVec.and_zero]

theorem e_free_q (maj : BitVec 6) (cls : BitVec 5) (k : BitVec 7) (q p : BitVec 6) (sp : Sp) :
    eWord maj cls k q p sp &&& 0xFE07E000#32 = k ++ 0#6 ++ p ++ 0#5 ++ 0#6 ++ 0#1 ++ 0#1 := by
  refine (e_and maj cls _ 0x7F#7 _ 0#6 _ 0x3F#6 sp).trans ?_
  rw [and_seven, BitVec.and_zero, and_six]

theorem e_aadd (maj : BitVec 6) (cls : BitVec 5) (k : BitVec 7) (p : BitVec 6) (a : BitVec 4) (sp : Sp) :
    eWord maj cls k (0#2 ++ a) p sp &&& 0x01800000#32 = 0#7 ++ 0#6 ++ 0#6 ++ 0#5 ++ 0#6 ++ 0#1 ++ 0#1 := by
  refine (e_and maj cls _ 0#7 _ 0x30#6 _ 0#6 sp).trans ?_
  rw [BitVec.and_zero, and_reg, BitVec.and_zero]

theorem e_aset (maj : BitVec 6) (cls : BitVec 5) (k : BitVec 5) (p : BitVec 6) (a : BitVec 4) (sp : Sp) :
    eWord maj cls (0#2 ++ k) (0#2 ++ a) p sp &&& 0xC1800000#32 = 0#7 ++ 0#6 ++ 0#6 ++ 0#5 ++ 0#6 ++ 0#1 ++ 0#1 := by
  refine (e_and maj cls _ 0x60#7 _ 0x30#6 _ 0#6 sp).trans ?_
  rw [and_perm, and_reg, BitVec.and_zero]

theorem e_aget (maj : BitVec 6) (cls : BitVec 5) (k : BitVec 2) (p : BitVec 6) (a : BitVec 4) (sp : Sp) :
    eWord maj cls (0#5 ++ k) (0#2 ++ a) p sp &&& 0xF9800000#32 = 0#7 ++ 0#6 ++ 0#6 ++ 0#5 ++ 0#6 ++ 0#1 ++ 0#1 := by
  refine (e_and maj cls _ 0x7C#7 _ 0x30#6 _ 0#6 sp).trans ?_
  rw [and_part, and_reg, BitVec.and_zero]

theorem e_top {k c : BitVec 7} {q p r t : BitVec 6} (h : k ≠ c) :
    ¬k ++ q ++ p ++ 0#5 ++ 0#6 ++ 0#1 ++ 0#1 = c ++ r ++ t ++ 0#5 ++ 0#6 ++ 0#1 ++ 0#1 := by
  intro e
  have e := congrArg (fun w => w.extractLsb' 25 7) e
  simp (disch := decide) only [bits_high, bits_all, Nat.reduceSub] at e
  exact h e

/-! ## The format `MAJ` selects -/

theorem rawIntUnary {sp : Sp} {w : BitVec 32} (h : w.extractLsb' 2 6 = 0x20#6) : decodeRaw sp w = decodeIntUnary sp w := by
  simp only [decodeRaw, h]
  rfl

theorem rawFloatUnary {sp : Sp} {w : BitVec 32} (h : w.extractLsb' 2 6 = 0x21#6) : decodeRaw sp w = decodeFloatUnary sp w := by
  simp only [decodeRaw, h]
  rfl

theorem rawPack {sp : Sp} {w : BitVec 32} (h : w.extractLsb' 2 6 = 0x25#6) : decodeRaw sp w = decodePack sp w := by
  simp only [decodeRaw, h]
  rfl

theorem rawQuad {sp : Sp} {w : BitVec 32} (h : w.extractLsb' 2 6 = 0x26#6) : decodeRaw sp w = decodeQuad sp w := by
  simp only [decodeRaw, h]
  rfl

theorem rawGroup {sp : Sp} {w : BitVec 32} (h : w.extractLsb' 2 6 = 0x27#6) : decodeRaw sp w = decodeGroup sp w := by
  simp only [decodeRaw, h]
  rfl

theorem rawCompare {sp : Sp} {w : BitVec 32} (h : w.extractLsb' 2 6 = 0x28#6) : decodeRaw sp w = decodeCompare sp w := by
  simp only [decodeRaw, h]
  rfl

theorem rawSketch {sp : Sp} {w : BitVec 32} (h : w.extractLsb' 2 6 = 0x37#6) : decodeRaw sp w = decodeSketch sp w := by
  simp only [decodeRaw, h]
  rfl

theorem rawSr {sp : Sp} {w : BitVec 32} (h : w.extractLsb' 2 6 = 0x3A#6) : decodeRaw sp w = decodeSr sp w := by
  simp only [decodeRaw, h]
  rfl

theorem rawRm {sp : Sp} {w : BitVec 32} (h : w.extractLsb' 2 6 = 0x3C#6) : decodeRaw sp w = decodeRm sp w := by
  simp only [decodeRaw, h]
  rfl

theorem rawMatrix {sp : Sp} {w : BitVec 32} (h : w.extractLsb' 2 6 = 0x3D#6) : decodeRaw sp w = decodeMatrix sp w := by
  simp only [decodeRaw, h]
  rfl

theorem rawEngine {sp : Sp} {w : BitVec 32} (h : w.extractLsb' 2 6 = 0x3E#6) : decodeRaw sp w = decodeEngine sp w := by
  simp only [decodeRaw, h]
  rfl

theorem rawSystem {sp : Sp} {w : BitVec 32} (h : w.extractLsb' 2 6 = 0x3F#6) : decodeRaw sp w = decodeSystem sp w := by
  simp only [decodeRaw, h]
  rfl

theorem rawV {sp : Sp} {w : BitVec 32} {maj : BitVec 6} (h : w.extractLsb' 2 6 = maj) (hm : maj.toNat < 32) :
    decodeRaw sp w = decodeV maj.toNat (.ofWord sp w) := by
  simp only [decodeRaw, h, hm, if_true]

theorem rawAtom {sp : Sp} {w : BitVec 32} {ord : BitVec 2} (h : w.extractLsb' 2 6 = 0xD#4 ++ ord) (ho : ord ≠ 3#2) :
    decodeRaw sp w = decodeAtom (w.extractLsb' 27 4).toNat (.ofWord sp w) := by
  have hs : ∀ o : BitVec 2, o ≠ 3#2 → o = 0#2 ∨ o = 1#2 ∨ o = 2#2 := by decide
  simp only [decodeRaw, h]
  rcases hs ord ho with rfl | rfl | rfl <;> rfl

end Sys2Proof.Laws
end

