-- ==== Sys2Proof/Laws/Mem.lean ====
section
/-!
SUPPORT. The laws of the byte memories: a read after a write, what a write leaves alone, and that every write keeps the
canonical form.
-/
namespace Sys2Proof.Machine

set_option Elab.async false

/-- A bound below may be lowered. -/
theorem memWfFrom_mono {lo lo' : Nat} (h : lo' ≤ lo) : ∀ {m : List Host.Cell}, memWfFrom lo m = true → memWfFrom lo' m = true
  | [], _ => rfl
  | (k, v) :: rest, hm => by
    simp only [memWfFrom, Bool.and_eq_true, decide_eq_true_eq] at hm ⊢
    exact ⟨⟨by omega, hm.1.2⟩, hm.2⟩

/-- Below the first listed address every byte reads 0. -/
theorem memRead_below {lo a : Nat} (h : a < lo) : ∀ {m : List Host.Cell}, memWfFrom lo m = true → memRead m a = 0
  | [], _ => rfl
  | (k, v) :: rest, hm => by
    simp only [memWfFrom, Bool.and_eq_true, decide_eq_true_eq] at hm
    simp [memRead, show a < k by omega]

/-- The form of a memory with a first entry. -/
theorem memWfFrom_cons {lo k : Nat} {v : Byte} {rest : List Host.Cell} :
    memWfFrom lo ((k, v) :: rest) = true ↔ lo ≤ k ∧ v ≠ 0 ∧ memWfFrom (k + 1) rest = true := by
  simp only [memWfFrom, Bool.and_eq_true, decide_eq_true_eq, bne_iff_ne, ne_eq, and_assoc]

/-- A write above a bound keeps the form above it. -/
theorem memWrite_wfFrom {lo a : Nat} (b : Byte) (h : lo ≤ a) :
    ∀ {m : List Host.Cell}, memWfFrom lo m = true → memWfFrom lo (memWrite m a b) = true
  | [], _ => by
    rw [memWrite]
    split
    · rfl
    · exact memWfFrom_cons.2 ⟨h, ‹_›, rfl⟩
  | (k, v) :: rest, hm => by
    obtain ⟨h1, h2, h3⟩ := memWfFrom_cons.1 hm
    rw [memWrite]
    split
    · split
      · exact hm
      · exact memWfFrom_cons.2 ⟨h, ‹_›, memWfFrom_cons.2 ⟨by omega, h2, h3⟩⟩
    · split
      · subst_vars
        split
        · exact memWfFrom_mono (by omega) h3
        · exact memWfFrom_cons.2 ⟨h1, ‹_›, h3⟩
      · exact memWfFrom_cons.2 ⟨h1, h2, memWrite_wfFrom b (by omega) h3⟩

/-- A write keeps the canonical form. -/
theorem memWrite_wf {m : List Host.Cell} (a : Nat) (b : Byte) (h : Memory.wf m = true) : Memory.wf (memWrite m a b) = true :=
  memWrite_wfFrom b (Nat.zero_le _) h

/-- A little-endian write keeps the canonical form. -/
theorem memWriteLE_wf : ∀ (n : Nat) {m : List Host.Cell} (a v : Nat), Memory.wf m = true → Memory.wf (memWriteLE m a n v) = true
  | 0, _, _, _, h => h
  | n + 1, _, _, _, h => memWriteLE_wf n _ _ (memWrite_wf _ _ h)

/-- A write of a list of bytes keeps the canonical form. -/
theorem memWriteBytes_wf : ∀ (bs : List Byte) {m : List Host.Cell} (a : Nat), Memory.wf m = true → Memory.wf (memWriteBytes m a bs) = true
  | [], _, _, h => h
  | _ :: bs, _, _, h => memWriteBytes_wf bs _ (memWrite_wf _ _ h)

/-- The byte written is the byte read, and every other byte reads as before. -/
theorem memRead_memWrite_from {lo a c : Nat} (b : Byte) :
    ∀ {m : List Host.Cell}, memWfFrom lo m = true → memRead (memWrite m a b) c = if c = a then b else memRead m c
  | [], _ => by
    rw [memWrite]
    split
    · subst_vars; simp only [memRead]; split <;> rfl
    · simp only [memRead]; split
      · rw [if_neg (by omega)]
      · rfl
  | (k, v) :: rest, hm => by
    obtain ⟨h1, h2, h3⟩ := memWfFrom_cons.1 hm
    have ih := memRead_memWrite_from (a := a) (c := c) b h3
    rw [memWrite]
    split
    · split
      · subst_vars
        by_cases hc : c = a
        · subst hc; simp [memRead, show c < k by omega]
        · rw [if_neg hc]
      · by_cases hc : c = a
        · subst hc; simp [memRead]
        · rw [if_neg hc]
          by_cases hl : c < a
          · simp [memRead, hl, show c < k by omega]
          · simp [memRead, hl, hc]
    · split
      · subst_vars
        have hk : c < k + 1 → memRead rest c = 0 := fun h => memRead_below h h3
        split
        · subst_vars; by_cases hc : c = k
          · rw [if_pos hc, hk (by omega)]
          · rw [if_neg hc]
            by_cases hl : c < k
            · rw [hk (by omega)]; simp [memRead, hl]
            · simp [memRead, hl, hc]
        · by_cases hc : c = k
          · subst hc; simp [memRead]
          · rw [if_neg hc]; simp [memRead, hc]
      · simp only [memRead, ih]
        by_cases hc : c = a
        · rw [if_pos hc, if_neg (by omega), if_neg (by omega), if_pos hc]
        · rw [if_neg hc, if_neg hc]

/-- See `memRead_memWrite_from`. -/
theorem memRead_memWrite {m : List Host.Cell} (h : Memory.wf m = true) (a c : Nat) (b : Byte) :
    memRead (memWrite m a b) c = if c = a then b else memRead m c := memRead_memWrite_from b h

/-- What a little-endian write leaves: byte `i` of the value at `a + i`, every other byte as before. -/
theorem memRead_memWriteLE : ∀ (n : Nat) {m : List Host.Cell} (a v c : Nat), Memory.wf m = true →
    memRead (memWriteLE m a n v) c = if a ≤ c ∧ c < a + n then BitVec.ofNat 8 (v / 256 ^ (c - a)) else memRead m c
  | 0, m, a, v, c, _ => by rw [if_neg (by omega)]; rfl
  | n + 1, m, a, v, c, h => by
    rw [memWriteLE, memRead_memWriteLE n _ _ _ (memWrite_wf _ _ h), memRead_memWrite h]
    by_cases h0 : c = a
    · subst h0; rw [if_neg (by omega), if_pos rfl, if_pos (by omega), Nat.sub_self, Nat.pow_zero, Nat.div_one]
    · by_cases h1 : a + 1 ≤ c ∧ c < a + 1 + n
      · rw [if_pos h1, if_pos (by omega), Nat.div_div_eq_div_mul, ← Nat.pow_succ']
        congr 3; omega
      · rw [if_neg h1, if_neg h0, if_neg (by omega)]

/-- A little-endian read back gives the low bytes of the value written. -/
theorem memReadLE_congr {m m' : List Host.Cell} : ∀ (n a : Nat), (∀ c, a ≤ c → c < a + n → memRead m c = memRead m' c) →
    memReadLE m a n = memReadLE m' a n
  | 0, _, _ => rfl
  | n + 1, a, h => by
    rw [memReadLE, memReadLE, h a (Nat.le_refl _) (by omega), memReadLE_congr n (a + 1) fun c h1 h2 => h c (by omega) (by omega)]

/-- Reading a little-endian number back. -/
theorem memReadLE_memWriteLE : ∀ (n : Nat) {m : List Host.Cell} (a v : Nat), Memory.wf m = true →
    memReadLE (memWriteLE m a n v) a n = v % 256 ^ n
  | 0, _, _, _, _ => by simp [memReadLE, Nat.mod_one]
  | n + 1, m, a, v, h => by
    rw [memReadLE, memRead_memWriteLE _ _ _ _ h, if_pos (by omega)]
    have hw := memWrite_wf a (BitVec.ofNat 8 v) h
    rw [memWriteLE, memReadLE_memWriteLE n (a + 1) (v / 256) hw]
    rw [Nat.sub_self, Nat.pow_zero, Nat.div_one, BitVec.toNat_ofNat]
    have e : v % (256 * 256 ^ n) = v % 256 + 256 * (v / 256 % 256 ^ n) := Nat.mod_mul
    rw [show 256 ^ (n + 1) = 256 * 256 ^ n from Nat.pow_succ', e]

end Sys2Proof.Machine
end

