-- ==== Sys2Proof/Laws/State.lean ====
section
/-!
SUPPORT. One lemma per field of the state per update of a record of it, and per field of a group per update of its
registers: what an update does not name it leaves. All are true by computation,
but for the wait, which asks whether the group is left.
-/
namespace Sys2Proof.Machine

/-! ## The state -/

section modMod
variable (s : State) (m : Nat) (f : Mod → Mod)
@[simp] theorem State.modMod_cores : (s.modMod m f).cores = s.cores := rfl
@[simp] theorem State.modMod_groups : (s.modMod m f).groups = s.groups := rfl
@[simp] theorem State.modMod_teams : (s.modMod m f).teams = s.teams := rfl
@[simp] theorem State.modMod_acts : (s.modMod m f).acts = s.acts := rfl
@[simp] theorem State.modMod_queues : (s.modMod m f).queues = s.queues := rfl
@[simp] theorem State.modMod_mem : (s.modMod m f).mem = s.mem := rfl
@[simp] theorem State.modMod_lmem : (s.modMod m f).lmem = s.lmem := rfl
@[simp] theorem State.modMod_lines : (s.modMod m f).lines = s.lines := rfl
@[simp] theorem State.modMod_poison : (s.modMod m f).poison = s.poison := rfl
@[simp] theorem State.modMod_lpoison : (s.modMod m f).lpoison = s.lpoison := rfl
@[simp] theorem State.modMod_sync : (s.modMod m f).sync = s.sync := rfl
@[simp] theorem State.modMod_parents : (s.modMod m f).parents = s.parents := rfl
@[simp] theorem State.modMod_l1 : (s.modMod m f).l1 = s.l1 := rfl
@[simp] theorem State.modMod_dir : (s.modMod m f).dir = s.dir := rfl
@[simp] theorem State.modMod_tags : (s.modMod m f).tags = s.tags := rfl
@[simp] theorem State.modMod_datas : (s.modMod m f).datas = s.datas := rfl
@[simp] theorem State.modMod_reqs : (s.modMod m f).reqs = s.reqs := rfl
@[simp] theorem State.modMod_msgs : (s.modMod m f).msgs = s.msgs := rfl
@[simp] theorem State.modMod_log : (s.modMod m f).log = s.log := rfl
@[simp] theorem State.modMod_pairs : (s.modMod m f).pairs = s.pairs := rfl
@[simp] theorem State.modMod_copies : (s.modMod m f).copies = s.copies := rfl
@[simp] theorem State.modMod_engines : (s.modMod m f).engines = s.engines := rfl
@[simp] theorem State.modMod_graphs : (s.modMod m f).graphs = s.graphs := rfl
@[simp] theorem State.modMod_runs : (s.modMod m f).runs = s.runs := rfl
@[simp] theorem State.modMod_streams : (s.modMod m f).streams = s.streams := rfl
@[simp] theorem State.modMod_windows : (s.modMod m f).windows = s.windows := rfl
@[simp] theorem State.modMod_nopath : (s.modMod m f).nopath = s.nopath := rfl
@[simp] theorem State.modMod_drains : (s.modMod m f).drains = s.drains := rfl
@[simp] theorem State.modMod_owed : (s.modMod m f).owed = s.owed := rfl
@[simp] theorem State.modMod_rests : (s.modMod m f).rests = s.rests := rfl
@[simp] theorem State.modMod_cyc : (s.modMod m f).cyc = s.cyc := rfl
@[simp] theorem State.modMod_ltick : (s.modMod m f).ltick = s.ltick := rfl
@[simp] theorem State.modMod_hostReply : (s.modMod m f).hostReply = s.hostReply := rfl
@[simp] theorem State.modMod_hostFault : (s.modMod m f).hostFault = s.hostFault := rfl
@[simp] theorem State.modMod_cur : (s.modMod m f).cur = s.cur := rfl
@[simp] theorem State.modMod_ev : (s.modMod m f).ev = s.ev := rfl
@[simp] theorem State.modMod_agenda : (s.modMod m f).agenda = s.agenda := rfl
@[simp] theorem State.modMod_freeCount : (s.modMod m f).freeCount = s.freeCount := rfl
@[simp] theorem State.modMod_nextId : (s.modMod m f).nextId = s.nextId := rfl
end modMod

section modVf
variable (s : State) (m v : Nat) (f : Vf → Vf)
@[simp] theorem State.modVf_cores : (s.modVf m v f).cores = s.cores := rfl
@[simp] theorem State.modVf_groups : (s.modVf m v f).groups = s.groups := rfl
@[simp] theorem State.modVf_teams : (s.modVf m v f).teams = s.teams := rfl
@[simp] theorem State.modVf_acts : (s.modVf m v f).acts = s.acts := rfl
@[simp] theorem State.modVf_queues : (s.modVf m v f).queues = s.queues := rfl
@[simp] theorem State.modVf_mem : (s.modVf m v f).mem = s.mem := rfl
@[simp] theorem State.modVf_lmem : (s.modVf m v f).lmem = s.lmem := rfl
@[simp] theorem State.modVf_lines : (s.modVf m v f).lines = s.lines := rfl
@[simp] theorem State.modVf_poison : (s.modVf m v f).poison = s.poison := rfl
@[simp] theorem State.modVf_lpoison : (s.modVf m v f).lpoison = s.lpoison := rfl
@[simp] theorem State.modVf_sync : (s.modVf m v f).sync = s.sync := rfl
@[simp] theorem State.modVf_parents : (s.modVf m v f).parents = s.parents := rfl
@[simp] theorem State.modVf_l1 : (s.modVf m v f).l1 = s.l1 := rfl
@[simp] theorem State.modVf_dir : (s.modVf m v f).dir = s.dir := rfl
@[simp] theorem State.modVf_tags : (s.modVf m v f).tags = s.tags := rfl
@[simp] theorem State.modVf_datas : (s.modVf m v f).datas = s.datas := rfl
@[simp] theorem State.modVf_reqs : (s.modVf m v f).reqs = s.reqs := rfl
@[simp] theorem State.modVf_msgs : (s.modVf m v f).msgs = s.msgs := rfl
@[simp] theorem State.modVf_log : (s.modVf m v f).log = s.log := rfl
@[simp] theorem State.modVf_pairs : (s.modVf m v f).pairs = s.pairs := rfl
@[simp] theorem State.modVf_copies : (s.modVf m v f).copies = s.copies := rfl
@[simp] theorem State.modVf_engines : (s.modVf m v f).engines = s.engines := rfl
@[simp] theorem State.modVf_graphs : (s.modVf m v f).graphs = s.graphs := rfl
@[simp] theorem State.modVf_runs : (s.modVf m v f).runs = s.runs := rfl
@[simp] theorem State.modVf_streams : (s.modVf m v f).streams = s.streams := rfl
@[simp] theorem State.modVf_windows : (s.modVf m v f).windows = s.windows := rfl
@[simp] theorem State.modVf_nopath : (s.modVf m v f).nopath = s.nopath := rfl
@[simp] theorem State.modVf_drains : (s.modVf m v f).drains = s.drains := rfl
@[simp] theorem State.modVf_owed : (s.modVf m v f).owed = s.owed := rfl
@[simp] theorem State.modVf_rests : (s.modVf m v f).rests = s.rests := rfl
@[simp] theorem State.modVf_cyc : (s.modVf m v f).cyc = s.cyc := rfl
@[simp] theorem State.modVf_ltick : (s.modVf m v f).ltick = s.ltick := rfl
@[simp] theorem State.modVf_hostReply : (s.modVf m v f).hostReply = s.hostReply := rfl
@[simp] theorem State.modVf_hostFault : (s.modVf m v f).hostFault = s.hostFault := rfl
@[simp] theorem State.modVf_cur : (s.modVf m v f).cur = s.cur := rfl
@[simp] theorem State.modVf_ev : (s.modVf m v f).ev = s.ev := rfl
@[simp] theorem State.modVf_agenda : (s.modVf m v f).agenda = s.agenda := rfl
@[simp] theorem State.modVf_freeCount : (s.modVf m v f).freeCount = s.freeCount := rfl
@[simp] theorem State.modVf_nextId : (s.modVf m v f).nextId = s.nextId := rfl
end modVf

section modCore
variable (s : State) (c : Nat) (f : Core → Core)
@[simp] theorem State.modCore_modules : (s.modCore c f).modules = s.modules := rfl
@[simp] theorem State.modCore_groups : (s.modCore c f).groups = s.groups := rfl
@[simp] theorem State.modCore_teams : (s.modCore c f).teams = s.teams := rfl
@[simp] theorem State.modCore_acts : (s.modCore c f).acts = s.acts := rfl
@[simp] theorem State.modCore_queues : (s.modCore c f).queues = s.queues := rfl
@[simp] theorem State.modCore_mem : (s.modCore c f).mem = s.mem := rfl
@[simp] theorem State.modCore_lmem : (s.modCore c f).lmem = s.lmem := rfl
@[simp] theorem State.modCore_lines : (s.modCore c f).lines = s.lines := rfl
@[simp] theorem State.modCore_poison : (s.modCore c f).poison = s.poison := rfl
@[simp] theorem State.modCore_lpoison : (s.modCore c f).lpoison = s.lpoison := rfl
@[simp] theorem State.modCore_sync : (s.modCore c f).sync = s.sync := rfl
@[simp] theorem State.modCore_parents : (s.modCore c f).parents = s.parents := rfl
@[simp] theorem State.modCore_l1 : (s.modCore c f).l1 = s.l1 := rfl
@[simp] theorem State.modCore_dir : (s.modCore c f).dir = s.dir := rfl
@[simp] theorem State.modCore_tags : (s.modCore c f).tags = s.tags := rfl
@[simp] theorem State.modCore_datas : (s.modCore c f).datas = s.datas := rfl
@[simp] theorem State.modCore_reqs : (s.modCore c f).reqs = s.reqs := rfl
@[simp] theorem State.modCore_msgs : (s.modCore c f).msgs = s.msgs := rfl
@[simp] theorem State.modCore_log : (s.modCore c f).log = s.log := rfl
@[simp] theorem State.modCore_pairs : (s.modCore c f).pairs = s.pairs := rfl
@[simp] theorem State.modCore_copies : (s.modCore c f).copies = s.copies := rfl
@[simp] theorem State.modCore_engines : (s.modCore c f).engines = s.engines := rfl
@[simp] theorem State.modCore_graphs : (s.modCore c f).graphs = s.graphs := rfl
@[simp] theorem State.modCore_runs : (s.modCore c f).runs = s.runs := rfl
@[simp] theorem State.modCore_streams : (s.modCore c f).streams = s.streams := rfl
@[simp] theorem State.modCore_windows : (s.modCore c f).windows = s.windows := rfl
@[simp] theorem State.modCore_nopath : (s.modCore c f).nopath = s.nopath := rfl
@[simp] theorem State.modCore_drains : (s.modCore c f).drains = s.drains := rfl
@[simp] theorem State.modCore_owed : (s.modCore c f).owed = s.owed := rfl
@[simp] theorem State.modCore_rests : (s.modCore c f).rests = s.rests := rfl
@[simp] theorem State.modCore_cyc : (s.modCore c f).cyc = s.cyc := rfl
@[simp] theorem State.modCore_ltick : (s.modCore c f).ltick = s.ltick := rfl
@[simp] theorem State.modCore_hostReply : (s.modCore c f).hostReply = s.hostReply := rfl
@[simp] theorem State.modCore_hostFault : (s.modCore c f).hostFault = s.hostFault := rfl
@[simp] theorem State.modCore_cur : (s.modCore c f).cur = s.cur := rfl
@[simp] theorem State.modCore_ev : (s.modCore c f).ev = s.ev := rfl
@[simp] theorem State.modCore_agenda : (s.modCore c f).agenda = s.agenda := rfl
@[simp] theorem State.modCore_freeCount : (s.modCore c f).freeCount = s.freeCount := rfl
@[simp] theorem State.modCore_nextId : (s.modCore c f).nextId = s.nextId := rfl
end modCore

section modTeam
variable (s : State) (u : Nat) (f : Team → Team)
@[simp] theorem State.modTeam_modules : (s.modTeam u f).modules = s.modules := rfl
@[simp] theorem State.modTeam_cores : (s.modTeam u f).cores = s.cores := rfl
@[simp] theorem State.modTeam_groups : (s.modTeam u f).groups = s.groups := rfl
@[simp] theorem State.modTeam_acts : (s.modTeam u f).acts = s.acts := rfl
@[simp] theorem State.modTeam_queues : (s.modTeam u f).queues = s.queues := rfl
@[simp] theorem State.modTeam_mem : (s.modTeam u f).mem = s.mem := rfl
@[simp] theorem State.modTeam_lmem : (s.modTeam u f).lmem = s.lmem := rfl
@[simp] theorem State.modTeam_lines : (s.modTeam u f).lines = s.lines := rfl
@[simp] theorem State.modTeam_poison : (s.modTeam u f).poison = s.poison := rfl
@[simp] theorem State.modTeam_lpoison : (s.modTeam u f).lpoison = s.lpoison := rfl
@[simp] theorem State.modTeam_sync : (s.modTeam u f).sync = s.sync := rfl
@[simp] theorem State.modTeam_parents : (s.modTeam u f).parents = s.parents := rfl
@[simp] theorem State.modTeam_l1 : (s.modTeam u f).l1 = s.l1 := rfl
@[simp] theorem State.modTeam_dir : (s.modTeam u f).dir = s.dir := rfl
@[simp] theorem State.modTeam_tags : (s.modTeam u f).tags = s.tags := rfl
@[simp] theorem State.modTeam_datas : (s.modTeam u f).datas = s.datas := rfl
@[simp] theorem State.modTeam_reqs : (s.modTeam u f).reqs = s.reqs := rfl
@[simp] theorem State.modTeam_msgs : (s.modTeam u f).msgs = s.msgs := rfl
@[simp] theorem State.modTeam_log : (s.modTeam u f).log = s.log := rfl
@[simp] theorem State.modTeam_pairs : (s.modTeam u f).pairs = s.pairs := rfl
@[simp] theorem State.modTeam_copies : (s.modTeam u f).copies = s.copies := rfl
@[simp] theorem State.modTeam_engines : (s.modTeam u f).engines = s.engines := rfl
@[simp] theorem State.modTeam_graphs : (s.modTeam u f).graphs = s.graphs := rfl
@[simp] theorem State.modTeam_runs : (s.modTeam u f).runs = s.runs := rfl
@[simp] theorem State.modTeam_streams : (s.modTeam u f).streams = s.streams := rfl
@[simp] theorem State.modTeam_windows : (s.modTeam u f).windows = s.windows := rfl
@[simp] theorem State.modTeam_nopath : (s.modTeam u f).nopath = s.nopath := rfl
@[simp] theorem State.modTeam_drains : (s.modTeam u f).drains = s.drains := rfl
@[simp] theorem State.modTeam_owed : (s.modTeam u f).owed = s.owed := rfl
@[simp] theorem State.modTeam_rests : (s.modTeam u f).rests = s.rests := rfl
@[simp] theorem State.modTeam_cyc : (s.modTeam u f).cyc = s.cyc := rfl
@[simp] theorem State.modTeam_ltick : (s.modTeam u f).ltick = s.ltick := rfl
@[simp] theorem State.modTeam_hostReply : (s.modTeam u f).hostReply = s.hostReply := rfl
@[simp] theorem State.modTeam_hostFault : (s.modTeam u f).hostFault = s.hostFault := rfl
@[simp] theorem State.modTeam_cur : (s.modTeam u f).cur = s.cur := rfl
@[simp] theorem State.modTeam_ev : (s.modTeam u f).ev = s.ev := rfl
@[simp] theorem State.modTeam_agenda : (s.modTeam u f).agenda = s.agenda := rfl
@[simp] theorem State.modTeam_freeCount : (s.modTeam u f).freeCount = s.freeCount := rfl
@[simp] theorem State.modTeam_nextId : (s.modTeam u f).nextId = s.nextId := rfl
end modTeam

section setGroup
variable (s : State) (g : Group)
@[simp] theorem State.setGroup_modules : (s.setGroup g).modules = s.modules := rfl
@[simp] theorem State.setGroup_cores : (s.setGroup g).cores = s.cores := rfl
@[simp] theorem State.setGroup_teams : (s.setGroup g).teams = s.teams := rfl
@[simp] theorem State.setGroup_acts : (s.setGroup g).acts = s.acts := rfl
@[simp] theorem State.setGroup_queues : (s.setGroup g).queues = s.queues := rfl
@[simp] theorem State.setGroup_mem : (s.setGroup g).mem = s.mem := rfl
@[simp] theorem State.setGroup_lmem : (s.setGroup g).lmem = s.lmem := rfl
@[simp] theorem State.setGroup_lines : (s.setGroup g).lines = s.lines := rfl
@[simp] theorem State.setGroup_poison : (s.setGroup g).poison = s.poison := rfl
@[simp] theorem State.setGroup_lpoison : (s.setGroup g).lpoison = s.lpoison := rfl
@[simp] theorem State.setGroup_sync : (s.setGroup g).sync = s.sync := rfl
@[simp] theorem State.setGroup_parents : (s.setGroup g).parents = s.parents := rfl
@[simp] theorem State.setGroup_l1 : (s.setGroup g).l1 = s.l1 := rfl
@[simp] theorem State.setGroup_dir : (s.setGroup g).dir = s.dir := rfl
@[simp] theorem State.setGroup_tags : (s.setGroup g).tags = s.tags := rfl
@[simp] theorem State.setGroup_datas : (s.setGroup g).datas = s.datas := rfl
@[simp] theorem State.setGroup_reqs : (s.setGroup g).reqs = s.reqs := rfl
@[simp] theorem State.setGroup_msgs : (s.setGroup g).msgs = s.msgs := rfl
@[simp] theorem State.setGroup_log : (s.setGroup g).log = s.log := rfl
@[simp] theorem State.setGroup_pairs : (s.setGroup g).pairs = s.pairs := rfl
@[simp] theorem State.setGroup_copies : (s.setGroup g).copies = s.copies := rfl
@[simp] theorem State.setGroup_engines : (s.setGroup g).engines = s.engines := rfl
@[simp] theorem State.setGroup_graphs : (s.setGroup g).graphs = s.graphs := rfl
@[simp] theorem State.setGroup_runs : (s.setGroup g).runs = s.runs := rfl
@[simp] theorem State.setGroup_streams : (s.setGroup g).streams = s.streams := rfl
@[simp] theorem State.setGroup_windows : (s.setGroup g).windows = s.windows := rfl
@[simp] theorem State.setGroup_nopath : (s.setGroup g).nopath = s.nopath := rfl
@[simp] theorem State.setGroup_drains : (s.setGroup g).drains = s.drains := rfl
@[simp] theorem State.setGroup_owed : (s.setGroup g).owed = s.owed := rfl
@[simp] theorem State.setGroup_rests : (s.setGroup g).rests = s.rests := rfl
@[simp] theorem State.setGroup_cyc : (s.setGroup g).cyc = s.cyc := rfl
@[simp] theorem State.setGroup_ltick : (s.setGroup g).ltick = s.ltick := rfl
@[simp] theorem State.setGroup_hostReply : (s.setGroup g).hostReply = s.hostReply := rfl
@[simp] theorem State.setGroup_hostFault : (s.setGroup g).hostFault = s.hostFault := rfl
@[simp] theorem State.setGroup_cur : (s.setGroup g).cur = s.cur := rfl
@[simp] theorem State.setGroup_ev : (s.setGroup g).ev = s.ev := rfl
@[simp] theorem State.setGroup_agenda : (s.setGroup g).agenda = s.agenda := rfl
@[simp] theorem State.setGroup_freeCount : (s.setGroup g).freeCount = s.freeCount := rfl
@[simp] theorem State.setGroup_nextId : (s.setGroup g).nextId = s.nextId := rfl
end setGroup

section modGroup
variable (s : State) (c k : Nat) (f : Group → Group)
@[simp] theorem State.modGroup_modules : (s.modGroup c k f).modules = s.modules := rfl
@[simp] theorem State.modGroup_cores : (s.modGroup c k f).cores = s.cores := rfl
@[simp] theorem State.modGroup_teams : (s.modGroup c k f).teams = s.teams := rfl
@[simp] theorem State.modGroup_acts : (s.modGroup c k f).acts = s.acts := rfl
@[simp] theorem State.modGroup_queues : (s.modGroup c k f).queues = s.queues := rfl
@[simp] theorem State.modGroup_mem : (s.modGroup c k f).mem = s.mem := rfl
@[simp] theorem State.modGroup_lmem : (s.modGroup c k f).lmem = s.lmem := rfl
@[simp] theorem State.modGroup_lines : (s.modGroup c k f).lines = s.lines := rfl
@[simp] theorem State.modGroup_poison : (s.modGroup c k f).poison = s.poison := rfl
@[simp] theorem State.modGroup_lpoison : (s.modGroup c k f).lpoison = s.lpoison := rfl
@[simp] theorem State.modGroup_sync : (s.modGroup c k f).sync = s.sync := rfl
@[simp] theorem State.modGroup_parents : (s.modGroup c k f).parents = s.parents := rfl
@[simp] theorem State.modGroup_l1 : (s.modGroup c k f).l1 = s.l1 := rfl
@[simp] theorem State.modGroup_dir : (s.modGroup c k f).dir = s.dir := rfl
@[simp] theorem State.modGroup_tags : (s.modGroup c k f).tags = s.tags := rfl
@[simp] theorem State.modGroup_datas : (s.modGroup c k f).datas = s.datas := rfl
@[simp] theorem State.modGroup_reqs : (s.modGroup c k f).reqs = s.reqs := rfl
@[simp] theorem State.modGroup_msgs : (s.modGroup c k f).msgs = s.msgs := rfl
@[simp] theorem State.modGroup_log : (s.modGroup c k f).log = s.log := rfl
@[simp] theorem State.modGroup_pairs : (s.modGroup c k f).pairs = s.pairs := rfl
@[simp] theorem State.modGroup_copies : (s.modGroup c k f).copies = s.copies := rfl
@[simp] theorem State.modGroup_engines : (s.modGroup c k f).engines = s.engines := rfl
@[simp] theorem State.modGroup_graphs : (s.modGroup c k f).graphs = s.graphs := rfl
@[simp] theorem State.modGroup_runs : (s.modGroup c k f).runs = s.runs := rfl
@[simp] theorem State.modGroup_streams : (s.modGroup c k f).streams = s.streams := rfl
@[simp] theorem State.modGroup_windows : (s.modGroup c k f).windows = s.windows := rfl
@[simp] theorem State.modGroup_nopath : (s.modGroup c k f).nopath = s.nopath := rfl
@[simp] theorem State.modGroup_drains : (s.modGroup c k f).drains = s.drains := rfl
@[simp] theorem State.modGroup_owed : (s.modGroup c k f).owed = s.owed := rfl
@[simp] theorem State.modGroup_rests : (s.modGroup c k f).rests = s.rests := rfl
@[simp] theorem State.modGroup_cyc : (s.modGroup c k f).cyc = s.cyc := rfl
@[simp] theorem State.modGroup_ltick : (s.modGroup c k f).ltick = s.ltick := rfl
@[simp] theorem State.modGroup_hostReply : (s.modGroup c k f).hostReply = s.hostReply := rfl
@[simp] theorem State.modGroup_hostFault : (s.modGroup c k f).hostFault = s.hostFault := rfl
@[simp] theorem State.modGroup_cur : (s.modGroup c k f).cur = s.cur := rfl
@[simp] theorem State.modGroup_ev : (s.modGroup c k f).ev = s.ev := rfl
@[simp] theorem State.modGroup_agenda : (s.modGroup c k f).agenda = s.agenda := rfl
@[simp] theorem State.modGroup_freeCount : (s.modGroup c k f).freeCount = s.freeCount := rfl
@[simp] theorem State.modGroup_nextId : (s.modGroup c k f).nextId = s.nextId := rfl
end modGroup

section modQueue
variable (s : State) (m n : Nat) (f : Queue → Queue)
@[simp] theorem State.modQueue_modules : (s.modQueue m n f).modules = s.modules := rfl
@[simp] theorem State.modQueue_cores : (s.modQueue m n f).cores = s.cores := rfl
@[simp] theorem State.modQueue_groups : (s.modQueue m n f).groups = s.groups := rfl
@[simp] theorem State.modQueue_teams : (s.modQueue m n f).teams = s.teams := rfl
@[simp] theorem State.modQueue_acts : (s.modQueue m n f).acts = s.acts := rfl
@[simp] theorem State.modQueue_mem : (s.modQueue m n f).mem = s.mem := rfl
@[simp] theorem State.modQueue_lmem : (s.modQueue m n f).lmem = s.lmem := rfl
@[simp] theorem State.modQueue_lines : (s.modQueue m n f).lines = s.lines := rfl
@[simp] theorem State.modQueue_poison : (s.modQueue m n f).poison = s.poison := rfl
@[simp] theorem State.modQueue_lpoison : (s.modQueue m n f).lpoison = s.lpoison := rfl
@[simp] theorem State.modQueue_sync : (s.modQueue m n f).sync = s.sync := rfl
@[simp] theorem State.modQueue_parents : (s.modQueue m n f).parents = s.parents := rfl
@[simp] theorem State.modQueue_l1 : (s.modQueue m n f).l1 = s.l1 := rfl
@[simp] theorem State.modQueue_dir : (s.modQueue m n f).dir = s.dir := rfl
@[simp] theorem State.modQueue_tags : (s.modQueue m n f).tags = s.tags := rfl
@[simp] theorem State.modQueue_datas : (s.modQueue m n f).datas = s.datas := rfl
@[simp] theorem State.modQueue_reqs : (s.modQueue m n f).reqs = s.reqs := rfl
@[simp] theorem State.modQueue_msgs : (s.modQueue m n f).msgs = s.msgs := rfl
@[simp] theorem State.modQueue_log : (s.modQueue m n f).log = s.log := rfl
@[simp] theorem State.modQueue_pairs : (s.modQueue m n f).pairs = s.pairs := rfl
@[simp] theorem State.modQueue_copies : (s.modQueue m n f).copies = s.copies := rfl
@[simp] theorem State.modQueue_engines : (s.modQueue m n f).engines = s.engines := rfl
@[simp] theorem State.modQueue_graphs : (s.modQueue m n f).graphs = s.graphs := rfl
@[simp] theorem State.modQueue_runs : (s.modQueue m n f).runs = s.runs := rfl
@[simp] theorem State.modQueue_streams : (s.modQueue m n f).streams = s.streams := rfl
@[simp] theorem State.modQueue_windows : (s.modQueue m n f).windows = s.windows := rfl
@[simp] theorem State.modQueue_nopath : (s.modQueue m n f).nopath = s.nopath := rfl
@[simp] theorem State.modQueue_drains : (s.modQueue m n f).drains = s.drains := rfl
@[simp] theorem State.modQueue_owed : (s.modQueue m n f).owed = s.owed := rfl
@[simp] theorem State.modQueue_rests : (s.modQueue m n f).rests = s.rests := rfl
@[simp] theorem State.modQueue_cyc : (s.modQueue m n f).cyc = s.cyc := rfl
@[simp] theorem State.modQueue_ltick : (s.modQueue m n f).ltick = s.ltick := rfl
@[simp] theorem State.modQueue_hostReply : (s.modQueue m n f).hostReply = s.hostReply := rfl
@[simp] theorem State.modQueue_hostFault : (s.modQueue m n f).hostFault = s.hostFault := rfl
@[simp] theorem State.modQueue_cur : (s.modQueue m n f).cur = s.cur := rfl
@[simp] theorem State.modQueue_ev : (s.modQueue m n f).ev = s.ev := rfl
@[simp] theorem State.modQueue_agenda : (s.modQueue m n f).agenda = s.agenda := rfl
@[simp] theorem State.modQueue_freeCount : (s.modQueue m n f).freeCount = s.freeCount := rfl
@[simp] theorem State.modQueue_nextId : (s.modQueue m n f).nextId = s.nextId := rfl
end modQueue

section modAct
variable (s : State) (m n a : Nat) (f : Activation → Activation)
@[simp] theorem State.modAct_modules : (s.modAct m n a f).modules = s.modules := rfl
@[simp] theorem State.modAct_cores : (s.modAct m n a f).cores = s.cores := rfl
@[simp] theorem State.modAct_groups : (s.modAct m n a f).groups = s.groups := rfl
@[simp] theorem State.modAct_teams : (s.modAct m n a f).teams = s.teams := rfl
@[simp] theorem State.modAct_queues : (s.modAct m n a f).queues = s.queues := rfl
@[simp] theorem State.modAct_mem : (s.modAct m n a f).mem = s.mem := rfl
@[simp] theorem State.modAct_lmem : (s.modAct m n a f).lmem = s.lmem := rfl
@[simp] theorem State.modAct_lines : (s.modAct m n a f).lines = s.lines := rfl
@[simp] theorem State.modAct_poison : (s.modAct m n a f).poison = s.poison := rfl
@[simp] theorem State.modAct_lpoison : (s.modAct m n a f).lpoison = s.lpoison := rfl
@[simp] theorem State.modAct_sync : (s.modAct m n a f).sync = s.sync := rfl
@[simp] theorem State.modAct_parents : (s.modAct m n a f).parents = s.parents := rfl
@[simp] theorem State.modAct_l1 : (s.modAct m n a f).l1 = s.l1 := rfl
@[simp] theorem State.modAct_dir : (s.modAct m n a f).dir = s.dir := rfl
@[simp] theorem State.modAct_tags : (s.modAct m n a f).tags = s.tags := rfl
@[simp] theorem State.modAct_datas : (s.modAct m n a f).datas = s.datas := rfl
@[simp] theorem State.modAct_reqs : (s.modAct m n a f).reqs = s.reqs := rfl
@[simp] theorem State.modAct_msgs : (s.modAct m n a f).msgs = s.msgs := rfl
@[simp] theorem State.modAct_log : (s.modAct m n a f).log = s.log := rfl
@[simp] theorem State.modAct_pairs : (s.modAct m n a f).pairs = s.pairs := rfl
@[simp] theorem State.modAct_copies : (s.modAct m n a f).copies = s.copies := rfl
@[simp] theorem State.modAct_engines : (s.modAct m n a f).engines = s.engines := rfl
@[simp] theorem State.modAct_graphs : (s.modAct m n a f).graphs = s.graphs := rfl
@[simp] theorem State.modAct_runs : (s.modAct m n a f).runs = s.runs := rfl
@[simp] theorem State.modAct_streams : (s.modAct m n a f).streams = s.streams := rfl
@[simp] theorem State.modAct_windows : (s.modAct m n a f).windows = s.windows := rfl
@[simp] theorem State.modAct_nopath : (s.modAct m n a f).nopath = s.nopath := rfl
@[simp] theorem State.modAct_drains : (s.modAct m n a f).drains = s.drains := rfl
@[simp] theorem State.modAct_owed : (s.modAct m n a f).owed = s.owed := rfl
@[simp] theorem State.modAct_rests : (s.modAct m n a f).rests = s.rests := rfl
@[simp] theorem State.modAct_cyc : (s.modAct m n a f).cyc = s.cyc := rfl
@[simp] theorem State.modAct_ltick : (s.modAct m n a f).ltick = s.ltick := rfl
@[simp] theorem State.modAct_hostReply : (s.modAct m n a f).hostReply = s.hostReply := rfl
@[simp] theorem State.modAct_hostFault : (s.modAct m n a f).hostFault = s.hostFault := rfl
@[simp] theorem State.modAct_cur : (s.modAct m n a f).cur = s.cur := rfl
@[simp] theorem State.modAct_ev : (s.modAct m n a f).ev = s.ev := rfl
@[simp] theorem State.modAct_agenda : (s.modAct m n a f).agenda = s.agenda := rfl
@[simp] theorem State.modAct_freeCount : (s.modAct m n a f).freeCount = s.freeCount := rfl
@[simp] theorem State.modAct_nextId : (s.modAct m n a f).nextId = s.nextId := rfl
end modAct

section modEngine
variable (s : State) (c : Nat) (f : Engine → Engine)
@[simp] theorem State.modEngine_modules : (s.modEngine c f).modules = s.modules := rfl
@[simp] theorem State.modEngine_cores : (s.modEngine c f).cores = s.cores := rfl
@[simp] theorem State.modEngine_groups : (s.modEngine c f).groups = s.groups := rfl
@[simp] theorem State.modEngine_teams : (s.modEngine c f).teams = s.teams := rfl
@[simp] theorem State.modEngine_acts : (s.modEngine c f).acts = s.acts := rfl
@[simp] theorem State.modEngine_queues : (s.modEngine c f).queues = s.queues := rfl
@[simp] theorem State.modEngine_mem : (s.modEngine c f).mem = s.mem := rfl
@[simp] theorem State.modEngine_lmem : (s.modEngine c f).lmem = s.lmem := rfl
@[simp] theorem State.modEngine_lines : (s.modEngine c f).lines = s.lines := rfl
@[simp] theorem State.modEngine_poison : (s.modEngine c f).poison = s.poison := rfl
@[simp] theorem State.modEngine_lpoison : (s.modEngine c f).lpoison = s.lpoison := rfl
@[simp] theorem State.modEngine_sync : (s.modEngine c f).sync = s.sync := rfl
@[simp] theorem State.modEngine_parents : (s.modEngine c f).parents = s.parents := rfl
@[simp] theorem State.modEngine_l1 : (s.modEngine c f).l1 = s.l1 := rfl
@[simp] theorem State.modEngine_dir : (s.modEngine c f).dir = s.dir := rfl
@[simp] theorem State.modEngine_tags : (s.modEngine c f).tags = s.tags := rfl
@[simp] theorem State.modEngine_datas : (s.modEngine c f).datas = s.datas := rfl
@[simp] theorem State.modEngine_reqs : (s.modEngine c f).reqs = s.reqs := rfl
@[simp] theorem State.modEngine_msgs : (s.modEngine c f).msgs = s.msgs := rfl
@[simp] theorem State.modEngine_log : (s.modEngine c f).log = s.log := rfl
@[simp] theorem State.modEngine_pairs : (s.modEngine c f).pairs = s.pairs := rfl
@[simp] theorem State.modEngine_copies : (s.modEngine c f).copies = s.copies := rfl
@[simp] theorem State.modEngine_graphs : (s.modEngine c f).graphs = s.graphs := rfl
@[simp] theorem State.modEngine_runs : (s.modEngine c f).runs = s.runs := rfl
@[simp] theorem State.modEngine_streams : (s.modEngine c f).streams = s.streams := rfl
@[simp] theorem State.modEngine_windows : (s.modEngine c f).windows = s.windows := rfl
@[simp] theorem State.modEngine_nopath : (s.modEngine c f).nopath = s.nopath := rfl
@[simp] theorem State.modEngine_drains : (s.modEngine c f).drains = s.drains := rfl
@[simp] theorem State.modEngine_owed : (s.modEngine c f).owed = s.owed := rfl
@[simp] theorem State.modEngine_rests : (s.modEngine c f).rests = s.rests := rfl
@[simp] theorem State.modEngine_cyc : (s.modEngine c f).cyc = s.cyc := rfl
@[simp] theorem State.modEngine_ltick : (s.modEngine c f).ltick = s.ltick := rfl
@[simp] theorem State.modEngine_hostReply : (s.modEngine c f).hostReply = s.hostReply := rfl
@[simp] theorem State.modEngine_hostFault : (s.modEngine c f).hostFault = s.hostFault := rfl
@[simp] theorem State.modEngine_cur : (s.modEngine c f).cur = s.cur := rfl
@[simp] theorem State.modEngine_ev : (s.modEngine c f).ev = s.ev := rfl
@[simp] theorem State.modEngine_agenda : (s.modEngine c f).agenda = s.agenda := rfl
@[simp] theorem State.modEngine_freeCount : (s.modEngine c f).freeCount = s.freeCount := rfl
@[simp] theorem State.modEngine_nextId : (s.modEngine c f).nextId = s.nextId := rfl
end modEngine

section setDir
variable (s : State) (d : DirEntry)
@[simp] theorem State.setDir_modules : (s.setDir d).modules = s.modules := rfl
@[simp] theorem State.setDir_cores : (s.setDir d).cores = s.cores := rfl
@[simp] theorem State.setDir_groups : (s.setDir d).groups = s.groups := rfl
@[simp] theorem State.setDir_teams : (s.setDir d).teams = s.teams := rfl
@[simp] theorem State.setDir_acts : (s.setDir d).acts = s.acts := rfl
@[simp] theorem State.setDir_queues : (s.setDir d).queues = s.queues := rfl
@[simp] theorem State.setDir_mem : (s.setDir d).mem = s.mem := rfl
@[simp] theorem State.setDir_lmem : (s.setDir d).lmem = s.lmem := rfl
@[simp] theorem State.setDir_lines : (s.setDir d).lines = s.lines := rfl
@[simp] theorem State.setDir_poison : (s.setDir d).poison = s.poison := rfl
@[simp] theorem State.setDir_lpoison : (s.setDir d).lpoison = s.lpoison := rfl
@[simp] theorem State.setDir_sync : (s.setDir d).sync = s.sync := rfl
@[simp] theorem State.setDir_parents : (s.setDir d).parents = s.parents := rfl
@[simp] theorem State.setDir_l1 : (s.setDir d).l1 = s.l1 := rfl
@[simp] theorem State.setDir_tags : (s.setDir d).tags = s.tags := rfl
@[simp] theorem State.setDir_datas : (s.setDir d).datas = s.datas := rfl
@[simp] theorem State.setDir_reqs : (s.setDir d).reqs = s.reqs := rfl
@[simp] theorem State.setDir_msgs : (s.setDir d).msgs = s.msgs := rfl
@[simp] theorem State.setDir_log : (s.setDir d).log = s.log := rfl
@[simp] theorem State.setDir_pairs : (s.setDir d).pairs = s.pairs := rfl
@[simp] theorem State.setDir_copies : (s.setDir d).copies = s.copies := rfl
@[simp] theorem State.setDir_engines : (s.setDir d).engines = s.engines := rfl
@[simp] theorem State.setDir_graphs : (s.setDir d).graphs = s.graphs := rfl
@[simp] theorem State.setDir_runs : (s.setDir d).runs = s.runs := rfl
@[simp] theorem State.setDir_streams : (s.setDir d).streams = s.streams := rfl
@[simp] theorem State.setDir_windows : (s.setDir d).windows = s.windows := rfl
@[simp] theorem State.setDir_nopath : (s.setDir d).nopath = s.nopath := rfl
@[simp] theorem State.setDir_drains : (s.setDir d).drains = s.drains := rfl
@[simp] theorem State.setDir_owed : (s.setDir d).owed = s.owed := rfl
@[simp] theorem State.setDir_rests : (s.setDir d).rests = s.rests := rfl
@[simp] theorem State.setDir_cyc : (s.setDir d).cyc = s.cyc := rfl
@[simp] theorem State.setDir_ltick : (s.setDir d).ltick = s.ltick := rfl
@[simp] theorem State.setDir_hostReply : (s.setDir d).hostReply = s.hostReply := rfl
@[simp] theorem State.setDir_hostFault : (s.setDir d).hostFault = s.hostFault := rfl
@[simp] theorem State.setDir_cur : (s.setDir d).cur = s.cur := rfl
@[simp] theorem State.setDir_ev : (s.setDir d).ev = s.ev := rfl
@[simp] theorem State.setDir_agenda : (s.setDir d).agenda = s.agenda := rfl
@[simp] theorem State.setDir_freeCount : (s.setDir d).freeCount = s.freeCount := rfl
@[simp] theorem State.setDir_nextId : (s.setDir d).nextId = s.nextId := rfl
end setDir

section dropL1
variable (s : State) (c l : Nat)
@[simp] theorem State.dropL1_modules : (s.dropL1 c l).modules = s.modules := rfl
@[simp] theorem State.dropL1_cores : (s.dropL1 c l).cores = s.cores := rfl
@[simp] theorem State.dropL1_groups : (s.dropL1 c l).groups = s.groups := rfl
@[simp] theorem State.dropL1_teams : (s.dropL1 c l).teams = s.teams := rfl
@[simp] theorem State.dropL1_acts : (s.dropL1 c l).acts = s.acts := rfl
@[simp] theorem State.dropL1_queues : (s.dropL1 c l).queues = s.queues := rfl
@[simp] theorem State.dropL1_mem : (s.dropL1 c l).mem = s.mem := rfl
@[simp] theorem State.dropL1_lmem : (s.dropL1 c l).lmem = s.lmem := rfl
@[simp] theorem State.dropL1_lines : (s.dropL1 c l).lines = s.lines := rfl
@[simp] theorem State.dropL1_poison : (s.dropL1 c l).poison = s.poison := rfl
@[simp] theorem State.dropL1_lpoison : (s.dropL1 c l).lpoison = s.lpoison := rfl
@[simp] theorem State.dropL1_sync : (s.dropL1 c l).sync = s.sync := rfl
@[simp] theorem State.dropL1_parents : (s.dropL1 c l).parents = s.parents := rfl
@[simp] theorem State.dropL1_dir : (s.dropL1 c l).dir = s.dir := rfl
@[simp] theorem State.dropL1_tags : (s.dropL1 c l).tags = s.tags := rfl
@[simp] theorem State.dropL1_datas : (s.dropL1 c l).datas = s.datas := rfl
@[simp] theorem State.dropL1_reqs : (s.dropL1 c l).reqs = s.reqs := rfl
@[simp] theorem State.dropL1_msgs : (s.dropL1 c l).msgs = s.msgs := rfl
@[simp] theorem State.dropL1_log : (s.dropL1 c l).log = s.log := rfl
@[simp] theorem State.dropL1_pairs : (s.dropL1 c l).pairs = s.pairs := rfl
@[simp] theorem State.dropL1_copies : (s.dropL1 c l).copies = s.copies := rfl
@[simp] theorem State.dropL1_engines : (s.dropL1 c l).engines = s.engines := rfl
@[simp] theorem State.dropL1_graphs : (s.dropL1 c l).graphs = s.graphs := rfl
@[simp] theorem State.dropL1_runs : (s.dropL1 c l).runs = s.runs := rfl
@[simp] theorem State.dropL1_streams : (s.dropL1 c l).streams = s.streams := rfl
@[simp] theorem State.dropL1_windows : (s.dropL1 c l).windows = s.windows := rfl
@[simp] theorem State.dropL1_nopath : (s.dropL1 c l).nopath = s.nopath := rfl
@[simp] theorem State.dropL1_drains : (s.dropL1 c l).drains = s.drains := rfl
@[simp] theorem State.dropL1_owed : (s.dropL1 c l).owed = s.owed := rfl
@[simp] theorem State.dropL1_rests : (s.dropL1 c l).rests = s.rests := rfl
@[simp] theorem State.dropL1_cyc : (s.dropL1 c l).cyc = s.cyc := rfl
@[simp] theorem State.dropL1_ltick : (s.dropL1 c l).ltick = s.ltick := rfl
@[simp] theorem State.dropL1_hostReply : (s.dropL1 c l).hostReply = s.hostReply := rfl
@[simp] theorem State.dropL1_hostFault : (s.dropL1 c l).hostFault = s.hostFault := rfl
@[simp] theorem State.dropL1_cur : (s.dropL1 c l).cur = s.cur := rfl
@[simp] theorem State.dropL1_ev : (s.dropL1 c l).ev = s.ev := rfl
@[simp] theorem State.dropL1_agenda : (s.dropL1 c l).agenda = s.agenda := rfl
@[simp] theorem State.dropL1_freeCount : (s.dropL1 c l).freeCount = s.freeCount := rfl
@[simp] theorem State.dropL1_nextId : (s.dropL1 c l).nextId = s.nextId := rfl
end dropL1

section putL1
variable (s : State) (c : L1Line)
@[simp] theorem State.putL1_modules : (s.putL1 c).modules = s.modules := rfl
@[simp] theorem State.putL1_cores : (s.putL1 c).cores = s.cores := rfl
@[simp] theorem State.putL1_groups : (s.putL1 c).groups = s.groups := rfl
@[simp] theorem State.putL1_teams : (s.putL1 c).teams = s.teams := rfl
@[simp] theorem State.putL1_acts : (s.putL1 c).acts = s.acts := rfl
@[simp] theorem State.putL1_queues : (s.putL1 c).queues = s.queues := rfl
@[simp] theorem State.putL1_mem : (s.putL1 c).mem = s.mem := rfl
@[simp] theorem State.putL1_lmem : (s.putL1 c).lmem = s.lmem := rfl
@[simp] theorem State.putL1_lines : (s.putL1 c).lines = s.lines := rfl
@[simp] theorem State.putL1_poison : (s.putL1 c).poison = s.poison := rfl
@[simp] theorem State.putL1_lpoison : (s.putL1 c).lpoison = s.lpoison := rfl
@[simp] theorem State.putL1_sync : (s.putL1 c).sync = s.sync := rfl
@[simp] theorem State.putL1_parents : (s.putL1 c).parents = s.parents := rfl
@[simp] theorem State.putL1_dir : (s.putL1 c).dir = s.dir := rfl
@[simp] theorem State.putL1_tags : (s.putL1 c).tags = s.tags := rfl
@[simp] theorem State.putL1_datas : (s.putL1 c).datas = s.datas := rfl
@[simp] theorem State.putL1_reqs : (s.putL1 c).reqs = s.reqs := rfl
@[simp] theorem State.putL1_msgs : (s.putL1 c).msgs = s.msgs := rfl
@[simp] theorem State.putL1_log : (s.putL1 c).log = s.log := rfl
@[simp] theorem State.putL1_pairs : (s.putL1 c).pairs = s.pairs := rfl
@[simp] theorem State.putL1_copies : (s.putL1 c).copies = s.copies := rfl
@[simp] theorem State.putL1_engines : (s.putL1 c).engines = s.engines := rfl
@[simp] theorem State.putL1_graphs : (s.putL1 c).graphs = s.graphs := rfl
@[simp] theorem State.putL1_runs : (s.putL1 c).runs = s.runs := rfl
@[simp] theorem State.putL1_streams : (s.putL1 c).streams = s.streams := rfl
@[simp] theorem State.putL1_windows : (s.putL1 c).windows = s.windows := rfl
@[simp] theorem State.putL1_nopath : (s.putL1 c).nopath = s.nopath := rfl
@[simp] theorem State.putL1_drains : (s.putL1 c).drains = s.drains := rfl
@[simp] theorem State.putL1_owed : (s.putL1 c).owed = s.owed := rfl
@[simp] theorem State.putL1_rests : (s.putL1 c).rests = s.rests := rfl
@[simp] theorem State.putL1_cyc : (s.putL1 c).cyc = s.cyc := rfl
@[simp] theorem State.putL1_ltick : (s.putL1 c).ltick = s.ltick := rfl
@[simp] theorem State.putL1_hostReply : (s.putL1 c).hostReply = s.hostReply := rfl
@[simp] theorem State.putL1_hostFault : (s.putL1 c).hostFault = s.hostFault := rfl
@[simp] theorem State.putL1_cur : (s.putL1 c).cur = s.cur := rfl
@[simp] theorem State.putL1_ev : (s.putL1 c).ev = s.ev := rfl
@[simp] theorem State.putL1_agenda : (s.putL1 c).agenda = s.agenda := rfl
@[simp] theorem State.putL1_freeCount : (s.putL1 c).freeCount = s.freeCount := rfl
@[simp] theorem State.putL1_nextId : (s.putL1 c).nextId = s.nextId := rfl
end putL1

section setLine
variable (s : State) (k : Nat) (v : LineState)
@[simp] theorem State.setLine_modules : (s.setLine k v).modules = s.modules := rfl
@[simp] theorem State.setLine_cores : (s.setLine k v).cores = s.cores := rfl
@[simp] theorem State.setLine_groups : (s.setLine k v).groups = s.groups := rfl
@[simp] theorem State.setLine_teams : (s.setLine k v).teams = s.teams := rfl
@[simp] theorem State.setLine_acts : (s.setLine k v).acts = s.acts := rfl
@[simp] theorem State.setLine_queues : (s.setLine k v).queues = s.queues := rfl
@[simp] theorem State.setLine_mem : (s.setLine k v).mem = s.mem := rfl
@[simp] theorem State.setLine_lmem : (s.setLine k v).lmem = s.lmem := rfl
@[simp] theorem State.setLine_poison : (s.setLine k v).poison = s.poison := rfl
@[simp] theorem State.setLine_lpoison : (s.setLine k v).lpoison = s.lpoison := rfl
@[simp] theorem State.setLine_sync : (s.setLine k v).sync = s.sync := rfl
@[simp] theorem State.setLine_parents : (s.setLine k v).parents = s.parents := rfl
@[simp] theorem State.setLine_l1 : (s.setLine k v).l1 = s.l1 := rfl
@[simp] theorem State.setLine_dir : (s.setLine k v).dir = s.dir := rfl
@[simp] theorem State.setLine_tags : (s.setLine k v).tags = s.tags := rfl
@[simp] theorem State.setLine_datas : (s.setLine k v).datas = s.datas := rfl
@[simp] theorem State.setLine_reqs : (s.setLine k v).reqs = s.reqs := rfl
@[simp] theorem State.setLine_msgs : (s.setLine k v).msgs = s.msgs := rfl
@[simp] theorem State.setLine_log : (s.setLine k v).log = s.log := rfl
@[simp] theorem State.setLine_pairs : (s.setLine k v).pairs = s.pairs := rfl
@[simp] theorem State.setLine_copies : (s.setLine k v).copies = s.copies := rfl
@[simp] theorem State.setLine_engines : (s.setLine k v).engines = s.engines := rfl
@[simp] theorem State.setLine_graphs : (s.setLine k v).graphs = s.graphs := rfl
@[simp] theorem State.setLine_runs : (s.setLine k v).runs = s.runs := rfl
@[simp] theorem State.setLine_streams : (s.setLine k v).streams = s.streams := rfl
@[simp] theorem State.setLine_windows : (s.setLine k v).windows = s.windows := rfl
@[simp] theorem State.setLine_nopath : (s.setLine k v).nopath = s.nopath := rfl
@[simp] theorem State.setLine_drains : (s.setLine k v).drains = s.drains := rfl
@[simp] theorem State.setLine_owed : (s.setLine k v).owed = s.owed := rfl
@[simp] theorem State.setLine_rests : (s.setLine k v).rests = s.rests := rfl
@[simp] theorem State.setLine_cyc : (s.setLine k v).cyc = s.cyc := rfl
@[simp] theorem State.setLine_ltick : (s.setLine k v).ltick = s.ltick := rfl
@[simp] theorem State.setLine_hostReply : (s.setLine k v).hostReply = s.hostReply := rfl
@[simp] theorem State.setLine_hostFault : (s.setLine k v).hostFault = s.hostFault := rfl
@[simp] theorem State.setLine_cur : (s.setLine k v).cur = s.cur := rfl
@[simp] theorem State.setLine_ev : (s.setLine k v).ev = s.ev := rfl
@[simp] theorem State.setLine_agenda : (s.setLine k v).agenda = s.agenda := rfl
@[simp] theorem State.setLine_freeCount : (s.setLine k v).freeCount = s.freeCount := rfl
@[simp] theorem State.setLine_nextId : (s.setLine k v).nextId = s.nextId := rfl
end setLine

section emptyLine
variable (s : State) (k : Nat)
@[simp] theorem State.emptyLine_modules : (s.emptyLine k).modules = s.modules := rfl
@[simp] theorem State.emptyLine_cores : (s.emptyLine k).cores = s.cores := rfl
@[simp] theorem State.emptyLine_groups : (s.emptyLine k).groups = s.groups := rfl
@[simp] theorem State.emptyLine_teams : (s.emptyLine k).teams = s.teams := rfl
@[simp] theorem State.emptyLine_acts : (s.emptyLine k).acts = s.acts := rfl
@[simp] theorem State.emptyLine_queues : (s.emptyLine k).queues = s.queues := rfl
@[simp] theorem State.emptyLine_mem : (s.emptyLine k).mem = s.mem := rfl
@[simp] theorem State.emptyLine_lmem : (s.emptyLine k).lmem = s.lmem := rfl
@[simp] theorem State.emptyLine_poison : (s.emptyLine k).poison = s.poison := rfl
@[simp] theorem State.emptyLine_lpoison : (s.emptyLine k).lpoison = s.lpoison := rfl
@[simp] theorem State.emptyLine_sync : (s.emptyLine k).sync = s.sync := rfl
@[simp] theorem State.emptyLine_parents : (s.emptyLine k).parents = s.parents := rfl
@[simp] theorem State.emptyLine_l1 : (s.emptyLine k).l1 = s.l1 := rfl
@[simp] theorem State.emptyLine_dir : (s.emptyLine k).dir = s.dir := rfl
@[simp] theorem State.emptyLine_tags : (s.emptyLine k).tags = s.tags := rfl
@[simp] theorem State.emptyLine_datas : (s.emptyLine k).datas = s.datas := rfl
@[simp] theorem State.emptyLine_reqs : (s.emptyLine k).reqs = s.reqs := rfl
@[simp] theorem State.emptyLine_msgs : (s.emptyLine k).msgs = s.msgs := rfl
@[simp] theorem State.emptyLine_log : (s.emptyLine k).log = s.log := rfl
@[simp] theorem State.emptyLine_pairs : (s.emptyLine k).pairs = s.pairs := rfl
@[simp] theorem State.emptyLine_copies : (s.emptyLine k).copies = s.copies := rfl
@[simp] theorem State.emptyLine_engines : (s.emptyLine k).engines = s.engines := rfl
@[simp] theorem State.emptyLine_graphs : (s.emptyLine k).graphs = s.graphs := rfl
@[simp] theorem State.emptyLine_runs : (s.emptyLine k).runs = s.runs := rfl
@[simp] theorem State.emptyLine_streams : (s.emptyLine k).streams = s.streams := rfl
@[simp] theorem State.emptyLine_windows : (s.emptyLine k).windows = s.windows := rfl
@[simp] theorem State.emptyLine_nopath : (s.emptyLine k).nopath = s.nopath := rfl
@[simp] theorem State.emptyLine_drains : (s.emptyLine k).drains = s.drains := rfl
@[simp] theorem State.emptyLine_owed : (s.emptyLine k).owed = s.owed := rfl
@[simp] theorem State.emptyLine_rests : (s.emptyLine k).rests = s.rests := rfl
@[simp] theorem State.emptyLine_cyc : (s.emptyLine k).cyc = s.cyc := rfl
@[simp] theorem State.emptyLine_ltick : (s.emptyLine k).ltick = s.ltick := rfl
@[simp] theorem State.emptyLine_hostReply : (s.emptyLine k).hostReply = s.hostReply := rfl
@[simp] theorem State.emptyLine_hostFault : (s.emptyLine k).hostFault = s.hostFault := rfl
@[simp] theorem State.emptyLine_cur : (s.emptyLine k).cur = s.cur := rfl
@[simp] theorem State.emptyLine_ev : (s.emptyLine k).ev = s.ev := rfl
@[simp] theorem State.emptyLine_agenda : (s.emptyLine k).agenda = s.agenda := rfl
@[simp] theorem State.emptyLine_freeCount : (s.emptyLine k).freeCount = s.freeCount := rfl
@[simp] theorem State.emptyLine_nextId : (s.emptyLine k).nextId = s.nextId := rfl
end emptyLine

/-! ## A group -/

section putLane
variable (g : Group) (r : Nat) (k : Mask) (v : Nat → Word)
@[simp] theorem Group.putLane_core : (g.putLane r k v).core = g.core := rfl
@[simp] theorem Group.putLane_slot : (g.putLane r k v).slot = g.slot := rfl
@[simp] theorem Group.putLane_team : (g.putLane r k v).team = g.team := rfl
@[simp] theorem Group.putLane_num : (g.putLane r k v).num = g.num := rfl
@[simp] theorem Group.putLane_width : (g.putLane r k v).width = g.width := rfl
@[simp] theorem Group.putLane_trap : (g.putLane r k v).trap = g.trap := rfl
@[simp] theorem Group.putLane_twi : (g.putLane r k v).twi = g.twi := rfl
@[simp] theorem Group.putLane_age : (g.putLane r k v).age = g.age := rfl
@[simp] theorem Group.putLane_waited : (g.putLane r k v).waited = g.waited := rfl
@[simp] theorem Group.putLane_issuedAt : (g.putLane r k v).issuedAt = g.issuedAt := rfl
@[simp] theorem Group.putLane_lastSlot : (g.putLane r k v).lastSlot = g.lastSlot := rfl
@[simp] theorem Group.putLane_placedAt : (g.putLane r k v).placedAt = g.placedAt := rfl
@[simp] theorem Group.putLane_triggered : (g.putLane r k v).triggered = g.triggered := rfl
@[simp] theorem Group.putLane_exitedOnce : (g.putLane r k v).exitedOnce = g.exitedOnce := rfl
@[simp] theorem Group.putLane_faulted : (g.putLane r k v).faulted = g.faulted := rfl
@[simp] theorem Group.putLane_preempt : (g.putLane r k v).preempt = g.preempt := rfl
@[simp] theorem Group.putLane_heldPages : (g.putLane r k v).heldPages = g.heldPages := rfl
@[simp] theorem Group.putLane_failedPages : (g.putLane r k v).failedPages = g.failedPages := rfl
@[simp] theorem Group.putLane_retried : (g.putLane r k v).retried = g.retried := rfl
@[simp] theorem Group.putLane_faultSplit : (g.putLane r k v).faultSplit = g.faultSplit := rfl
@[simp] theorem Group.putLane_pending : (g.putLane r k v).pending = g.pending := rfl
@[simp] theorem Group.putLane_bseq : (g.putLane r k v).bseq = g.bseq := rfl
@[simp] theorem Group.putLane_batches : (g.putLane r k v).batches = g.batches := rfl
@[simp] theorem Group.putLane_mseq : (g.putLane r k v).mseq = g.mseq := rfl
@[simp] theorem Group.putLane_mposts : (g.putLane r k v).mposts = g.mposts := rfl
@[simp] theorem Group.putLane_mentry : (g.putLane r k v).mentry = g.mentry := rfl
@[simp] theorem Group.putLane_savedRes : (g.putLane r k v).savedRes = g.savedRes := rfl
@[simp] theorem Group.putLane_unready : (g.putLane r k v).unready = g.unready := rfl
@[simp] theorem Group.putLane_cseq : (g.putLane r k v).cseq = g.cseq := rfl
@[simp] theorem Group.putLane_cruns : (g.putLane r k v).cruns = g.cruns := rfl
@[simp] theorem Group.putLane_badBlocks : (g.putLane r k v).badBlocks = g.badBlocks := rfl
@[simp] theorem Group.putLane_badArea : (g.putLane r k v).badArea = g.badArea := rfl
@[simp] theorem Group.putLane_badSave : (g.putLane r k v).badSave = g.badSave := rfl
@[simp] theorem Group.putLane_badResume : (g.putLane r k v).badResume = g.badResume := rfl
@[simp] theorem Group.putLane_faultFetch : (g.putLane r k v).faultFetch = g.faultFetch := rfl
@[simp] theorem Group.putLane_idle : (g.putLane r k v).idle = g.idle := rfl
@[simp] theorem Group.putLane_parkMask : (g.putLane r k v).parkMask = g.parkMask := rfl
@[simp] theorem Group.putLane_trigScope : (g.putLane r k v).trigScope = g.trigScope := rfl
@[simp] theorem Group.putLane_trigParts : (g.putLane r k v).trigParts = g.trigParts := rfl
@[simp] theorem Group.putLane_arch_sregs : (g.putLane r k v).arch.sregs = g.arch.sregs := rfl
@[simp] theorem Group.putLane_arch_aregs : (g.putLane r k v).arch.aregs = g.arch.aregs := rfl
@[simp] theorem Group.putLane_arch_window : (g.putLane r k v).arch.window = g.arch.window := rfl
@[simp] theorem Group.putLane_arch_gang : (g.putLane r k v).arch.gang = g.arch.gang := rfl
@[simp] theorem Group.putLane_arch_fpcr : (g.putLane r k v).arch.fpcr = g.arch.fpcr := rfl
@[simp] theorem Group.putLane_arch_srseed : (g.putLane r k v).arch.srseed = g.arch.srseed := rfl
@[simp] theorem Group.putLane_arch_msc : (g.putLane r k v).arch.msc = g.arch.msc := rfl
@[simp] theorem Group.putLane_arch_splits : (g.putLane r k v).arch.splits = g.arch.splits := rfl
@[simp] theorem Group.putLane_arch_parked : (g.putLane r k v).arch.parked = g.arch.parked := rfl
@[simp] theorem Group.putLane_arch_helpers : (g.putLane r k v).arch.helpers = g.arch.helpers := rfl
@[simp] theorem Group.putLane_arch_retired : (g.putLane r k v).arch.retired = g.arch.retired := rfl
end putLane

section putScalar
variable (g : Group) (r : Nat) (v : DWord)
@[simp] theorem Group.putScalar_core : (g.putScalar r v).core = g.core := rfl
@[simp] theorem Group.putScalar_slot : (g.putScalar r v).slot = g.slot := rfl
@[simp] theorem Group.putScalar_team : (g.putScalar r v).team = g.team := rfl
@[simp] theorem Group.putScalar_num : (g.putScalar r v).num = g.num := rfl
@[simp] theorem Group.putScalar_width : (g.putScalar r v).width = g.width := rfl
@[simp] theorem Group.putScalar_trap : (g.putScalar r v).trap = g.trap := rfl
@[simp] theorem Group.putScalar_twi : (g.putScalar r v).twi = g.twi := rfl
@[simp] theorem Group.putScalar_age : (g.putScalar r v).age = g.age := rfl
@[simp] theorem Group.putScalar_waited : (g.putScalar r v).waited = g.waited := rfl
@[simp] theorem Group.putScalar_issuedAt : (g.putScalar r v).issuedAt = g.issuedAt := rfl
@[simp] theorem Group.putScalar_lastSlot : (g.putScalar r v).lastSlot = g.lastSlot := rfl
@[simp] theorem Group.putScalar_placedAt : (g.putScalar r v).placedAt = g.placedAt := rfl
@[simp] theorem Group.putScalar_triggered : (g.putScalar r v).triggered = g.triggered := rfl
@[simp] theorem Group.putScalar_exitedOnce : (g.putScalar r v).exitedOnce = g.exitedOnce := rfl
@[simp] theorem Group.putScalar_faulted : (g.putScalar r v).faulted = g.faulted := rfl
@[simp] theorem Group.putScalar_preempt : (g.putScalar r v).preempt = g.preempt := rfl
@[simp] theorem Group.putScalar_heldPages : (g.putScalar r v).heldPages = g.heldPages := rfl
@[simp] theorem Group.putScalar_failedPages : (g.putScalar r v).failedPages = g.failedPages := rfl
@[simp] theorem Group.putScalar_retried : (g.putScalar r v).retried = g.retried := rfl
@[simp] theorem Group.putScalar_faultSplit : (g.putScalar r v).faultSplit = g.faultSplit := rfl
@[simp] theorem Group.putScalar_pending : (g.putScalar r v).pending = g.pending := rfl
@[simp] theorem Group.putScalar_bseq : (g.putScalar r v).bseq = g.bseq := rfl
@[simp] theorem Group.putScalar_batches : (g.putScalar r v).batches = g.batches := rfl
@[simp] theorem Group.putScalar_mseq : (g.putScalar r v).mseq = g.mseq := rfl
@[simp] theorem Group.putScalar_mposts : (g.putScalar r v).mposts = g.mposts := rfl
@[simp] theorem Group.putScalar_mentry : (g.putScalar r v).mentry = g.mentry := rfl
@[simp] theorem Group.putScalar_savedRes : (g.putScalar r v).savedRes = g.savedRes := rfl
@[simp] theorem Group.putScalar_unready : (g.putScalar r v).unready = g.unready := rfl
@[simp] theorem Group.putScalar_cseq : (g.putScalar r v).cseq = g.cseq := rfl
@[simp] theorem Group.putScalar_cruns : (g.putScalar r v).cruns = g.cruns := rfl
@[simp] theorem Group.putScalar_badBlocks : (g.putScalar r v).badBlocks = g.badBlocks := rfl
@[simp] theorem Group.putScalar_badArea : (g.putScalar r v).badArea = g.badArea := rfl
@[simp] theorem Group.putScalar_badSave : (g.putScalar r v).badSave = g.badSave := rfl
@[simp] theorem Group.putScalar_badResume : (g.putScalar r v).badResume = g.badResume := rfl
@[simp] theorem Group.putScalar_faultFetch : (g.putScalar r v).faultFetch = g.faultFetch := rfl
@[simp] theorem Group.putScalar_idle : (g.putScalar r v).idle = g.idle := rfl
@[simp] theorem Group.putScalar_parkMask : (g.putScalar r v).parkMask = g.parkMask := rfl
@[simp] theorem Group.putScalar_trigScope : (g.putScalar r v).trigScope = g.trigScope := rfl
@[simp] theorem Group.putScalar_trigParts : (g.putScalar r v).trigParts = g.trigParts := rfl
@[simp] theorem Group.putScalar_arch_blocks : (g.putScalar r v).arch.blocks = g.arch.blocks := rfl
@[simp] theorem Group.putScalar_arch_aregs : (g.putScalar r v).arch.aregs = g.arch.aregs := rfl
@[simp] theorem Group.putScalar_arch_window : (g.putScalar r v).arch.window = g.arch.window := rfl
@[simp] theorem Group.putScalar_arch_gang : (g.putScalar r v).arch.gang = g.arch.gang := rfl
@[simp] theorem Group.putScalar_arch_fpcr : (g.putScalar r v).arch.fpcr = g.arch.fpcr := rfl
@[simp] theorem Group.putScalar_arch_srseed : (g.putScalar r v).arch.srseed = g.arch.srseed := rfl
@[simp] theorem Group.putScalar_arch_msc : (g.putScalar r v).arch.msc = g.arch.msc := rfl
@[simp] theorem Group.putScalar_arch_splits : (g.putScalar r v).arch.splits = g.arch.splits := rfl
@[simp] theorem Group.putScalar_arch_parked : (g.putScalar r v).arch.parked = g.arch.parked := rfl
@[simp] theorem Group.putScalar_arch_helpers : (g.putScalar r v).arch.helpers = g.arch.helpers := rfl
@[simp] theorem Group.putScalar_arch_retired : (g.putScalar r v).arch.retired = g.arch.retired := rfl
end putScalar

section putAddr
variable (g : Group) (i : Nat) (a : AReg)
@[simp] theorem Group.putAddr_core : (g.putAddr i a).core = g.core := rfl
@[simp] theorem Group.putAddr_slot : (g.putAddr i a).slot = g.slot := rfl
@[simp] theorem Group.putAddr_team : (g.putAddr i a).team = g.team := rfl
@[simp] theorem Group.putAddr_num : (g.putAddr i a).num = g.num := rfl
@[simp] theorem Group.putAddr_width : (g.putAddr i a).width = g.width := rfl
@[simp] theorem Group.putAddr_trap : (g.putAddr i a).trap = g.trap := rfl
@[simp] theorem Group.putAddr_txns : (g.putAddr i a).txns = g.txns := rfl
@[simp] theorem Group.putAddr_twi : (g.putAddr i a).twi = g.twi := rfl
@[simp] theorem Group.putAddr_age : (g.putAddr i a).age = g.age := rfl
@[simp] theorem Group.putAddr_waited : (g.putAddr i a).waited = g.waited := rfl
@[simp] theorem Group.putAddr_issuedAt : (g.putAddr i a).issuedAt = g.issuedAt := rfl
@[simp] theorem Group.putAddr_lastSlot : (g.putAddr i a).lastSlot = g.lastSlot := rfl
@[simp] theorem Group.putAddr_placedAt : (g.putAddr i a).placedAt = g.placedAt := rfl
@[simp] theorem Group.putAddr_triggered : (g.putAddr i a).triggered = g.triggered := rfl
@[simp] theorem Group.putAddr_exitedOnce : (g.putAddr i a).exitedOnce = g.exitedOnce := rfl
@[simp] theorem Group.putAddr_faulted : (g.putAddr i a).faulted = g.faulted := rfl
@[simp] theorem Group.putAddr_preempt : (g.putAddr i a).preempt = g.preempt := rfl
@[simp] theorem Group.putAddr_heldPages : (g.putAddr i a).heldPages = g.heldPages := rfl
@[simp] theorem Group.putAddr_failedPages : (g.putAddr i a).failedPages = g.failedPages := rfl
@[simp] theorem Group.putAddr_retried : (g.putAddr i a).retried = g.retried := rfl
@[simp] theorem Group.putAddr_faultSplit : (g.putAddr i a).faultSplit = g.faultSplit := rfl
@[simp] theorem Group.putAddr_pending : (g.putAddr i a).pending = g.pending := rfl
@[simp] theorem Group.putAddr_bseq : (g.putAddr i a).bseq = g.bseq := rfl
@[simp] theorem Group.putAddr_batches : (g.putAddr i a).batches = g.batches := rfl
@[simp] theorem Group.putAddr_mseq : (g.putAddr i a).mseq = g.mseq := rfl
@[simp] theorem Group.putAddr_mposts : (g.putAddr i a).mposts = g.mposts := rfl
@[simp] theorem Group.putAddr_mentry : (g.putAddr i a).mentry = g.mentry := rfl
@[simp] theorem Group.putAddr_savedRes : (g.putAddr i a).savedRes = g.savedRes := rfl
@[simp] theorem Group.putAddr_unready : (g.putAddr i a).unready = g.unready := rfl
@[simp] theorem Group.putAddr_cseq : (g.putAddr i a).cseq = g.cseq := rfl
@[simp] theorem Group.putAddr_cruns : (g.putAddr i a).cruns = g.cruns := rfl
@[simp] theorem Group.putAddr_badBlocks : (g.putAddr i a).badBlocks = g.badBlocks := rfl
@[simp] theorem Group.putAddr_badArea : (g.putAddr i a).badArea = g.badArea := rfl
@[simp] theorem Group.putAddr_badSave : (g.putAddr i a).badSave = g.badSave := rfl
@[simp] theorem Group.putAddr_badResume : (g.putAddr i a).badResume = g.badResume := rfl
@[simp] theorem Group.putAddr_faultFetch : (g.putAddr i a).faultFetch = g.faultFetch := rfl
@[simp] theorem Group.putAddr_idle : (g.putAddr i a).idle = g.idle := rfl
@[simp] theorem Group.putAddr_parkMask : (g.putAddr i a).parkMask = g.parkMask := rfl
@[simp] theorem Group.putAddr_trigScope : (g.putAddr i a).trigScope = g.trigScope := rfl
@[simp] theorem Group.putAddr_trigParts : (g.putAddr i a).trigParts = g.trigParts := rfl
@[simp] theorem Group.putAddr_arch_blocks : (g.putAddr i a).arch.blocks = g.arch.blocks := rfl
@[simp] theorem Group.putAddr_arch_sregs : (g.putAddr i a).arch.sregs = g.arch.sregs := rfl
@[simp] theorem Group.putAddr_arch_window : (g.putAddr i a).arch.window = g.arch.window := rfl
@[simp] theorem Group.putAddr_arch_gang : (g.putAddr i a).arch.gang = g.arch.gang := rfl
@[simp] theorem Group.putAddr_arch_fpcr : (g.putAddr i a).arch.fpcr = g.arch.fpcr := rfl
@[simp] theorem Group.putAddr_arch_srseed : (g.putAddr i a).arch.srseed = g.arch.srseed := rfl
@[simp] theorem Group.putAddr_arch_msc : (g.putAddr i a).arch.msc = g.arch.msc := rfl
@[simp] theorem Group.putAddr_arch_splits : (g.putAddr i a).arch.splits = g.arch.splits := rfl
@[simp] theorem Group.putAddr_arch_parked : (g.putAddr i a).arch.parked = g.arch.parked := rfl
@[simp] theorem Group.putAddr_arch_helpers : (g.putAddr i a).arch.helpers = g.arch.helpers := rfl
@[simp] theorem Group.putAddr_arch_retired : (g.putAddr i a).arch.retired = g.arch.retired := rfl
end putAddr

section orFlags
variable (g : Group) (f : Flags)
@[simp] theorem Group.orFlags_core : (g.orFlags f).core = g.core := rfl
@[simp] theorem Group.orFlags_slot : (g.orFlags f).slot = g.slot := rfl
@[simp] theorem Group.orFlags_team : (g.orFlags f).team = g.team := rfl
@[simp] theorem Group.orFlags_num : (g.orFlags f).num = g.num := rfl
@[simp] theorem Group.orFlags_width : (g.orFlags f).width = g.width := rfl
@[simp] theorem Group.orFlags_trap : (g.orFlags f).trap = g.trap := rfl
@[simp] theorem Group.orFlags_txns : (g.orFlags f).txns = g.txns := rfl
@[simp] theorem Group.orFlags_twi : (g.orFlags f).twi = g.twi := rfl
@[simp] theorem Group.orFlags_age : (g.orFlags f).age = g.age := rfl
@[simp] theorem Group.orFlags_waited : (g.orFlags f).waited = g.waited := rfl
@[simp] theorem Group.orFlags_issuedAt : (g.orFlags f).issuedAt = g.issuedAt := rfl
@[simp] theorem Group.orFlags_lastSlot : (g.orFlags f).lastSlot = g.lastSlot := rfl
@[simp] theorem Group.orFlags_placedAt : (g.orFlags f).placedAt = g.placedAt := rfl
@[simp] theorem Group.orFlags_triggered : (g.orFlags f).triggered = g.triggered := rfl
@[simp] theorem Group.orFlags_exitedOnce : (g.orFlags f).exitedOnce = g.exitedOnce := rfl
@[simp] theorem Group.orFlags_faulted : (g.orFlags f).faulted = g.faulted := rfl
@[simp] theorem Group.orFlags_preempt : (g.orFlags f).preempt = g.preempt := rfl
@[simp] theorem Group.orFlags_heldPages : (g.orFlags f).heldPages = g.heldPages := rfl
@[simp] theorem Group.orFlags_failedPages : (g.orFlags f).failedPages = g.failedPages := rfl
@[simp] theorem Group.orFlags_retried : (g.orFlags f).retried = g.retried := rfl
@[simp] theorem Group.orFlags_faultSplit : (g.orFlags f).faultSplit = g.faultSplit := rfl
@[simp] theorem Group.orFlags_pending : (g.orFlags f).pending = g.pending := rfl
@[simp] theorem Group.orFlags_bseq : (g.orFlags f).bseq = g.bseq := rfl
@[simp] theorem Group.orFlags_batches : (g.orFlags f).batches = g.batches := rfl
@[simp] theorem Group.orFlags_mseq : (g.orFlags f).mseq = g.mseq := rfl
@[simp] theorem Group.orFlags_mposts : (g.orFlags f).mposts = g.mposts := rfl
@[simp] theorem Group.orFlags_mentry : (g.orFlags f).mentry = g.mentry := rfl
@[simp] theorem Group.orFlags_savedRes : (g.orFlags f).savedRes = g.savedRes := rfl
@[simp] theorem Group.orFlags_unready : (g.orFlags f).unready = g.unready := rfl
@[simp] theorem Group.orFlags_cseq : (g.orFlags f).cseq = g.cseq := rfl
@[simp] theorem Group.orFlags_cruns : (g.orFlags f).cruns = g.cruns := rfl
@[simp] theorem Group.orFlags_badBlocks : (g.orFlags f).badBlocks = g.badBlocks := rfl
@[simp] theorem Group.orFlags_badArea : (g.orFlags f).badArea = g.badArea := rfl
@[simp] theorem Group.orFlags_badSave : (g.orFlags f).badSave = g.badSave := rfl
@[simp] theorem Group.orFlags_badResume : (g.orFlags f).badResume = g.badResume := rfl
@[simp] theorem Group.orFlags_faultFetch : (g.orFlags f).faultFetch = g.faultFetch := rfl
@[simp] theorem Group.orFlags_idle : (g.orFlags f).idle = g.idle := rfl
@[simp] theorem Group.orFlags_parkMask : (g.orFlags f).parkMask = g.parkMask := rfl
@[simp] theorem Group.orFlags_trigScope : (g.orFlags f).trigScope = g.trigScope := rfl
@[simp] theorem Group.orFlags_trigParts : (g.orFlags f).trigParts = g.trigParts := rfl
@[simp] theorem Group.orFlags_arch_blocks : (g.orFlags f).arch.blocks = g.arch.blocks := rfl
@[simp] theorem Group.orFlags_arch_sregs : (g.orFlags f).arch.sregs = g.arch.sregs := rfl
@[simp] theorem Group.orFlags_arch_aregs : (g.orFlags f).arch.aregs = g.arch.aregs := rfl
@[simp] theorem Group.orFlags_arch_window : (g.orFlags f).arch.window = g.arch.window := rfl
@[simp] theorem Group.orFlags_arch_gang : (g.orFlags f).arch.gang = g.arch.gang := rfl
@[simp] theorem Group.orFlags_arch_srseed : (g.orFlags f).arch.srseed = g.arch.srseed := rfl
@[simp] theorem Group.orFlags_arch_msc : (g.orFlags f).arch.msc = g.arch.msc := rfl
@[simp] theorem Group.orFlags_arch_splits : (g.orFlags f).arch.splits = g.arch.splits := rfl
@[simp] theorem Group.orFlags_arch_parked : (g.orFlags f).arch.parked = g.arch.parked := rfl
@[simp] theorem Group.orFlags_arch_helpers : (g.orFlags f).arch.helpers = g.arch.helpers := rfl
@[simp] theorem Group.orFlags_arch_retired : (g.orFlags f).arch.retired = g.arch.retired := rfl
end orFlags

section stall
variable (g : Group) (k : Nat)
@[simp] theorem Group.stall_core : (g.stall k).core = g.core := by unfold Group.stall; dsimp only; split <;> rfl
@[simp] theorem Group.stall_slot : (g.stall k).slot = g.slot := by unfold Group.stall; dsimp only; split <;> rfl
@[simp] theorem Group.stall_team : (g.stall k).team = g.team := by unfold Group.stall; dsimp only; split <;> rfl
@[simp] theorem Group.stall_num : (g.stall k).num = g.num := by unfold Group.stall; dsimp only; split <;> rfl
@[simp] theorem Group.stall_width : (g.stall k).width = g.width := by unfold Group.stall; dsimp only; split <;> rfl
@[simp] theorem Group.stall_trap : (g.stall k).trap = g.trap := by unfold Group.stall; dsimp only; split <;> rfl
@[simp] theorem Group.stall_txns : (g.stall k).txns = g.txns := by unfold Group.stall; dsimp only; split <;> rfl
@[simp] theorem Group.stall_twi : (g.stall k).twi = g.twi := by unfold Group.stall; dsimp only; split <;> rfl
@[simp] theorem Group.stall_age : (g.stall k).age = g.age := by unfold Group.stall; dsimp only; split <;> rfl
@[simp] theorem Group.stall_waited : (g.stall k).waited = g.waited := by unfold Group.stall; dsimp only; split <;> rfl
@[simp] theorem Group.stall_issuedAt : (g.stall k).issuedAt = g.issuedAt := by unfold Group.stall; dsimp only; split <;> rfl
@[simp] theorem Group.stall_lastSlot : (g.stall k).lastSlot = g.lastSlot := by unfold Group.stall; dsimp only; split <;> rfl
@[simp] theorem Group.stall_placedAt : (g.stall k).placedAt = g.placedAt := by unfold Group.stall; dsimp only; split <;> rfl
@[simp] theorem Group.stall_triggered : (g.stall k).triggered = g.triggered := by unfold Group.stall; dsimp only; split <;> rfl
@[simp] theorem Group.stall_exitedOnce : (g.stall k).exitedOnce = g.exitedOnce := by unfold Group.stall; dsimp only; split <;> rfl
@[simp] theorem Group.stall_faulted : (g.stall k).faulted = g.faulted := by unfold Group.stall; dsimp only; split <;> rfl
@[simp] theorem Group.stall_preempt : (g.stall k).preempt = g.preempt := by unfold Group.stall; dsimp only; split <;> rfl
@[simp] theorem Group.stall_heldPages : (g.stall k).heldPages = g.heldPages := by unfold Group.stall; dsimp only; split <;> rfl
@[simp] theorem Group.stall_failedPages : (g.stall k).failedPages = g.failedPages := by unfold Group.stall; dsimp only; split <;> rfl
@[simp] theorem Group.stall_retried : (g.stall k).retried = g.retried := by unfold Group.stall; dsimp only; split <;> rfl
@[simp] theorem Group.stall_faultSplit : (g.stall k).faultSplit = g.faultSplit := by unfold Group.stall; dsimp only; split <;> rfl
@[simp] theorem Group.stall_pending : (g.stall k).pending = g.pending := by unfold Group.stall; dsimp only; split <;> rfl
@[simp] theorem Group.stall_bseq : (g.stall k).bseq = g.bseq := by unfold Group.stall; dsimp only; split <;> rfl
@[simp] theorem Group.stall_batches : (g.stall k).batches = g.batches := by unfold Group.stall; dsimp only; split <;> rfl
@[simp] theorem Group.stall_mseq : (g.stall k).mseq = g.mseq := by unfold Group.stall; dsimp only; split <;> rfl
@[simp] theorem Group.stall_mposts : (g.stall k).mposts = g.mposts := by unfold Group.stall; dsimp only; split <;> rfl
@[simp] theorem Group.stall_mentry : (g.stall k).mentry = g.mentry := by unfold Group.stall; dsimp only; split <;> rfl
@[simp] theorem Group.stall_savedRes : (g.stall k).savedRes = g.savedRes := by unfold Group.stall; dsimp only; split <;> rfl
@[simp] theorem Group.stall_unready : (g.stall k).unready = g.unready := by unfold Group.stall; dsimp only; split <;> rfl
@[simp] theorem Group.stall_cseq : (g.stall k).cseq = g.cseq := by unfold Group.stall; dsimp only; split <;> rfl
@[simp] theorem Group.stall_cruns : (g.stall k).cruns = g.cruns := by unfold Group.stall; dsimp only; split <;> rfl
@[simp] theorem Group.stall_badBlocks : (g.stall k).badBlocks = g.badBlocks := by unfold Group.stall; dsimp only; split <;> rfl
@[simp] theorem Group.stall_badArea : (g.stall k).badArea = g.badArea := by unfold Group.stall; dsimp only; split <;> rfl
@[simp] theorem Group.stall_badSave : (g.stall k).badSave = g.badSave := by unfold Group.stall; dsimp only; split <;> rfl
@[simp] theorem Group.stall_badResume : (g.stall k).badResume = g.badResume := by unfold Group.stall; dsimp only; split <;> rfl
@[simp] theorem Group.stall_faultFetch : (g.stall k).faultFetch = g.faultFetch := by unfold Group.stall; dsimp only; split <;> rfl
@[simp] theorem Group.stall_idle : (g.stall k).idle = g.idle := by unfold Group.stall; dsimp only; split <;> rfl
@[simp] theorem Group.stall_parkMask : (g.stall k).parkMask = g.parkMask := by unfold Group.stall; dsimp only; split <;> rfl
@[simp] theorem Group.stall_trigScope : (g.stall k).trigScope = g.trigScope := by unfold Group.stall; dsimp only; split <;> rfl
@[simp] theorem Group.stall_trigParts : (g.stall k).trigParts = g.trigParts := by unfold Group.stall; dsimp only; split <;> rfl
@[simp] theorem Group.stall_arch_blocks : (g.stall k).arch.blocks = g.arch.blocks := by unfold Group.stall; dsimp only; split <;> rfl
@[simp] theorem Group.stall_arch_sregs : (g.stall k).arch.sregs = g.arch.sregs := by unfold Group.stall; dsimp only; split <;> rfl
@[simp] theorem Group.stall_arch_aregs : (g.stall k).arch.aregs = g.arch.aregs := by unfold Group.stall; dsimp only; split <;> rfl
@[simp] theorem Group.stall_arch_gang : (g.stall k).arch.gang = g.arch.gang := by unfold Group.stall; dsimp only; split <;> rfl
@[simp] theorem Group.stall_arch_fpcr : (g.stall k).arch.fpcr = g.arch.fpcr := by unfold Group.stall; dsimp only; split <;> rfl
@[simp] theorem Group.stall_arch_srseed : (g.stall k).arch.srseed = g.arch.srseed := by unfold Group.stall; dsimp only; split <;> rfl
@[simp] theorem Group.stall_arch_msc : (g.stall k).arch.msc = g.arch.msc := by unfold Group.stall; dsimp only; split <;> rfl
@[simp] theorem Group.stall_arch_parked : (g.stall k).arch.parked = g.arch.parked := by unfold Group.stall; dsimp only; split <;> rfl
@[simp] theorem Group.stall_arch_helpers : (g.stall k).arch.helpers = g.arch.helpers := by unfold Group.stall; dsimp only; split <;> rfl
@[simp] theorem Group.stall_arch_retired : (g.stall k).arch.retired = g.arch.retired := by unfold Group.stall; dsimp only; split <;> rfl
end stall

section pause
variable (g : Group) (k : Nat)
@[simp] theorem Group.pause_core : (g.pause k).core = g.core := rfl
@[simp] theorem Group.pause_slot : (g.pause k).slot = g.slot := rfl
@[simp] theorem Group.pause_team : (g.pause k).team = g.team := rfl
@[simp] theorem Group.pause_num : (g.pause k).num = g.num := rfl
@[simp] theorem Group.pause_width : (g.pause k).width = g.width := rfl
@[simp] theorem Group.pause_trap : (g.pause k).trap = g.trap := rfl
@[simp] theorem Group.pause_txns : (g.pause k).txns = g.txns := rfl
@[simp] theorem Group.pause_twi : (g.pause k).twi = g.twi := rfl
@[simp] theorem Group.pause_age : (g.pause k).age = g.age := rfl
@[simp] theorem Group.pause_waited : (g.pause k).waited = g.waited := rfl
@[simp] theorem Group.pause_issuedAt : (g.pause k).issuedAt = g.issuedAt := rfl
@[simp] theorem Group.pause_lastSlot : (g.pause k).lastSlot = g.lastSlot := rfl
@[simp] theorem Group.pause_placedAt : (g.pause k).placedAt = g.placedAt := rfl
@[simp] theorem Group.pause_triggered : (g.pause k).triggered = g.triggered := rfl
@[simp] theorem Group.pause_exitedOnce : (g.pause k).exitedOnce = g.exitedOnce := rfl
@[simp] theorem Group.pause_faulted : (g.pause k).faulted = g.faulted := rfl
@[simp] theorem Group.pause_preempt : (g.pause k).preempt = g.preempt := rfl
@[simp] theorem Group.pause_heldPages : (g.pause k).heldPages = g.heldPages := rfl
@[simp] theorem Group.pause_failedPages : (g.pause k).failedPages = g.failedPages := rfl
@[simp] theorem Group.pause_retried : (g.pause k).retried = g.retried := rfl
@[simp] theorem Group.pause_faultSplit : (g.pause k).faultSplit = g.faultSplit := rfl
@[simp] theorem Group.pause_pending : (g.pause k).pending = g.pending := rfl
@[simp] theorem Group.pause_bseq : (g.pause k).bseq = g.bseq := rfl
@[simp] theorem Group.pause_batches : (g.pause k).batches = g.batches := rfl
@[simp] theorem Group.pause_mseq : (g.pause k).mseq = g.mseq := rfl
@[simp] theorem Group.pause_mposts : (g.pause k).mposts = g.mposts := rfl
@[simp] theorem Group.pause_mentry : (g.pause k).mentry = g.mentry := rfl
@[simp] theorem Group.pause_savedRes : (g.pause k).savedRes = g.savedRes := rfl
@[simp] theorem Group.pause_unready : (g.pause k).unready = g.unready := rfl
@[simp] theorem Group.pause_cseq : (g.pause k).cseq = g.cseq := rfl
@[simp] theorem Group.pause_cruns : (g.pause k).cruns = g.cruns := rfl
@[simp] theorem Group.pause_badBlocks : (g.pause k).badBlocks = g.badBlocks := rfl
@[simp] theorem Group.pause_badArea : (g.pause k).badArea = g.badArea := rfl
@[simp] theorem Group.pause_badSave : (g.pause k).badSave = g.badSave := rfl
@[simp] theorem Group.pause_badResume : (g.pause k).badResume = g.badResume := rfl
@[simp] theorem Group.pause_faultFetch : (g.pause k).faultFetch = g.faultFetch := rfl
@[simp] theorem Group.pause_idle : (g.pause k).idle = g.idle := rfl
@[simp] theorem Group.pause_parkMask : (g.pause k).parkMask = g.parkMask := rfl
@[simp] theorem Group.pause_trigScope : (g.pause k).trigScope = g.trigScope := rfl
@[simp] theorem Group.pause_trigParts : (g.pause k).trigParts = g.trigParts := rfl
@[simp] theorem Group.pause_arch_blocks : (g.pause k).arch.blocks = g.arch.blocks := rfl
@[simp] theorem Group.pause_arch_sregs : (g.pause k).arch.sregs = g.arch.sregs := rfl
@[simp] theorem Group.pause_arch_aregs : (g.pause k).arch.aregs = g.arch.aregs := rfl
@[simp] theorem Group.pause_arch_window : (g.pause k).arch.window = g.arch.window := rfl
@[simp] theorem Group.pause_arch_gang : (g.pause k).arch.gang = g.arch.gang := rfl
@[simp] theorem Group.pause_arch_fpcr : (g.pause k).arch.fpcr = g.arch.fpcr := rfl
@[simp] theorem Group.pause_arch_srseed : (g.pause k).arch.srseed = g.arch.srseed := rfl
@[simp] theorem Group.pause_arch_msc : (g.pause k).arch.msc = g.arch.msc := rfl
@[simp] theorem Group.pause_arch_parked : (g.pause k).arch.parked = g.arch.parked := rfl
@[simp] theorem Group.pause_arch_helpers : (g.pause k).arch.helpers = g.arch.helpers := rfl
@[simp] theorem Group.pause_arch_retired : (g.pause k).arch.retired = g.arch.retired := rfl
end pause

section issued
variable (g : Group) (c k : Nat)
@[simp] theorem Group.issued_core : (g.issued c k).core = g.core := rfl
@[simp] theorem Group.issued_slot : (g.issued c k).slot = g.slot := rfl
@[simp] theorem Group.issued_team : (g.issued c k).team = g.team := rfl
@[simp] theorem Group.issued_num : (g.issued c k).num = g.num := rfl
@[simp] theorem Group.issued_width : (g.issued c k).width = g.width := rfl
@[simp] theorem Group.issued_arch : (g.issued c k).arch = g.arch := rfl
@[simp] theorem Group.issued_trap : (g.issued c k).trap = g.trap := rfl
@[simp] theorem Group.issued_txns : (g.issued c k).txns = g.txns := rfl
@[simp] theorem Group.issued_twi : (g.issued c k).twi = g.twi := rfl
@[simp] theorem Group.issued_placedAt : (g.issued c k).placedAt = g.placedAt := rfl
@[simp] theorem Group.issued_triggered : (g.issued c k).triggered = g.triggered := rfl
@[simp] theorem Group.issued_exitedOnce : (g.issued c k).exitedOnce = g.exitedOnce := rfl
@[simp] theorem Group.issued_faulted : (g.issued c k).faulted = g.faulted := rfl
@[simp] theorem Group.issued_preempt : (g.issued c k).preempt = g.preempt := rfl
@[simp] theorem Group.issued_heldPages : (g.issued c k).heldPages = g.heldPages := rfl
@[simp] theorem Group.issued_failedPages : (g.issued c k).failedPages = g.failedPages := rfl
@[simp] theorem Group.issued_retried : (g.issued c k).retried = g.retried := rfl
@[simp] theorem Group.issued_faultSplit : (g.issued c k).faultSplit = g.faultSplit := rfl
@[simp] theorem Group.issued_pending : (g.issued c k).pending = g.pending := rfl
@[simp] theorem Group.issued_bseq : (g.issued c k).bseq = g.bseq := rfl
@[simp] theorem Group.issued_batches : (g.issued c k).batches = g.batches := rfl
@[simp] theorem Group.issued_mseq : (g.issued c k).mseq = g.mseq := rfl
@[simp] theorem Group.issued_mposts : (g.issued c k).mposts = g.mposts := rfl
@[simp] theorem Group.issued_mentry : (g.issued c k).mentry = g.mentry := rfl
@[simp] theorem Group.issued_savedRes : (g.issued c k).savedRes = g.savedRes := rfl
@[simp] theorem Group.issued_unready : (g.issued c k).unready = g.unready := rfl
@[simp] theorem Group.issued_cseq : (g.issued c k).cseq = g.cseq := rfl
@[simp] theorem Group.issued_cruns : (g.issued c k).cruns = g.cruns := rfl
@[simp] theorem Group.issued_badBlocks : (g.issued c k).badBlocks = g.badBlocks := rfl
@[simp] theorem Group.issued_badArea : (g.issued c k).badArea = g.badArea := rfl
@[simp] theorem Group.issued_badSave : (g.issued c k).badSave = g.badSave := rfl
@[simp] theorem Group.issued_badResume : (g.issued c k).badResume = g.badResume := rfl
@[simp] theorem Group.issued_faultFetch : (g.issued c k).faultFetch = g.faultFetch := rfl
@[simp] theorem Group.issued_idle : (g.issued c k).idle = g.idle := rfl
@[simp] theorem Group.issued_parkMask : (g.issued c k).parkMask = g.parkMask := rfl
@[simp] theorem Group.issued_trigScope : (g.issued c k).trigScope = g.trigScope := rfl
@[simp] theorem Group.issued_trigParts : (g.issued c k).trigParts = g.trigParts := rfl
end issued

end Sys2Proof.Machine
end

