-- ==== Sys2Proof/Laws/Ops.lean ====
section
/-!
SUPPORT. What the shared operations of the instructions do, said once: running an instruction, writing a register, settling
and retiring, and finishing.
-/
namespace Sys2Proof.Machine

set_option Elab.async false

/-! ## Running an instruction -/

/-- The checks pass in a ready state. -/
theorem useCheck_ready {s r : State} {x : Issue} {sp : Sp} {u : Use} (h : Ready s x sp u r) : useCheck s x sp u = .done r := by
  have hl := h.level
  have hf := h.filled
  simp [useCheck, Use.waits, h.mask, h.legal, h.kept, h.clear, h.back, h.written, hf, h.room, show ¬ x.t.pl < u.pl by omega]

/-- A ready instruction that is done. -/
theorem withOps_done {s r t : State} {x : Issue} {sp : Sp} {u : Use} {k : State → Issue → Res} (h : Ready s x sp u r)
    (hk : k r x = .done t) : withOps s sp u k = .next t := by
  simp [withOps, withIssue, h.issuer, useCheck_ready h, hk, conclude, Use.badIssue, h.sound, h.area, h.resumed]

/-- A ready instruction that traps. -/
theorem withOps_trap {s r : State} {x : Issue} {sp : Sp} {u : Use} {k : State → Issue → Res} {i : TrapInfo}
    (h : Ready s x sp u r) (hk : k r x = .trap i) : withOps s sp u k = .next (takeTrap s x i) := by
  simp [withOps, withIssue, h.issuer, useCheck_ready h, hk, conclude]

/-- A ready instruction that waits. -/
theorem withOps_wait {s r : State} {x : Issue} {sp : Sp} {u : Use} {k : State → Issue → Res} (h : Ready s x sp u r)
    (hk : k r x = .wait) : withOps s sp u k = .next (s.modGroup x.cur.core x.cur.slot fun g => g.stall x.cur.split) := by
  simp [withOps, withIssue, h.issuer, useCheck_ready h, hk, conclude]

/-! ## Finding what was put -/

/-- What `cur` names. -/
theorem issue_facts {s : State} {x : Issue} (h : s.issue? = some x) :
    s.group? x.cur.core x.cur.slot = some x.g ∧ x.g.core = x.cur.core ∧ x.g.slot = x.cur.slot ∧
    x.sp ∈ x.g.arch.splits ∧ x.sp.slot = x.cur.split := by
  unfold State.issue? at h
  split at h
  · cases h
  · split at h
    · cases h
    · split at h
      · cases h
        rename_i c hc _ g hg _ _ p t hp ht
        refine ⟨hg, ?_⟩
        have h1 := List.find?_some hg
        have h2 := List.find?_some hp
        simp only [Bool.and_eq_true, beq_iff_eq] at h1 h2
        exact ⟨h1.1, h1.2, List.mem_of_find?_eq_some hp, h2⟩
      · cases h

/-- A group whose core and slot `f` keeps is found changed where it stood, and every other group as before. -/
theorem group?_mapWhere (l : List Group) (c k : Nat) (f : Group → Group)
    (hf : ∀ g, g.core = c → g.slot = k → (f g).core = c ∧ (f g).slot = k) (c' k' : Nat) :
    (mapWhere (fun h : Group => h.core == c && h.slot == k) f l).find? (fun g => g.core == c' && g.slot == k') =
      if c' = c ∧ k' = k then (l.find? fun g => g.core == c' && g.slot == k').map f
      else l.find? fun g => g.core == c' && g.slot == k' := by
  induction l with
  | nil => simp [mapWhere]
  | cons g l ih =>
    simp only [mapWhere, List.map_cons] at ih ⊢
    rw [List.find?_cons, List.find?_cons, ih]
    by_cases hg : g.core = c ∧ g.slot = k
    · have := hf g hg.1 hg.2
      by_cases hc : c' = c ∧ k' = k
      · simp [hg, hc, this]
      · have e : (decide (c = c') && decide (k = k')) = false := by
          simp only [Bool.and_eq_false_iff, decide_eq_false_iff_not]; omega
        have e' : (c == c' && k == k') = false := by simpa using e
        simp [hg, hc, this, e']
    · by_cases hc : c' = c ∧ k' = k
      · have e' : (g.core == c && g.slot == k) = false := by
          by_cases h1 : g.core = c <;> by_cases h2 : g.slot = k <;> simp_all
        simp [hc, e']
      · have e' : (g.core == c && g.slot == k) = false := by
          by_cases h1 : g.core = c <;> by_cases h2 : g.slot = k <;> simp_all
        simp [hc, e']

/-- A group put back is found, and no other is touched. -/
theorem group?_setGroup (s : State) (g : Group) (c k : Nat) :
    (s.setGroup g).group? c k = if c = g.core ∧ k = g.slot then (s.group? c k).map fun _ => g else s.group? c k :=
  group?_mapWhere s.groups g.core g.slot (fun _ => g) (fun _ _ _ => ⟨rfl, rfl⟩) c k

/-- See `group?_setGroup`. -/
theorem group?_modGroup (s : State) (c k : Nat) (f : Group → Group) (hf : ∀ g, (f g).core = g.core ∧ (f g).slot = g.slot) (c' k' : Nat) :
    (s.modGroup c k f).group? c' k' = if c' = c ∧ k' = k then (s.group? c' k').map f else s.group? c' k' :=
  group?_mapWhere s.groups c k f (fun g h1 h2 => ⟨(hf g).1.trans h1, (hf g).2.trans h2⟩) c' k'

/-! ## Splits -/

/-- Lane `L` is at `pc` in one of some running splits. -/
def runAt (l : List Split) (L : Nat) (pc : VAddr) : Prop := ∃ p ∈ l, p.pc = pc ∧ p.mask.getLsbD L = true
/-- Lane `L` is at `pc` in one of some parked splits. -/
def parkAtPc (l : List Parked) (L : Nat) (pc : VAddr) : Prop := ∃ p ∈ l, p.pc = pc ∧ p.mask.getLsbD L = true

theorem runAt_nil (L : Nat) (pc : VAddr) : ¬ runAt [] L pc := by simp [runAt]
theorem runAt_cons (p : Split) (l : List Split) (L : Nat) (pc : VAddr) :
    runAt (p :: l) L pc ↔ (p.pc = pc ∧ p.mask.getLsbD L = true) ∨ runAt l L pc := by simp [runAt]
theorem parkAt_nil (L : Nat) (pc : VAddr) : ¬ parkAtPc [] L pc := by simp [parkAtPc]
theorem parkAt_cons (p : Parked) (l : List Parked) (L : Nat) (pc : VAddr) :
    parkAtPc (p :: l) L pc ↔ (p.pc = pc ∧ p.mask.getLsbD L = true) ∨ parkAtPc l L pc := by simp [parkAtPc]

/-- Sorting moves no lane. -/
theorem insertSplit_at (p : Split) (l : List Split) (L : Nat) (pc : VAddr) :
    runAt (insertSplit p l) L pc ↔ runAt (p :: l) L pc := by
  induction l with
  | nil => simp [insertSplit]
  | cons q l ih =>
    rw [insertSplit]
    split
    · rfl
    · simp only [runAt_cons] at ih ⊢
      rw [ih]; grind

/-- Merging moves no lane (R30). -/
theorem mergeInto_at (p : Split) (l : List Split) (L : Nat) (pc : VAddr) :
    runAt (mergeInto p l) L pc ↔ runAt (p :: l) L pc := by
  induction l with
  | nil => simp [mergeInto]
  | cons q l ih =>
    rw [mergeInto]
    split
    · rename_i h
      simp only [Bool.and_eq_true, decide_eq_true_eq] at h
      simp only [runAt_cons, BitVec.getLsbD_or, Bool.or_eq_true, h.1.1]
      grind
    · simp only [runAt_cons] at ih ⊢
      rw [ih]; grind

/-- Folding an operation that moves no lane moves no lane. -/
theorem foldl_at (f : Split → List Split → List Split)
    (hf : ∀ p l L pc, runAt (f p l) L pc ↔ runAt (p :: l) L pc) (l acc : List Split) (L : Nat) (pc : VAddr) :
    runAt (l.foldl (fun acc p => f p acc) acc) L pc ↔ runAt l L pc ∨ runAt acc L pc := by
  induction l generalizing acc with
  | nil => simp [runAt_nil]
  | cons p l ih => rw [List.foldl_cons, ih, hf, runAt_cons, runAt_cons]; grind

/-- Merging the running splits moves no lane. -/
theorem mergeRunning_at (l : List Split) (L : Nat) (pc : VAddr) : runAt (mergeRunning l) L pc ↔ runAt l L pc := by
  simp [mergeRunning, foldl_at _ mergeInto_at, foldl_at _ insertSplit_at, runAt_nil]

/-- Merging parked splits moves no lane. -/
theorem mergeParked_at (ks : List Parked) (run : List Split) (L : Nat) (pc : VAddr) :
    runAt (mergeParked run ks).1 L pc ∨ parkAtPc (mergeParked run ks).2 L pc ↔ runAt run L pc ∨ parkAtPc ks L pc := by
  induction ks generalizing run with
  | nil => simp [mergeParked]
  | cons k ks ih =>
    rw [mergeParked]
    split
    · rename_i h
      rw [ih, parkAt_cons]
      have e : runAt (mapWhere (fun p => decide (p.pc = k.pc) && p.fresh && k.fresh) (fun p : Split =>
          { p with mask := p.mask ||| k.mask, handler := p.handler || k.handler, held := p.held || k.held }) run) L pc ↔
          runAt run L pc ∨ (k.pc = pc ∧ k.mask.getLsbD L = true) := by
        obtain ⟨q, hq, hs⟩ := List.any_eq_true.1 h
        simp only [Bool.and_eq_true, decide_eq_true_eq] at hs
        constructor
        · rintro ⟨p, hp, h1, h2⟩
          obtain ⟨p0, hp0, rfl⟩ := List.mem_map.1 hp
          by_cases hs0 : p0.pc = k.pc ∧ p0.fresh = true ∧ k.fresh = true
          · simp only [hs0, decide_true, Bool.and_self, if_true, BitVec.getLsbD_or, Bool.or_eq_true] at h1 h2
            rcases h2 with h2 | h2
            · exact .inl ⟨p0, hp0, hs0.1.trans h1, h2⟩
            · exact .inr ⟨h1, h2⟩
          · have : (decide (p0.pc = k.pc) && p0.fresh && k.fresh) = false := by
              rw [Bool.eq_false_iff]; intro hh
              simp only [Bool.and_eq_true, decide_eq_true_eq] at hh
              exact hs0 ⟨hh.1.1, hh.1.2, hh.2⟩
            simp only [this, Bool.false_eq_true, if_false] at h1 h2
            exact .inl ⟨p0, hp0, h1, h2⟩
        · rintro (⟨p, hp, h1, h2⟩ | ⟨h1, h2⟩)
          · refine ⟨_, List.mem_map.2 ⟨p, hp, rfl⟩, ?_⟩
            split <;> simp [h1, h2]
          · refine ⟨_, List.mem_map.2 ⟨q, hq, rfl⟩, ?_⟩
            simp [hs.1.1, hs.1.2, hs.2, h1, h2]
      rw [e]; grind
    · have := ih run
      revert this
      cases hmp : mergeParked run ks
      simp only [parkAt_cons]
      grind

/-- Settling keeps everything but the window's lost flags and the splits, and moves no lane (R30, R31). -/
theorem settle_keeps (n : Nat) (a : Arch) :
    (settle n a).blocks = a.blocks ∧ (settle n a).sregs = a.sregs ∧ (settle n a).aregs = a.aregs ∧
    (settle n a).fpcr = a.fpcr ∧ (settle n a).srseed = a.srseed ∧ (settle n a).gang = a.gang ∧
    (settle n a).msc = a.msc ∧ (settle n a).helpers = a.helpers ∧ (settle n a).retired = a.retired := by
  induction n generalizing a with
  | zero => simp [settle]
  | succ n ih =>
    simp only [settle]
    split
    · refine (ih _).imp id ?_; simp
    · simp

/-- The values of the latches, whatever is lost. -/
def latchContents (w : List Latch) : List (Option (List Word) × Nat × Bool × Option Nat) := w.map fun l => (l.vals, l.d, l.n, l.txn)

theorem loseLatches_contents (w : List Latch) : latchContents (loseLatches w) = latchContents w := by
  simp [latchContents, loseLatches]

theorem settle_window (n : Nat) (a : Arch) : latchContents (settle n a).window = latchContents a.window := by
  induction n generalizing a with
  | zero => simp [settle]
  | succ n ih =>
    simp only [settle]
    split
    · rw [ih]; simp [loseLatches_contents]
    · simp

/-- See `settle_keeps`. -/
theorem settle_at (n : Nat) (a : Arch) (L : Nat) (pc : VAddr) : (settle n a).standsAt L pc ↔ a.standsAt L pc := by
  induction n generalizing a with
  | zero => simp [settle]
  | succ n ih =>
    have h := mergeParked_at a.parked (mergeRunning a.splits) L pc
    rw [mergeRunning_at] at h
    have e : a.standsAt L pc ↔ runAt a.splits L pc ∨ parkAtPc a.parked L pc := Iff.rfl
    rw [e, ← h]
    simp only [settle]
    split
    · rename_i i k ks _ hk
      rw [ih]
      have e' (x : Arch) : x.standsAt L pc ↔ runAt x.splits L pc ∨ parkAtPc x.parked L pc := Iff.rfl
      rw [e', hk, runAt_cons, parkAt_cons]
      simp only [Parked.toSplit]
      grind
    · exact Iff.rfl

/-! ## Room -/

/-- What spilling leaves of a state: nothing but blocks of other groups of the core moves. -/
structure SpillKeeps (core slot : Nat) (s r : State) : Prop where
  only : r = { s with groups := r.groups }
  own : r.group? core slot = s.group? core slot
  others : ∀ c k, (c ≠ core → r.group? c k = s.group? c k) ∧ ∀ h, s.group? c k = some h → ∃ h', r.group? c k = some h' ∧
    (∃ bs, h' = { h with arch := { h.arch with blocks := bs } }) ∧ ∀ t q L, laneReg t h' q L = laneReg t h q L
  none : ∀ c k, s.group? c k = none → r.group? c k = none

/-- A group found before is kept, and none appears. -/
theorem SpillKeeps.kept {core slot : Nat} {s r : State} (h : SpillKeeps core slot s r) (c k : Nat) :
    Machine.kept (s.group? c k) (r.group? c k) := by
  cases hg : s.group? c k with
  | none => rw [h.none c k hg]; trivial
  | some g =>
    obtain ⟨g', e, hb, hl⟩ := (h.others c k).2 g hg
    rw [e]; exact ⟨hb, hl⟩

theorem SpillKeeps.refl (core slot : Nat) (s : State) : SpillKeeps core slot s s :=
  ⟨rfl, rfl, fun _ _ => ⟨fun _ => rfl, fun h hh => ⟨h, hh, ⟨h.arch.blocks, rfl⟩, fun _ _ _ => rfl⟩⟩, fun _ _ h => h⟩

/-- A spilled block reads as it did. -/
theorem spillLowest_get (bs : List Block) (b i : Nat) :
    (nth (spillLowest bs) b .unallocated).get i = (nth bs b .unallocated).get i := by
  induction bs generalizing b with
  | nil => rfl
  | cons x bs ih =>
    cases b with
    | zero => cases x <;> rfl
    | succ b => cases x <;> simp_all [spillLowest, nth]

theorem spillOne (s : State) (core slot v : Nat) (h : v ≠ slot) :
    SpillKeeps core slot s (s.modGroup core v fun g => { g with arch := { g.arch with blocks := spillLowest g.arch.blocks } }) := by
  have hg := group?_modGroup s core v (fun g => { g with arch := { g.arch with blocks := spillLowest g.arch.blocks } })
    (fun _ => ⟨rfl, rfl⟩)
  refine ⟨rfl, ?_, fun c k => ⟨fun hc => ?_, fun g hgk => ?_⟩, fun c k hgk => ?_⟩
  · rw [hg, if_neg (by omega)]
  · rw [hg, if_neg (by omega)]
  · rw [hg, hgk]
    split
    · exact ⟨_, rfl, ⟨_, rfl⟩, fun t q L => by simp only [laneReg, identity, spillLowest_get]⟩
    · exact ⟨g, rfl, ⟨g.arch.blocks, rfl⟩, fun _ _ _ => rfl⟩
  · rw [hg, hgk]; split <;> rfl

theorem SpillKeeps.trans {core slot : Nat} {s r t : State} (h : SpillKeeps core slot s r) (k : SpillKeeps core slot r t) :
    SpillKeeps core slot s t := by
  refine ⟨?_, k.own.trans h.own, fun c j => ⟨fun hc => ((k.others c j).1 hc).trans ((h.others c j).1 hc), fun g hg => ?_⟩,
    fun c j hg => k.none c j (h.none c j hg)⟩
  · have h1 := k.only
    rw [h.only] at h1
    exact h1
  · obtain ⟨g1, a1, ⟨b1, e1⟩, c1⟩ := (h.others c j).2 g hg
    obtain ⟨g2, a2, ⟨b2, e2⟩, c2⟩ := (k.others c j).2 g1 a1
    exact ⟨g2, a2, ⟨b2, by rw [e2, e1]⟩, fun t q L => (c2 t q L).trans (c1 t q L)⟩

theorem leastBy_mem {α : Type} (key : α → Nat) (l : List α) (v : α) (h : leastBy key l = some v) : v ∈ l := by
  induction l generalizing v with
  | nil => simp [leastBy] at h
  | cons x l ih =>
    simp only [leastBy] at h
    split at h
    · cases h; simp
    · split at h
      · cases h; simp [ih _ ‹_›]
      · cases h; simp

theorem makeRoom_keeps (need core slot n : Nat) (s r : State) (h : makeRoom need core slot n s = some r) :
    SpillKeeps core slot s r := by
  induction n generalizing s with
  | zero => simp [makeRoom] at h
  | succ n ih =>
    simp only [makeRoom] at h
    split at h
    · cases h; exact SpillKeeps.refl ..
    · split at h
      · cases h
      · rename_i v hv
        have hm := leastBy_mem _ _ _ hv
        simp only [List.mem_filter, Bool.and_eq_true, bne_iff_ne] at hm
        exact (spillOne s core slot v.slot hm.2.1.2).trans (ih _ h)

/-- Making room spills blocks of other groups of the core and changes nothing else (R122). -/
theorem ensureRoom_keeps {s r : State} {g : Group} {regs : List Nat} (h : ensureRoom s g regs = some r) :
    SpillKeeps g.core g.slot s r := by
  unfold ensureRoom at h
  split at h
  · cases h; exact SpillKeeps.refl ..
  · exact makeRoom_keeps _ _ _ _ _ _ h

/-! ## Retiring and finishing -/

/-- The first of a list of latches after a push. -/
theorem push_first (w w' : List Latch) (l : Latch) (h : latchContents w' = latchContents (pushLatch w l)) :
    (nth w' 0 Latch.zero).vals = l.vals := by
  cases w' with
  | nil => simp [latchContents, pushLatch] at h
  | cons a w' =>
    simp only [latchContents, pushLatch, List.take_succ_cons, List.map_cons, List.cons.injEq, Prod.mk.injEq] at h
    simp [nth, h.1.1]

/-- What retiring an instruction leaves of its group (R80, R91). -/
theorem retire_effect (g : Group) (cyc slot : Nat) (sp : Sp) (l : Latch) (pc : VAddr) :
    let g' := g.retire cyc slot sp l pc
    (g'.arch.blocks = g.arch.blocks ∧ g'.arch.sregs = g.arch.sregs ∧ g'.arch.aregs = g.arch.aregs ∧
      g'.arch.fpcr = g.arch.fpcr ∧ g'.arch.srseed = g.arch.srseed ∧ g'.arch.gang = g.arch.gang ∧
      g'.arch.msc = g.arch.msc ∧ g'.arch.helpers = g.arch.helpers ∧ g'.arch.retired = g.arch.retired) ∧
    g'.trap = g.trap ∧ g'.txns = g.txns ∧
    (g'.bseq = g.bseq ∧ g'.mseq = g.mseq ∧ g'.cseq = g.cseq) ∧
    (g'.pending = g.pending ∧ g'.batches = g.batches ∧ g'.mposts = g.mposts ∧ g'.mentry = g.mentry ∧ g'.cruns = g.cruns) ∧
    (g'.core = g.core ∧ g'.slot = g.slot ∧ g'.team = g.team ∧ g'.num = g.num ∧ g'.width = g.width) ∧
    g'.preempt = g.preempt ∧ (latchOf g' 1).vals = l.vals ∧
    (∀ p ∈ g.arch.splits, p.slot = slot → ∀ L, p.mask.getLsbD L = true → g'.arch.standsAt L pc) ∧
    (∀ p ∈ g.arch.splits, p.slot ≠ slot → ∀ L, p.mask.getLsbD L = true → g'.arch.standsAt L p.pc) ∧
    ∀ p ∈ g.arch.parked, ∀ L, p.mask.getLsbD L = true → g'.arch.standsAt L p.pc := by
  let a : Arch := { g.arch with
    window := if sp.isSome then loseLatches (pushLatch g.arch.window l) else pushLatch g.arch.window l
    splits := mapWhere (fun p => p.slot == slot) (Split.advance pc cyc) g.arch.splits }
  have hk := settle_keeps 64 a
  have hw := settle_window 64 a
  have ha := fun L q => settle_at 64 a L q
  have ew : latchContents a.window = latchContents (pushLatch g.arch.window l) := by
    show latchContents (if sp.isSome then loseLatches (pushLatch g.arch.window l) else pushLatch g.arch.window l) = _
    split
    · exact loseLatches_contents _
    · rfl
  have hr : (g.retire cyc slot sp l pc).arch = settle 64 a := by
    unfold Group.retire Group.settle Group.issued
    dsimp only
    split <;> rfl
  have hv : (latchOf (g.retire cyc slot sp l pc) 1).vals = l.vals := by
    unfold latchOf
    rw [hr]
    exact push_first _ _ _ (hw.trans ew)
  refine ⟨?_, ?_, ?_, ?_, ?_, ?_, ?_, hv, ?_, ?_, ?_⟩
  case refine_8 =>
    intro p hp hs L hL
    rw [hr, ha]
    exact .inl ⟨_, List.mem_map.2 ⟨p, hp, rfl⟩, by simp [hs, Split.advance, hL]⟩
  case refine_9 =>
    intro p hp hs L hL
    rw [hr, ha]
    exact .inl ⟨_, List.mem_map.2 ⟨p, hp, rfl⟩, by simp [hs, hL]⟩
  case refine_10 =>
    intro p hp L hL
    rw [hr, ha]
    exact .inr ⟨p, hp, rfl, hL⟩
  case refine_1 => rw [hr]; simp [hk, a]
  all_goals (unfold Group.retire Group.settle Group.issued; dsimp only; split <;> simp)

/-- Finishing an instruction for which no pre-emption waits puts the group back. -/
theorem finishAt_eq {r : State} {x : Issue} {sp : Sp} {g : Group} (l : Latch) (pc : VAddr)
    (hn : sp = none ∨ ∀ c, g.preempt ≠ .asked c) :
    finishAt r x sp g l pc = r.setGroup (g.retire r.cyc x.cur.split sp l pc) := by
  unfold finishAt takeSafePoint
  split
  · rcases hn with hn | hn
    · simp at hn
    · exact absurd ‹_› (hn _)
  · rfl

/-- A group that differs from the issuing one in what its instructions see of it, and in nothing else. -/
structure Shows (x : Issue) (v : View) (g : Group) : Prop where
  lanes : ∀ q L, L < x.g.width → laneReg x.t g q L = v.lane q L
  sregs : ∀ q, q < 48 → nth g.arch.sregs q 0 = v.sreg q
  aregs : ∀ i, i < 16 → addrReg g i = v.areg i
  fpcr : g.arch.fpcr = v.fpcr
  srseed : g.arch.srseed = v.srseed
  gang : g.arch.gang = v.gang
  msc : g.arch.msc = v.msc
  helpers : g.arch.helpers = v.helpers
  retired : g.arch.retired = v.retired
  txns : g.txns = v.txns
  trap : g.trap = x.g.trap
  counters : g.bseq = x.g.bseq ∧ g.mseq = x.g.mseq ∧ g.cseq = x.g.cseq
  lists : g.pending = x.g.pending ∧ g.batches = x.g.batches ∧ g.mposts = x.g.mposts ∧ g.mentry = x.g.mentry ∧
    g.cruns = x.g.cruns
  ident : g.core = x.g.core ∧ g.slot = x.g.slot ∧ g.team = x.g.team ∧ g.num = x.g.num ∧ g.width = x.g.width
  preempt : g.preempt = x.g.preempt

/-- The issuing group shows its own view. -/
theorem shows_self (x : Issue) : Shows x x.view x.g := by constructor <;> simp [Issue.view]

/-- A lane register is the same in two groups with the same blocks and identity. -/
theorem laneReg_congr {t : Team} {g g' : Group} (hb : g'.arch.blocks = g.arch.blocks) (hw : g'.width = g.width) (hn : g'.num = g.num)
    (hh : g'.arch.helpers = g.arch.helpers) (q L : Nat) : laneReg t g' q L = laneReg t g q L := by
  simp [laneReg, identity, hb, hw, hn, hh]

/-- What finishing an instruction leaves, where no pre-emption waits for it. `goes`, `stays` and `rests` say where the
splits of the group that is put back stand. -/
theorem finishAt_after' {s r : State} {x : Issue} {sp : Sp} {g g0 : Group} {v : View} {l : Latch} {pc : VAddr}
    {latch : Option (Nat → Word)} {pcs : Nat → VAddr} (hr : SpillKeeps x.cur.core x.cur.slot s r)
    (h0 : r.group? x.cur.core x.cur.slot = some g0) (hx : x.g.core = x.cur.core ∧ x.g.slot = x.cur.slot)
    (hs : Shows x v g) (hn : NoSafePoint x sp)
    (hl : match latch with
      | none => l.vals = none
      | some f => ∃ vs, l.vals = some vs ∧ ∀ L, L < x.g.width → nth vs L 0 = f L)
    (goes : ∀ a : Arch, (∀ p ∈ g.arch.splits, p.slot = x.cur.split → ∀ L, p.mask.getLsbD L = true → a.standsAt L pc) →
      (∀ p ∈ g.arch.splits, p.slot ≠ x.cur.split → ∀ L, p.mask.getLsbD L = true → a.standsAt L p.pc) →
      (∀ p ∈ g.arch.parked, ∀ L, p.mask.getLsbD L = true → a.standsAt L p.pc) →
      (∀ L, L < x.g.width → x.active.getLsbD L = true → a.standsAt L (pcs L)) ∧
      (∀ p ∈ x.g.arch.splits, p.slot ≠ x.cur.split → ∀ L, p.mask.getLsbD L = true → a.standsAt L p.pc) ∧
      ∀ p ∈ x.g.arch.parked, ∀ L, p.mask.getLsbD L = true → a.standsAt L p.pc) :
    After s (finishAt r x sp g l pc) x v latch pcs := by
  have hn' : sp = none ∨ ∀ c, g.preempt ≠ .asked c := by rw [hs.preempt]; exact hn
  rw [finishAt_eq l pc hn']
  have he := retire_effect g r.cyc x.cur.split sp l pc
  obtain ⟨⟨b1, b2, b3, b4, b5, b6, b7, b8, b9⟩, c1, c2, c3, c4, c5, c6, c7, c8, c9, c10⟩ := he
  obtain ⟨w1, w2, w3⟩ := goes _ c8 c9 c10
  refine ⟨?_, fun c k hck => ?_, g.retire r.cyc x.cur.split sp l pc, ?_, ?_⟩
  · rw [hr.only]; rfl
  · rw [group?_setGroup, if_neg]
    · exact hr.kept c k
    · rw [c5.1, c5.2.1, hs.ident.1, hs.ident.2.1, hx.1, hx.2]; exact hck
  · rw [group?_setGroup, if_pos ⟨by rw [c5.1, hs.ident.1, hx.1], by rw [c5.2.1, hs.ident.2.1, hx.2]⟩, h0]; rfl
  · constructor
    · intro q L hL
      rw [laneReg_congr b1 c5.2.2.2.2 c5.2.2.2.1 b8]; exact hs.lanes q L hL
    · intro q hq; rw [b2]; exact hs.sregs q hq
    · intro i hi; unfold addrReg; rw [b3]; exact hs.aregs i hi
    · rw [b4]; exact hs.fpcr
    · rw [b5]; exact hs.srseed
    · rw [b6]; exact hs.gang
    · rw [b7]; exact hs.msc
    · rw [b8]; exact hs.helpers
    · rw [b9]; exact hs.retired
    · rw [c2]; exact hs.txns
    · unfold latchHolds
      rw [c7]
      cases latch <;> exact hl
    · exact w1
    · exact w2
    · exact w3
    · rw [c1]; exact hs.trap
    · simpa [c3.1, c3.2.1, c3.2.2] using hs.counters
    · simpa [c4.1, c4.2.1, c4.2.2.1, c4.2.2.2.1, c4.2.2.2.2] using hs.lists
    · simpa [c5.1, c5.2.1, c5.2.2.1, c5.2.2.2.1, c5.2.2.2.2] using hs.ident

/-- See `finishAt_after'`: the splits are those of the issuing group. -/
theorem finishAt_after {s r : State} {x : Issue} {sp : Sp} {g g0 : Group} {v : View} {l : Latch} {pc : VAddr}
    {latch : Option (Nat → Word)} (hi : s.issue? = some x) (hr : SpillKeeps x.cur.core x.cur.slot s r)
    (h0 : r.group? x.cur.core x.cur.slot = some g0)
    (hs : Shows x v g) (hg : g.arch.splits = x.g.arch.splits ∧ g.arch.parked = x.g.arch.parked) (hn : NoSafePoint x sp)
    (hl : match latch with
      | none => l.vals = none
      | some f => ∃ vs, l.vals = some vs ∧ ∀ L, L < x.g.width → nth vs L 0 = f L) :
    After s (finishAt r x sp g l pc) x v latch (fun _ => pc) := by
  obtain ⟨_, e1, e2, e3, e4⟩ := issue_facts hi
  refine finishAt_after' hr h0 ⟨e1, e2⟩ hs hn hl fun a h1 h2 h3 => ?_
  rw [hg.1] at h1 h2
  rw [hg.2] at h3
  exact ⟨fun L _ hL => h1 _ e3 e4 L hL, h2, h3⟩

/-- What `Ready` says of the state with room. -/
theorem ready_room {s r : State} {x : Issue} {sp : Sp} {u : Use} (h : Ready s x sp u r) :
    SpillKeeps x.cur.core x.cur.slot s r ∧ r.group? x.cur.core x.cur.slot = some x.g := by
  obtain ⟨e0, e1, e2, _⟩ := issue_facts h.issuer
  have k := ensureRoom_keeps h.room
  rw [e1, e2] at k
  exact ⟨k, by rw [k.own, e0]⟩

/-- A ready instruction that finishes with a group that shows `v`. -/
theorem withOps_after {s r : State} {x : Issue} {sp : Sp} {u : Use} {k : State → Issue → Res} {g : Group} {v : View} {l : Latch}
    {pc : VAddr} {latch : Option (Nat → Word)} (h : Ready s x sp u r) (hn : NoSafePoint x sp)
    (hk : k r x = .done (finishAt r x sp g l pc)) (hs : Shows x v g)
    (hg : g.arch.splits = x.g.arch.splits ∧ g.arch.parked = x.g.arch.parked)
    (hl : match latch with
      | none => l.vals = none
      | some f => ∃ vs, l.vals = some vs ∧ ∀ L, L < x.g.width → nth vs L 0 = f L) :
    ∃ t, withOps s sp u k = .next t ∧ After s t x v latch (fun _ => pc) :=
  ⟨_, withOps_done h hk, finishAt_after h.issuer (ready_room h).1 (ready_room h).2 hs hg hn hl⟩

end Sys2Proof.Machine
end

