-- ==== Sys2Proof/Laws/PerInstr.lean ====
section
/-!
SUPPORT. For each constructor of Instr: the decoder reads the fields of a well-formed instruction back from its word, and
bits 0 and 1 of the word tell its length and whether a mask word follows (04_formats_and_opcode_map.md R73, R77, R89).
-/
namespace Sys2Proof.Laws

set_option Elab.async false

/-- The word of a well-formed instruction that has an encoding is read back as that instruction, in the 16-bit form where bit
0 is 0; else bit 1 says whether the instruction carries a mask word. -/
def Encoding.Statement (i : Instr) : Prop :=
  i.wf = true → i.hasEncoding = true →
    if (encode i).getLsbD 0 then (encode i).getLsbD 1 = i.sp.isSome ∧ decodeRaw i.sp (encode i) = some i
    else i.sp = none ∧ (encode i).extractLsb' 16 16 = 0#16 ∧
      decodeShort ((encode i).extractLsb' 1 4).toNat (.ofHalf ((encode i).extractLsb' 0 16)) = some i

/-- A 32-bit instruction meets the statement once its word does. -/
theorem encoding_ofWord {i : Instr} (h : (encode i).getLsbD 0 = true ∧ (encode i).getLsbD 1 = i.sp.isSome)
    (hr : i.wf = true → decodeRaw i.sp (encode i) = some i) : Encoding.Statement i := by
  intro hw _
  rw [if_pos h.1]
  exact ⟨h.2, hr hw⟩

/-- An event has no encoding. -/
theorem encoding_ofEvent {i : Instr} (h : i.hasEncoding = false) : Encoding.Statement i := by
  intro _ he
  rw [h] at he
  exact absurd he Bool.false_ne_true

theorem short_fields (op : BitVec 4) (f : ShortForm) : .ofHalf (((f.half op).setWidth 32).extractLsb' 0 16) = f ∧
    ((f.half op).setWidth 32).extractLsb' 1 4 = op ∧ ((f.half op).setWidth 32).extractLsb' 16 16 = 0#16 ∧
    ((f.half op).setWidth 32).getLsbD 0 = false := by
  have h : (f.half op).setWidth 32 = 0#16 ++ f.half op := by
    apply BitVec.eq_of_getLsbD_eq
    intro i hi
    rw [BitVec.getLsbD_append, BitVec.getLsbD_setWidth]
    split
    · simp [hi]
    · simp [BitVec.getLsbD_of_ge _ _ (show 16 ≤ i by omega)]
  rw [h]
  refine ⟨?_, ?_, ?_, ?_⟩
  · rw [bits_low _ _ _ _ (by decide), bits_all]
    simp (disch := decide) only [ShortForm.ofHalf, ShortForm.half, bits_high, bits_low, bit_high, bit_low, bits_all, bit_ofBool,
      Nat.reduceSub]
  · simp (disch := decide) only [ShortForm.half, bits_high, bits_low, bits_all, Nat.reduceSub]
  · simp (disch := decide) only [bits_high, bits_all, Nat.reduceSub]
  · simp (disch := decide) only [ShortForm.half, bit_low]
    rfl

/-- A 16-bit instruction meets the statement once its halfword does. -/
theorem encoding_ofShort {i : Instr} {op : BitVec 4} {f : ShortForm} (h : encode i = (f.half op).setWidth 32) (hs : i.sp = none)
    (hd : decodeShort op.toNat f = some i) : Encoding.Statement i := by
  intro _ _
  obtain ⟨h1, h2, h3, h4⟩ := short_fields op f
  rw [h, h4, h1, h2]
  exact ⟨hs, h3, hd⟩

theorem Encoding.iadd16 (f : ShortForm) : Encoding.Statement (.iadd16 f) := encoding_ofShort rfl rfl rfl
theorem Encoding.isub16 (f : ShortForm) : Encoding.Statement (.isub16 f) := encoding_ofShort rfl rfl rfl
theorem Encoding.and16 (f : ShortForm) : Encoding.Statement (.and16 f) := encoding_ofShort rfl rfl rfl
theorem Encoding.or16 (f : ShortForm) : Encoding.Statement (.or16 f) := encoding_ofShort rfl rfl rfl
theorem Encoding.xor16 (f : ShortForm) : Encoding.Statement (.xor16 f) := encoding_ofShort rfl rfl rfl
theorem Encoding.shl16 (f : ShortForm) : Encoding.Statement (.shl16 f) := encoding_ofShort rfl rfl rfl
theorem Encoding.shrl16 (f : ShortForm) : Encoding.Statement (.shrl16 f) := encoding_ofShort rfl rfl rfl
theorem Encoding.shra16 (f : ShortForm) : Encoding.Statement (.shra16 f) := encoding_ofShort rfl rfl rfl
theorem Encoding.mov (f : ShortForm) : Encoding.Statement (.mov f) := encoding_ofShort rfl rfl rfl
theorem Encoding.fadd16 (f : ShortForm) : Encoding.Statement (.fadd16 f) := encoding_ofShort rfl rfl rfl
theorem Encoding.fmul16 (f : ShortForm) : Encoding.Statement (.fmul16 f) := encoding_ofShort rfl rfl rfl
theorem Encoding.fmin16 (f : ShortForm) : Encoding.Statement (.fmin16 f) := encoding_ofShort rfl rfl rfl
theorem Encoding.fmax16 (f : ShortForm) : Encoding.Statement (.fmax16 f) := encoding_ofShort rfl rfl rfl
theorem Encoding.hadd216 (f : ShortForm) : Encoding.Statement (.hadd216 f) := encoding_ofShort rfl rfl rfl
theorem Encoding.hmul216 (f : ShortForm) : Encoding.Statement (.hmul216 f) := encoding_ofShort rfl rfl rfl
theorem Encoding.imax16 (f : ShortForm) : Encoding.Statement (.imax16 f) := encoding_ofShort rfl rfl rfl
theorem Encoding.iadd (f : VForm) : Encoding.Statement (.iadd f) :=
  encoding_ofWord (v_length ..) fun _ => (rawV (maj := 0x00#6) (v_major ..) (by decide)).trans (congrArg (fun g => decodeV (0x00#6 : BitVec 6).toNat g) (v_fields ..))
theorem Encoding.isub (f : VForm) : Encoding.Statement (.isub f) :=
  encoding_ofWord (v_length ..) fun _ => (rawV (maj := 0x01#6) (v_major ..) (by decide)).trans (congrArg (fun g => decodeV (0x01#6 : BitVec 6).toNat g) (v_fields ..))
theorem Encoding.imul (f : VForm) : Encoding.Statement (.imul f) :=
  encoding_ofWord (v_length ..) fun _ => (rawV (maj := 0x02#6) (v_major ..) (by decide)).trans (congrArg (fun g => decodeV (0x02#6 : BitVec 6).toNat g) (v_fields ..))
theorem Encoding.imulh (f : VForm) : Encoding.Statement (.imulh f) :=
  encoding_ofWord (v_length ..) fun _ => (rawV (maj := 0x03#6) (v_major ..) (by decide)).trans (congrArg (fun g => decodeV (0x03#6 : BitVec 6).toNat g) (v_fields ..))
theorem Encoding.imulhu (f : VForm) : Encoding.Statement (.imulhu f) :=
  encoding_ofWord (v_length ..) fun _ => (rawV (maj := 0x04#6) (v_major ..) (by decide)).trans (congrArg (fun g => decodeV (0x04#6 : BitVec 6).toNat g) (v_fields ..))
theorem Encoding.imad (f : VForm) : Encoding.Statement (.imad f) :=
  encoding_ofWord (v_length ..) fun _ => (rawV (maj := 0x05#6) (v_major ..) (by decide)).trans (congrArg (fun g => decodeV (0x05#6 : BitVec 6).toNat g) (v_fields ..))
theorem Encoding.imin (f : VForm) : Encoding.Statement (.imin f) :=
  encoding_ofWord (v_length ..) fun _ => (rawV (maj := 0x06#6) (v_major ..) (by decide)).trans (congrArg (fun g => decodeV (0x06#6 : BitVec 6).toNat g) (v_fields ..))
theorem Encoding.imax (f : VForm) : Encoding.Statement (.imax f) :=
  encoding_ofWord (v_length ..) fun _ => (rawV (maj := 0x07#6) (v_major ..) (by decide)).trans (congrArg (fun g => decodeV (0x07#6 : BitVec 6).toNat g) (v_fields ..))
theorem Encoding.umin (f : VForm) : Encoding.Statement (.umin f) :=
  encoding_ofWord (v_length ..) fun _ => (rawV (maj := 0x08#6) (v_major ..) (by decide)).trans (congrArg (fun g => decodeV (0x08#6 : BitVec 6).toNat g) (v_fields ..))
theorem Encoding.umax (f : VForm) : Encoding.Statement (.umax f) :=
  encoding_ofWord (v_length ..) fun _ => (rawV (maj := 0x09#6) (v_major ..) (by decide)).trans (congrArg (fun g => decodeV (0x09#6 : BitVec 6).toNat g) (v_fields ..))
theorem Encoding.and (f : VForm) : Encoding.Statement (.and f) :=
  encoding_ofWord (v_length ..) fun _ => (rawV (maj := 0x0A#6) (v_major ..) (by decide)).trans (congrArg (fun g => decodeV (0x0A#6 : BitVec 6).toNat g) (v_fields ..))
theorem Encoding.or (f : VForm) : Encoding.Statement (.or f) :=
  encoding_ofWord (v_length ..) fun _ => (rawV (maj := 0x0B#6) (v_major ..) (by decide)).trans (congrArg (fun g => decodeV (0x0B#6 : BitVec 6).toNat g) (v_fields ..))
theorem Encoding.xor (f : VForm) : Encoding.Statement (.xor f) :=
  encoding_ofWord (v_length ..) fun _ => (rawV (maj := 0x0C#6) (v_major ..) (by decide)).trans (congrArg (fun g => decodeV (0x0C#6 : BitVec 6).toNat g) (v_fields ..))
theorem Encoding.andn (f : VForm) : Encoding.Statement (.andn f) :=
  encoding_ofWord (v_length ..) fun _ => (rawV (maj := 0x0D#6) (v_major ..) (by decide)).trans (congrArg (fun g => decodeV (0x0D#6 : BitVec 6).toNat g) (v_fields ..))
theorem Encoding.shl (f : VForm) : Encoding.Statement (.shl f) :=
  encoding_ofWord (v_length ..) fun _ => (rawV (maj := 0x0E#6) (v_major ..) (by decide)).trans (congrArg (fun g => decodeV (0x0E#6 : BitVec 6).toNat g) (v_fields ..))
theorem Encoding.shrl (f : VForm) : Encoding.Statement (.shrl f) :=
  encoding_ofWord (v_length ..) fun _ => (rawV (maj := 0x0F#6) (v_major ..) (by decide)).trans (congrArg (fun g => decodeV (0x0F#6 : BitVec 6).toNat g) (v_fields ..))
theorem Encoding.shra (f : VForm) : Encoding.Statement (.shra f) :=
  encoding_ofWord (v_length ..) fun _ => (rawV (maj := 0x10#6) (v_major ..) (by decide)).trans (congrArg (fun g => decodeV (0x10#6 : BitVec 6).toNat g) (v_fields ..))
theorem Encoding.seteq (f : VForm) : Encoding.Statement (.seteq f) :=
  encoding_ofWord (v_length ..) fun _ => (rawV (maj := 0x11#6) (v_major ..) (by decide)).trans (congrArg (fun g => decodeV (0x11#6 : BitVec 6).toNat g) (v_fields ..))
theorem Encoding.setlt (f : VForm) : Encoding.Statement (.setlt f) :=
  encoding_ofWord (v_length ..) fun _ => (rawV (maj := 0x12#6) (v_major ..) (by decide)).trans (congrArg (fun g => decodeV (0x12#6 : BitVec 6).toNat g) (v_fields ..))
theorem Encoding.sel (f : VForm) : Encoding.Statement (.sel f) :=
  encoding_ofWord (v_length ..) fun _ => (rawV (maj := 0x13#6) (v_major ..) (by decide)).trans (congrArg (fun g => decodeV (0x13#6 : BitVec 6).toNat g) (v_fields ..))
theorem Encoding.fadd (f : VForm) : Encoding.Statement (.fadd f) :=
  encoding_ofWord (v_length ..) fun _ => (rawV (maj := 0x14#6) (v_major ..) (by decide)).trans (congrArg (fun g => decodeV (0x14#6 : BitVec 6).toNat g) (v_fields ..))
theorem Encoding.fsub (f : VForm) : Encoding.Statement (.fsub f) :=
  encoding_ofWord (v_length ..) fun _ => (rawV (maj := 0x15#6) (v_major ..) (by decide)).trans (congrArg (fun g => decodeV (0x15#6 : BitVec 6).toNat g) (v_fields ..))
theorem Encoding.fmul (f : VForm) : Encoding.Statement (.fmul f) :=
  encoding_ofWord (v_length ..) fun _ => (rawV (maj := 0x16#6) (v_major ..) (by decide)).trans (congrArg (fun g => decodeV (0x16#6 : BitVec 6).toNat g) (v_fields ..))
theorem Encoding.ffma (f : VForm) : Encoding.Statement (.ffma f) :=
  encoding_ofWord (v_length ..) fun _ => (rawV (maj := 0x17#6) (v_major ..) (by decide)).trans (congrArg (fun g => decodeV (0x17#6 : BitVec 6).toNat g) (v_fields ..))
theorem Encoding.fmin (f : VForm) : Encoding.Statement (.fmin f) :=
  encoding_ofWord (v_length ..) fun _ => (rawV (maj := 0x18#6) (v_major ..) (by decide)).trans (congrArg (fun g => decodeV (0x18#6 : BitVec 6).toNat g) (v_fields ..))
theorem Encoding.fmax (f : VForm) : Encoding.Statement (.fmax f) :=
  encoding_ofWord (v_length ..) fun _ => (rawV (maj := 0x19#6) (v_major ..) (by decide)).trans (congrArg (fun g => decodeV (0x19#6 : BitVec 6).toNat g) (v_fields ..))
theorem Encoding.fseteq (f : VForm) : Encoding.Statement (.fseteq f) :=
  encoding_ofWord (v_length ..) fun _ => (rawV (maj := 0x1A#6) (v_major ..) (by decide)).trans (congrArg (fun g => decodeV (0x1A#6 : BitVec 6).toNat g) (v_fields ..))
theorem Encoding.fsetlt (f : VForm) : Encoding.Statement (.fsetlt f) :=
  encoding_ofWord (v_length ..) fun _ => (rawV (maj := 0x1B#6) (v_major ..) (by decide)).trans (congrArg (fun g => decodeV (0x1B#6 : BitVec 6).toNat g) (v_fields ..))
theorem Encoding.fsetle (f : VForm) : Encoding.Statement (.fsetle f) :=
  encoding_ofWord (v_length ..) fun _ => (rawV (maj := 0x1C#6) (v_major ..) (by decide)).trans (congrArg (fun g => decodeV (0x1C#6 : BitVec 6).toNat g) (v_fields ..))
theorem Encoding.hadd2 (f : VForm) : Encoding.Statement (.hadd2 f) :=
  encoding_ofWord (v_length ..) fun _ => (rawV (maj := 0x1D#6) (v_major ..) (by decide)).trans (congrArg (fun g => decodeV (0x1D#6 : BitVec 6).toNat g) (v_fields ..))
theorem Encoding.hmul2 (f : VForm) : Encoding.Statement (.hmul2 f) :=
  encoding_ofWord (v_length ..) fun _ => (rawV (maj := 0x1E#6) (v_major ..) (by decide)).trans (congrArg (fun g => decodeV (0x1E#6 : BitVec 6).toNat g) (v_fields ..))
theorem Encoding.hfma2 (f : VForm) : Encoding.Statement (.hfma2 f) :=
  encoding_ofWord (v_length ..) fun _ => (rawV (maj := 0x1F#6) (v_major ..) (by decide)).trans (congrArg (fun g => decodeV (0x1F#6 : BitVec 6).toNat g) (v_fields ..))
theorem Encoding.ineg (f : XForm) : Encoding.Statement (.ineg f) := by
  refine encoding_ofWord (x_length ..) fun _ => (rawIntUnary (sp := f.sp) (x_major ..)).trans ?_
  unfold decodeIntUnary
  rw [x_fn, x_unused, x_fields]
  rfl
theorem Encoding.iabs (f : XForm) : Encoding.Statement (.iabs f) := by
  refine encoding_ofWord (x_length ..) fun _ => (rawIntUnary (sp := f.sp) (x_major ..)).trans ?_
  unfold decodeIntUnary
  rw [x_fn, x_unused, x_fields]
  rfl
theorem Encoding.popc (f : XForm) : Encoding.Statement (.popc f) := by
  refine encoding_ofWord (x_length ..) fun _ => (rawIntUnary (sp := f.sp) (x_major ..)).trans ?_
  unfold decodeIntUnary
  rw [x_fn, x_unused, x_fields]
  rfl
theorem Encoding.clz (f : XForm) : Encoding.Statement (.clz f) := by
  refine encoding_ofWord (x_length ..) fun _ => (rawIntUnary (sp := f.sp) (x_major ..)).trans ?_
  unfold decodeIntUnary
  rw [x_fn, x_unused, x_fields]
  rfl
theorem Encoding.ctz (f : XForm) : Encoding.Statement (.ctz f) := by
  refine encoding_ofWord (x_length ..) fun _ => (rawIntUnary (sp := f.sp) (x_major ..)).trans ?_
  unfold decodeIntUnary
  rw [x_fn, x_unused, x_fields]
  rfl
theorem Encoding.brev (f : XForm) : Encoding.Statement (.brev f) := by
  refine encoding_ofWord (x_length ..) fun _ => (rawIntUnary (sp := f.sp) (x_major ..)).trans ?_
  unfold decodeIntUnary
  rw [x_fn, x_unused, x_fields]
  rfl
theorem Encoding.sext (f : XmForm) : Encoding.Statement (.sext f) := by
  refine encoding_ofWord (xm_length ..) fun _ => (rawIntUnary (sp := f.sp) (xm_major ..)).trans ?_
  unfold decodeIntUnary
  rw [xm_fn, xm_fields]
  rfl
theorem Encoding.zext (f : XmForm) : Encoding.Statement (.zext f) := by
  refine encoding_ofWord (xm_length ..) fun _ => (rawIntUnary (sp := f.sp) (xm_major ..)).trans ?_
  unfold decodeIntUnary
  rw [xm_fn, xm_fields]
  rfl
theorem Encoding.not (f : XForm) : Encoding.Statement (.not f) := by
  refine encoding_ofWord (x_length ..) fun _ => (rawIntUnary (sp := f.sp) (x_major ..)).trans ?_
  unfold decodeIntUnary
  rw [x_fn, x_unused, x_fields]
  rfl
theorem Encoding.fneg (f : XForm) : Encoding.Statement (.fneg f) := by
  refine encoding_ofWord (x_length ..) fun _ => (rawFloatUnary (sp := f.sp) (x_major ..)).trans ?_
  unfold decodeFloatUnary
  rw [x_fn, x_unused, x_fields]
  rfl
theorem Encoding.fabs (f : XForm) : Encoding.Statement (.fabs f) := by
  refine encoding_ofWord (x_length ..) fun _ => (rawFloatUnary (sp := f.sp) (x_major ..)).trans ?_
  unfold decodeFloatUnary
  rw [x_fn, x_unused, x_fields]
  rfl
theorem Encoding.fsqrt (f : XForm) : Encoding.Statement (.fsqrt f) := by
  refine encoding_ofWord (x_length ..) fun _ => (rawFloatUnary (sp := f.sp) (x_major ..)).trans ?_
  unfold decodeFloatUnary
  rw [x_fn, x_unused, x_fields]
  rfl
theorem Encoding.frsq (f : XForm) : Encoding.Statement (.frsq f) := by
  refine encoding_ofWord (x_length ..) fun _ => (rawFloatUnary (sp := f.sp) (x_major ..)).trans ?_
  unfold decodeFloatUnary
  rw [x_fn, x_unused, x_fields]
  rfl
theorem Encoding.frcp (f : XForm) : Encoding.Statement (.frcp f) := by
  refine encoding_ofWord (x_length ..) fun _ => (rawFloatUnary (sp := f.sp) (x_major ..)).trans ?_
  unfold decodeFloatUnary
  rw [x_fn, x_unused, x_fields]
  rfl
theorem Encoding.fexp2 (f : XForm) : Encoding.Statement (.fexp2 f) := by
  refine encoding_ofWord (x_length ..) fun _ => (rawFloatUnary (sp := f.sp) (x_major ..)).trans ?_
  unfold decodeFloatUnary
  rw [x_fn, x_unused, x_fields]
  rfl
theorem Encoding.flog2 (f : XForm) : Encoding.Statement (.flog2 f) := by
  refine encoding_ofWord (x_length ..) fun _ => (rawFloatUnary (sp := f.sp) (x_major ..)).trans ?_
  unfold decodeFloatUnary
  rw [x_fn, x_unused, x_fields]
  rfl
theorem Encoding.fsin (f : XForm) : Encoding.Statement (.fsin f) := by
  refine encoding_ofWord (x_length ..) fun _ => (rawFloatUnary (sp := f.sp) (x_major ..)).trans ?_
  unfold decodeFloatUnary
  rw [x_fn, x_unused, x_fields]
  rfl
theorem Encoding.fcos (f : XForm) : Encoding.Statement (.fcos f) := by
  refine encoding_ofWord (x_length ..) fun _ => (rawFloatUnary (sp := f.sp) (x_major ..)).trans ?_
  unfold decodeFloatUnary
  rw [x_fn, x_unused, x_fields]
  rfl
theorem Encoding.ffloor (f : XForm) : Encoding.Statement (.ffloor f) := by
  refine encoding_ofWord (x_length ..) fun _ => (rawFloatUnary (sp := f.sp) (x_major ..)).trans ?_
  unfold decodeFloatUnary
  rw [x_fn, x_unused, x_fields]
  rfl
theorem Encoding.fceil (f : XForm) : Encoding.Statement (.fceil f) := by
  refine encoding_ofWord (x_length ..) fun _ => (rawFloatUnary (sp := f.sp) (x_major ..)).trans ?_
  unfold decodeFloatUnary
  rw [x_fn, x_unused, x_fields]
  rfl
theorem Encoding.ftrunc (f : XForm) : Encoding.Statement (.ftrunc f) := by
  refine encoding_ofWord (x_length ..) fun _ => (rawFloatUnary (sp := f.sp) (x_major ..)).trans ?_
  unfold decodeFloatUnary
  rw [x_fn, x_unused, x_fields]
  rfl
theorem Encoding.frint (f : XForm) : Encoding.Statement (.frint f) := by
  refine encoding_ofWord (x_length ..) fun _ => (rawFloatUnary (sp := f.sp) (x_major ..)).trans ?_
  unfold decodeFloatUnary
  rw [x_fn, x_unused, x_fields]
  rfl
theorem Encoding.cvt (f : CvtForm) : Encoding.Statement (.cvt f) := by
  refine encoding_ofWord (cvt_length ..) fun _ => ?_
  change decodeRaw f.sp (f.word 0x22#6) = _
  unfold decodeRaw
  rw [cvt_major, cvt_fields]
  rfl
theorem Encoding.cvts (f : CvtForm) : Encoding.Statement (.cvts f) := by
  refine encoding_ofWord (cvt_length ..) fun _ => ?_
  change decodeRaw f.sp (f.word 0x23#6) = _
  unfold decodeRaw
  rw [cvt_major, cvt_fields]
  rfl
theorem Encoding.cvtsr (f : CvtForm) : Encoding.Statement (.cvtsr f) := by
  refine encoding_ofWord (cvt_length ..) fun _ => ?_
  change decodeRaw f.sp (f.word 0x24#6) = _
  unfold decodeRaw
  rw [cvt_major, cvt_fields]
  rfl
theorem Encoding.pkb (f : XmForm) : Encoding.Statement (.pkb f) := by
  refine encoding_ofWord (xm_length ..) fun _ => (rawPack (sp := f.sp) (xm_major ..)).trans ?_
  unfold decodePack
  rw [xm_fn, xm_fields]
  rfl
theorem Encoding.pkh (f : XmForm) : Encoding.Statement (.pkh f) := by
  refine encoding_ofWord (xm_length ..) fun _ => (rawPack (sp := f.sp) (xm_major ..)).trans ?_
  unfold decodePack
  rw [xm_fn, xm_fields]
  rfl
theorem Encoding.pkn (f : XmForm) : Encoding.Statement (.pkn f) := by
  refine encoding_ofWord (xm_length ..) fun _ => (rawPack (sp := f.sp) (xm_major ..)).trans ?_
  unfold decodePack
  rw [xm_fn, xm_fields]
  rfl
theorem Encoding.upb (f : XmForm) : Encoding.Statement (.upb f) := by
  refine encoding_ofWord (xm_length ..) fun _ => (rawPack (sp := f.sp) (xm_major ..)).trans ?_
  unfold decodePack
  rw [xm_fn, xm_fields]
  rfl
theorem Encoding.upbs (f : XmForm) : Encoding.Statement (.upbs f) := by
  refine encoding_ofWord (xm_length ..) fun _ => (rawPack (sp := f.sp) (xm_major ..)).trans ?_
  unfold decodePack
  rw [xm_fn, xm_fields]
  rfl
theorem Encoding.uph (f : XmForm) : Encoding.Statement (.uph f) := by
  refine encoding_ofWord (xm_length ..) fun _ => (rawPack (sp := f.sp) (xm_major ..)).trans ?_
  unfold decodePack
  rw [xm_fn, xm_fields]
  rfl
theorem Encoding.uphs (f : XmForm) : Encoding.Statement (.uphs f) := by
  refine encoding_ofWord (xm_length ..) fun _ => (rawPack (sp := f.sp) (xm_major ..)).trans ?_
  unfold decodePack
  rw [xm_fn, xm_fields]
  rfl
theorem Encoding.upn (f : XmForm) : Encoding.Statement (.upn f) := by
  refine encoding_ofWord (xm_length ..) fun _ => (rawPack (sp := f.sp) (xm_major ..)).trans ?_
  unfold decodePack
  rw [xm_fn, xm_fields]
  rfl
theorem Encoding.upns (f : XmForm) : Encoding.Statement (.upns f) := by
  refine encoding_ofWord (xm_length ..) fun _ => (rawPack (sp := f.sp) (xm_major ..)).trans ?_
  unfold decodePack
  rw [xm_fn, xm_fields]
  rfl
theorem Encoding.qswx (f : XForm) : Encoding.Statement (.qswx f) := by
  refine encoding_ofWord (x_length ..) fun _ => (rawQuad (sp := f.sp) (x_major ..)).trans ?_
  unfold decodeQuad
  rw [x_fn, x_unused, x_fields]
  rfl
theorem Encoding.qswy (f : XForm) : Encoding.Statement (.qswy f) := by
  refine encoding_ofWord (x_length ..) fun _ => (rawQuad (sp := f.sp) (x_major ..)).trans ?_
  unfold decodeQuad
  rw [x_fn, x_unused, x_fields]
  rfl
theorem Encoding.qswd (f : XForm) : Encoding.Statement (.qswd f) := by
  refine encoding_ofWord (x_length ..) fun _ => (rawQuad (sp := f.sp) (x_major ..)).trans ?_
  unfold decodeQuad
  rw [x_fn, x_unused, x_fields]
  rfl
theorem Encoding.qbc (f : XmForm) : Encoding.Statement (.qbc f) := by
  refine encoding_ofWord (xm_length ..) fun _ => (rawQuad (sp := f.sp) (xm_major ..)).trans ?_
  unfold decodeQuad
  rw [xm_fn, xm_fields]
  rfl
theorem Encoding.qaddf (f : XForm) : Encoding.Statement (.qaddf f) := by
  refine encoding_ofWord (x_length ..) fun _ => (rawQuad (sp := f.sp) (x_major ..)).trans ?_
  unfold decodeQuad
  rw [x_fn, x_unused, x_fields]
  rfl
theorem Encoding.qaddi (f : XForm) : Encoding.Statement (.qaddi f) := by
  refine encoding_ofWord (x_length ..) fun _ => (rawQuad (sp := f.sp) (x_major ..)).trans ?_
  unfold decodeQuad
  rw [x_fn, x_unused, x_fields]
  rfl
theorem Encoding.qmaxf (f : XForm) : Encoding.Statement (.qmaxf f) := by
  refine encoding_ofWord (x_length ..) fun _ => (rawQuad (sp := f.sp) (x_major ..)).trans ?_
  unfold decodeQuad
  rw [x_fn, x_unused, x_fields]
  rfl
theorem Encoding.shfl (f : XForm) : Encoding.Statement (.shfl f) := by
  refine encoding_ofWord (x_length ..) fun _ => (rawGroup (sp := f.sp) (x_major ..)).trans ?_
  unfold decodeGroup
  rw [x_fn, x_unused, x_fields]
  rfl
theorem Encoding.shflup (f : XForm) : Encoding.Statement (.shflup f) := by
  refine encoding_ofWord (x_length ..) fun _ => (rawGroup (sp := f.sp) (x_major ..)).trans ?_
  unfold decodeGroup
  rw [x_fn, x_unused, x_fields]
  rfl
theorem Encoding.shfldn (f : XForm) : Encoding.Statement (.shfldn f) := by
  refine encoding_ofWord (x_length ..) fun _ => (rawGroup (sp := f.sp) (x_major ..)).trans ?_
  unfold decodeGroup
  rw [x_fn, x_unused, x_fields]
  rfl
theorem Encoding.shflx (f : XForm) : Encoding.Statement (.shflx f) := by
  refine encoding_ofWord (x_length ..) fun _ => (rawGroup (sp := f.sp) (x_major ..)).trans ?_
  unfold decodeGroup
  rw [x_fn, x_unused, x_fields]
  rfl
theorem Encoding.vany (f : XForm) : Encoding.Statement (.vany f) := by
  refine encoding_ofWord (x_length ..) fun _ => (rawGroup (sp := f.sp) (x_major ..)).trans ?_
  unfold decodeGroup
  rw [x_fn, x_unused, x_fields]
  rfl
theorem Encoding.vall (f : XForm) : Encoding.Statement (.vall f) := by
  refine encoding_ofWord (x_length ..) fun _ => (rawGroup (sp := f.sp) (x_major ..)).trans ?_
  unfold decodeGroup
  rw [x_fn, x_unused, x_fields]
  rfl
theorem Encoding.ballot (f : XForm) : Encoding.Statement (.ballot f) := by
  refine encoding_ofWord (x_length ..) fun _ => (rawGroup (sp := f.sp) (x_major ..)).trans ?_
  unfold decodeGroup
  rw [x_fn, x_unused, x_fields]
  rfl
theorem Encoding.gaddi (f : XForm) : Encoding.Statement (.gaddi f) := by
  refine encoding_ofWord (x_length ..) fun _ => (rawGroup (sp := f.sp) (x_major ..)).trans ?_
  unfold decodeGroup
  rw [x_fn, x_unused, x_fields]
  rfl
theorem Encoding.gaddf (f : XForm) : Encoding.Statement (.gaddf f) := by
  refine encoding_ofWord (x_length ..) fun _ => (rawGroup (sp := f.sp) (x_major ..)).trans ?_
  unfold decodeGroup
  rw [x_fn, x_unused, x_fields]
  rfl
theorem Encoding.gmaxf (f : XForm) : Encoding.Statement (.gmaxf f) := by
  refine encoding_ofWord (x_length ..) fun _ => (rawGroup (sp := f.sp) (x_major ..)).trans ?_
  unfold decodeGroup
  rw [x_fn, x_unused, x_fields]
  rfl
theorem Encoding.setltu (f : XForm) : Encoding.Statement (.setltu f) := by
  refine encoding_ofWord (x_length ..) fun _ => (rawCompare (sp := f.sp) (x_major ..)).trans ?_
  unfold decodeCompare
  rw [x_fn, x_unused, x_fields]
  rfl
theorem Encoding.setle (f : XForm) : Encoding.Statement (.setle f) := by
  refine encoding_ofWord (x_length ..) fun _ => (rawCompare (sp := f.sp) (x_major ..)).trans ?_
  unfold decodeCompare
  rw [x_fn, x_unused, x_fields]
  rfl
theorem Encoding.setleu (f : XForm) : Encoding.Statement (.setleu f) := by
  refine encoding_ofWord (x_length ..) fun _ => (rawCompare (sp := f.sp) (x_major ..)).trans ?_
  unfold decodeCompare
  rw [x_fn, x_unused, x_fields]
  rfl
theorem Encoding.setne (f : XForm) : Encoding.Statement (.setne f) := by
  refine encoding_ofWord (x_length ..) fun _ => (rawCompare (sp := f.sp) (x_major ..)).trans ?_
  unfold decodeCompare
  rw [x_fn, x_unused, x_fields]
  rfl
theorem Encoding.fsetne (f : XForm) : Encoding.Statement (.fsetne f) := by
  refine encoding_ofWord (x_length ..) fun _ => (rawCompare (sp := f.sp) (x_major ..)).trans ?_
  unfold decodeCompare
  rw [x_fn, x_unused, x_fields]
  rfl
theorem Encoding.fsetun (f : XForm) : Encoding.Statement (.fsetun f) := by
  refine encoding_ofWord (x_length ..) fun _ => (rawCompare (sp := f.sp) (x_major ..)).trans ?_
  unfold decodeCompare
  rw [x_fn, x_unused, x_fields]
  rfl
theorem Encoding.fclass (f : XForm) : Encoding.Statement (.fclass f) := by
  refine encoding_ofWord (x_length ..) fun _ => (rawCompare (sp := f.sp) (x_major ..)).trans ?_
  unfold decodeCompare
  rw [x_fn, x_unused, x_fields]
  rfl
theorem Encoding.ldb (f : MForm) : Encoding.Statement (.ldb f) := by
  refine encoding_ofWord (m_length ..) fun _ => ?_
  change decodeRaw f.sp (f.word 0x2C#6) = _
  unfold decodeRaw
  rw [m_major, m_fields]
  rfl
theorem Encoding.ldh (f : MForm) : Encoding.Statement (.ldh f) := by
  refine encoding_ofWord (m_length ..) fun _ => ?_
  change decodeRaw f.sp (f.word 0x2D#6) = _
  unfold decodeRaw
  rw [m_major, m_fields]
  rfl
theorem Encoding.ldw (f : MForm) : Encoding.Statement (.ldw f) := by
  refine encoding_ofWord (m_length ..) fun _ => ?_
  change decodeRaw f.sp (f.word 0x2E#6) = _
  unfold decodeRaw
  rw [m_major, m_fields]
  rfl
theorem Encoding.ldd (f : MForm) : Encoding.Statement (.ldd f) := by
  refine encoding_ofWord (m_length ..) fun _ => ?_
  change decodeRaw f.sp (f.word 0x2F#6) = _
  unfold decodeRaw
  rw [m_major, m_fields]
  rfl
theorem Encoding.stb (f : MForm) : Encoding.Statement (.stb f) := by
  refine encoding_ofWord (m_length ..) fun _ => ?_
  change decodeRaw f.sp (f.word 0x30#6) = _
  unfold decodeRaw
  rw [m_major, m_fields]
  rfl
theorem Encoding.sth (f : MForm) : Encoding.Statement (.sth f) := by
  refine encoding_ofWord (m_length ..) fun _ => ?_
  change decodeRaw f.sp (f.word 0x31#6) = _
  unfold decodeRaw
  rw [m_major, m_fields]
  rfl
theorem Encoding.stw (f : MForm) : Encoding.Statement (.stw f) := by
  refine encoding_ofWord (m_length ..) fun _ => ?_
  change decodeRaw f.sp (f.word 0x32#6) = _
  unfold decodeRaw
  rw [m_major, m_fields]
  rfl
theorem Encoding.std (f : MForm) : Encoding.Statement (.std f) := by
  refine encoding_ofWord (m_length ..) fun _ => ?_
  change decodeRaw f.sp (f.word 0x33#6) = _
  unfold decodeRaw
  rw [m_major, m_fields]
  rfl
theorem Encoding.atomAdd (f : AtomForm) : Encoding.Statement (.atomAdd f) := by
  refine encoding_ofWord (atom_length ..) fun h => (rawAtom (sp := f.sp) (atom_major ..) ?_).trans ?_
  · simp only [Instr.wf, Bool.and_eq_true, bne_iff_ne] at h
    exact h.2
  · rw [atom_fn, atom_fields]
    rfl
theorem Encoding.atomAddd (f : AtomForm) : Encoding.Statement (.atomAddd f) := by
  refine encoding_ofWord (atom_length ..) fun h => (rawAtom (sp := f.sp) (atom_major ..) ?_).trans ?_
  · simp only [Instr.wf, Bool.and_eq_true, bne_iff_ne] at h
    exact h.2
  · rw [atom_fn, atom_fields]
    rfl
theorem Encoding.atomAnd (f : AtomForm) : Encoding.Statement (.atomAnd f) := by
  refine encoding_ofWord (atom_length ..) fun h => (rawAtom (sp := f.sp) (atom_major ..) ?_).trans ?_
  · simp only [Instr.wf, Bool.and_eq_true, bne_iff_ne] at h
    exact h.1.2
  · rw [atom_fn, atom_fields]
    rfl
theorem Encoding.atomOr (f : AtomForm) : Encoding.Statement (.atomOr f) := by
  refine encoding_ofWord (atom_length ..) fun h => (rawAtom (sp := f.sp) (atom_major ..) ?_).trans ?_
  · simp only [Instr.wf, Bool.and_eq_true, bne_iff_ne] at h
    exact h.2
  · rw [atom_fn, atom_fields]
    rfl
theorem Encoding.atomXor (f : AtomForm) : Encoding.Statement (.atomXor f) := by
  refine encoding_ofWord (atom_length ..) fun h => (rawAtom (sp := f.sp) (atom_major ..) ?_).trans ?_
  · simp only [Instr.wf, Bool.and_eq_true, bne_iff_ne] at h
    exact h.1.2
  · rw [atom_fn, atom_fields]
    rfl
theorem Encoding.atomMin (f : AtomForm) : Encoding.Statement (.atomMin f) := by
  refine encoding_ofWord (atom_length ..) fun h => (rawAtom (sp := f.sp) (atom_major ..) ?_).trans ?_
  · simp only [Instr.wf, Bool.and_eq_true, bne_iff_ne] at h
    exact h.2
  · rw [atom_fn, atom_fields]
    rfl
theorem Encoding.atomMax (f : AtomForm) : Encoding.Statement (.atomMax f) := by
  refine encoding_ofWord (atom_length ..) fun h => (rawAtom (sp := f.sp) (atom_major ..) ?_).trans ?_
  · simp only [Instr.wf, Bool.and_eq_true, bne_iff_ne] at h
    exact h.2
  · rw [atom_fn, atom_fields]
    rfl
theorem Encoding.atomUmin (f : AtomForm) : Encoding.Statement (.atomUmin f) := by
  refine encoding_ofWord (atom_length ..) fun h => (rawAtom (sp := f.sp) (atom_major ..) ?_).trans ?_
  · simp only [Instr.wf, Bool.and_eq_true, bne_iff_ne] at h
    exact h.2
  · rw [atom_fn, atom_fields]
    rfl
theorem Encoding.atomUmax (f : AtomForm) : Encoding.Statement (.atomUmax f) := by
  refine encoding_ofWord (atom_length ..) fun h => (rawAtom (sp := f.sp) (atom_major ..) ?_).trans ?_
  · simp only [Instr.wf, Bool.and_eq_true, bne_iff_ne] at h
    exact h.2
  · rw [atom_fn, atom_fields]
    rfl
theorem Encoding.atomXchg (f : AtomForm) : Encoding.Statement (.atomXchg f) := by
  refine encoding_ofWord (atom_length ..) fun h => (rawAtom (sp := f.sp) (atom_major ..) ?_).trans ?_
  · simp only [Instr.wf, Bool.and_eq_true, bne_iff_ne] at h
    exact h.1.2
  · rw [atom_fn, atom_fields]
    rfl
theorem Encoding.atomCas (f : AtomForm) : Encoding.Statement (.atomCas f) := by
  refine encoding_ofWord (atom_length ..) fun h => (rawAtom (sp := f.sp) (atom_major ..) ?_).trans ?_
  · simp only [Instr.wf, Bool.and_eq_true, bne_iff_ne] at h
    exact h.1.2
  · rw [atom_fn, atom_fields]
    rfl
theorem Encoding.atomAddf (f : AtomForm) : Encoding.Statement (.atomAddf f) := by
  refine encoding_ofWord (atom_length ..) fun h => (rawAtom (sp := f.sp) (atom_major ..) ?_).trans ?_
  · simp only [Instr.wf, Bool.and_eq_true, bne_iff_ne] at h
    exact h.2
  · rw [atom_fn, atom_fields]
    rfl
theorem Encoding.atomAdd2h (f : AtomForm) : Encoding.Statement (.atomAdd2h f) := by
  refine encoding_ofWord (atom_length ..) fun h => (rawAtom (sp := f.sp) (atom_major ..) ?_).trans ?_
  · simp only [Instr.wf, Bool.and_eq_true, bne_iff_ne] at h
    exact h.2
  · rw [atom_fn, atom_fields]
    rfl
theorem Encoding.atomMaxf (f : AtomForm) : Encoding.Statement (.atomMaxf f) := by
  refine encoding_ofWord (atom_length ..) fun h => (rawAtom (sp := f.sp) (atom_major ..) ?_).trans ?_
  · simp only [Instr.wf, Bool.and_eq_true, bne_iff_ne] at h
    exact h.2
  · rw [atom_fn, atom_fields]
    rfl
theorem Encoding.atomMinf (f : AtomForm) : Encoding.Statement (.atomMinf f) := by
  refine encoding_ofWord (atom_length ..) fun h => (rawAtom (sp := f.sp) (atom_major ..) ?_).trans ?_
  · simp only [Instr.wf, Bool.and_eq_true, bne_iff_ne] at h
    exact h.2
  · rw [atom_fn, atom_fields]
    rfl
theorem Encoding.atomIncw (f : AtomForm) : Encoding.Statement (.atomIncw f) := by
  refine encoding_ofWord (atom_length ..) fun h => (rawAtom (sp := f.sp) (atom_major ..) ?_).trans ?_
  · simp only [Instr.wf, Bool.and_eq_true, bne_iff_ne] at h
    exact h.1.2
  · rw [atom_fn, atom_fields]
    rfl
theorem Encoding.skins (f : SkForm) : Encoding.Statement (.skins f) := by
  refine encoding_ofWord (sk_length ..) fun _ => (rawSketch (sp := f.sp) (sk_major ..)).trans ?_
  unfold decodeSketch
  rw [sk_fn, sk_fields]
  rfl
theorem Encoding.skdel (f : SkForm) : Encoding.Statement (.skdel f) := by
  refine encoding_ofWord (sk_length ..) fun _ => (rawSketch (sp := f.sp) (sk_major ..)).trans ?_
  unfold decodeSketch
  rw [sk_fn, sk_fields]
  rfl
theorem Encoding.skqry (f : SkForm) : Encoding.Statement (.skqry f) := by
  refine encoding_ofWord (sk_length ..) fun _ => (rawSketch (sp := f.sp) (sk_major ..)).trans ?_
  unfold decodeSketch
  rw [sk_fn, sk_fields]
  rfl
theorem Encoding.skrank (f : SkForm) : Encoding.Statement (.skrank f) := by
  refine encoding_ofWord (sk_length ..) fun _ => (rawSketch (sp := f.sp) (sk_major ..)).trans ?_
  unfold decodeSketch
  rw [sk_fn, sk_fields]
  rfl
theorem Encoding.skmerge (f : SkForm) : Encoding.Statement (.skmerge f) := by
  refine encoding_ofWord (sk_length ..) fun _ => (rawSketch (sp := f.sp) (sk_major ..)).trans ?_
  unfold decodeSketch
  rw [sk_fn, sk_fields]
  rfl
theorem Encoding.skfold (f : SkForm) : Encoding.Statement (.skfold f) := by
  refine encoding_ofWord (sk_length ..) fun _ => (rawSketch (sp := f.sp) (sk_major ..)).trans ?_
  unfold decodeSketch
  rw [sk_fn, sk_fields]
  rfl
theorem Encoding.skclear (f : SkForm) : Encoding.Statement (.skclear f) := by
  refine encoding_ofWord (sk_length ..) fun _ => (rawSketch (sp := f.sp) (sk_major ..)).trans ?_
  unfold decodeSketch
  rw [sk_fn, sk_fields]
  rfl
theorem Encoding.skinfo (f : SkForm) : Encoding.Statement (.skinfo f) := by
  refine encoding_ofWord (sk_length ..) fun _ => (rawSketch (sp := f.sp) (sk_major ..)).trans ?_
  unfold decodeSketch
  rw [sk_fn, sk_fields]
  rfl
theorem Encoding.brc (f : BrForm) : Encoding.Statement (.brc f) := by
  refine encoding_ofWord (br_length ..) fun _ => ?_
  change decodeRaw f.sp (f.word) = _
  unfold decodeRaw
  rw [br_major, br_fields]
  rfl
theorem Encoding.jmp (f : JForm) : Encoding.Statement (.jmp f) := by
  refine encoding_ofWord (j_length ..) fun _ => ?_
  change decodeRaw f.sp (f.word 0#1) = _
  unfold decodeRaw
  rw [j_major, j_fields, j_link]
  rfl
theorem Encoding.call (f : JForm) : Encoding.Statement (.call f) := by
  refine encoding_ofWord (j_length ..) fun _ => ?_
  change decodeRaw f.sp (f.word 1#1) = _
  unfold decodeRaw
  rw [j_major, j_fields, j_link]
  rfl
theorem Encoding.sadd (f : SrForm) : Encoding.Statement (.sadd f) := by
  refine encoding_ofWord (sr_length ..) fun _ => (rawSr (sp := f.sp) (sr_major ..)).trans ?_
  unfold decodeSr
  rw [sr_fn, sr_fields]
  rfl
theorem Encoding.ssub (f : SrForm) : Encoding.Statement (.ssub f) := by
  refine encoding_ofWord (sr_length ..) fun _ => (rawSr (sp := f.sp) (sr_major ..)).trans ?_
  unfold decodeSr
  rw [sr_fn, sr_fields]
  rfl
theorem Encoding.smul (f : SrForm) : Encoding.Statement (.smul f) := by
  refine encoding_ofWord (sr_length ..) fun _ => (rawSr (sp := f.sp) (sr_major ..)).trans ?_
  unfold decodeSr
  rw [sr_fn, sr_fields]
  rfl
theorem Encoding.smulh (f : SrForm) : Encoding.Statement (.smulh f) := by
  refine encoding_ofWord (sr_length ..) fun _ => (rawSr (sp := f.sp) (sr_major ..)).trans ?_
  unfold decodeSr
  rw [sr_fn, sr_fields]
  rfl
theorem Encoding.sand (f : SrForm) : Encoding.Statement (.sand f) := by
  refine encoding_ofWord (sr_length ..) fun _ => (rawSr (sp := f.sp) (sr_major ..)).trans ?_
  unfold decodeSr
  rw [sr_fn, sr_fields]
  rfl
theorem Encoding.sor (f : SrForm) : Encoding.Statement (.sor f) := by
  refine encoding_ofWord (sr_length ..) fun _ => (rawSr (sp := f.sp) (sr_major ..)).trans ?_
  unfold decodeSr
  rw [sr_fn, sr_fields]
  rfl
theorem Encoding.sxor (f : SrForm) : Encoding.Statement (.sxor f) := by
  refine encoding_ofWord (sr_length ..) fun _ => (rawSr (sp := f.sp) (sr_major ..)).trans ?_
  unfold decodeSr
  rw [sr_fn, sr_fields]
  rfl
theorem Encoding.sandn (f : SrForm) : Encoding.Statement (.sandn f) := by
  refine encoding_ofWord (sr_length ..) fun _ => (rawSr (sp := f.sp) (sr_major ..)).trans ?_
  unfold decodeSr
  rw [sr_fn, sr_fields]
  rfl
theorem Encoding.sshl (f : SrForm) : Encoding.Statement (.sshl f) := by
  refine encoding_ofWord (sr_length ..) fun _ => (rawSr (sp := f.sp) (sr_major ..)).trans ?_
  unfold decodeSr
  rw [sr_fn, sr_fields]
  rfl
theorem Encoding.sshrl (f : SrForm) : Encoding.Statement (.sshrl f) := by
  refine encoding_ofWord (sr_length ..) fun _ => (rawSr (sp := f.sp) (sr_major ..)).trans ?_
  unfold decodeSr
  rw [sr_fn, sr_fields]
  rfl
theorem Encoding.sshra (f : SrForm) : Encoding.Statement (.sshra f) := by
  refine encoding_ofWord (sr_length ..) fun _ => (rawSr (sp := f.sp) (sr_major ..)).trans ?_
  unfold decodeSr
  rw [sr_fn, sr_fields]
  rfl
theorem Encoding.smin (f : SrForm) : Encoding.Statement (.smin f) := by
  refine encoding_ofWord (sr_length ..) fun _ => (rawSr (sp := f.sp) (sr_major ..)).trans ?_
  unfold decodeSr
  rw [sr_fn, sr_fields]
  rfl
theorem Encoding.smax (f : SrForm) : Encoding.Statement (.smax f) := by
  refine encoding_ofWord (sr_length ..) fun _ => (rawSr (sp := f.sp) (sr_major ..)).trans ?_
  unfold decodeSr
  rw [sr_fn, sr_fields]
  rfl
theorem Encoding.sumin (f : SrForm) : Encoding.Statement (.sumin f) := by
  refine encoding_ofWord (sr_length ..) fun _ => (rawSr (sp := f.sp) (sr_major ..)).trans ?_
  unfold decodeSr
  rw [sr_fn, sr_fields]
  rfl
theorem Encoding.sumax (f : SrForm) : Encoding.Statement (.sumax f) := by
  refine encoding_ofWord (sr_length ..) fun _ => (rawSr (sp := f.sp) (sr_major ..)).trans ?_
  unfold decodeSr
  rw [sr_fn, sr_fields]
  rfl
theorem Encoding.sseteq (f : SrForm) : Encoding.Statement (.sseteq f) := by
  refine encoding_ofWord (sr_length ..) fun _ => (rawSr (sp := f.sp) (sr_major ..)).trans ?_
  unfold decodeSr
  rw [sr_fn, sr_fields]
  rfl
theorem Encoding.ssetlt (f : SrForm) : Encoding.Statement (.ssetlt f) := by
  refine encoding_ofWord (sr_length ..) fun _ => (rawSr (sp := f.sp) (sr_major ..)).trans ?_
  unfold decodeSr
  rw [sr_fn, sr_fields]
  rfl
theorem Encoding.ssetltu (f : SrForm) : Encoding.Statement (.ssetltu f) := by
  refine encoding_ofWord (sr_length ..) fun _ => (rawSr (sp := f.sp) (sr_major ..)).trans ?_
  unfold decodeSr
  rw [sr_fn, sr_fields]
  rfl
theorem Encoding.ssel (f : SrForm) : Encoding.Statement (.ssel f) := by
  refine encoding_ofWord (sr_length ..) fun _ => (rawSr (sp := f.sp) (sr_major ..)).trans ?_
  unfold decodeSr
  rw [sr_fn, sr_fields]
  rfl
theorem Encoding.smov (f : SmovForm) : Encoding.Statement (.smov f) := by
  refine encoding_ofWord (smov_length ..) fun _ => (rawSr (sp := f.sp) (smov_major ..)).trans ?_
  unfold decodeSr
  rw [smov_fn, smov_unused, smov_fields]
  rfl
theorem Encoding.sld (f : SmemForm) : Encoding.Statement (.sld f) := by
  refine encoding_ofWord (smem_length ..) fun _ => (rawSr (sp := f.sp) (smem_major ..)).trans ?_
  unfold decodeSr
  rw [smem_fn, smem_unused, smem_fields]
  rfl
theorem Encoding.sldd (f : SmemForm) : Encoding.Statement (.sldd f) := by
  refine encoding_ofWord (smem_length ..) fun _ => (rawSr (sp := f.sp) (smem_major ..)).trans ?_
  unfold decodeSr
  rw [smem_fn, smem_unused, smem_fields]
  rfl
theorem Encoding.sst (f : SmemForm) : Encoding.Statement (.sst f) := by
  refine encoding_ofWord (smem_length ..) fun _ => (rawSr (sp := f.sp) (smem_major ..)).trans ?_
  unfold decodeSr
  rw [smem_fn, smem_unused, smem_fields]
  rfl
theorem Encoding.sstd (f : SmemForm) : Encoding.Statement (.sstd f) := by
  refine encoding_ofWord (smem_length ..) fun _ => (rawSr (sp := f.sp) (smem_major ..)).trans ?_
  unfold decodeSr
  rw [smem_fn, smem_unused, smem_fields]
  rfl
theorem Encoding.saddi (f : SiForm) : Encoding.Statement (.saddi f) := by
  refine encoding_ofWord (si_length ..) fun _ => ?_
  change decodeRaw f.sp (f.word) = _
  unfold decodeRaw
  rw [si_major, si_fields]
  rfl
theorem Encoding.rldw (f : RmForm) : Encoding.Statement (.rldw f) := by
  refine encoding_ofWord (rm_length ..) fun _ => (rawRm (sp := f.sp) (rm_major ..)).trans ?_
  unfold decodeRm
  rw [rm_fn, rm_fields]
  rfl
theorem Encoding.rldd (f : RmForm) : Encoding.Statement (.rldd f) := by
  refine encoding_ofWord (rm_length ..) fun _ => (rawRm (sp := f.sp) (rm_major ..)).trans ?_
  unfold decodeRm
  rw [rm_fn, rm_fields]
  rfl
theorem Encoding.rstw (f : RmForm) : Encoding.Statement (.rstw f) := by
  refine encoding_ofWord (rm_length ..) fun _ => (rawRm (sp := f.sp) (rm_major ..)).trans ?_
  unfold decodeRm
  rw [rm_fn, rm_fields]
  rfl
theorem Encoding.rstd (f : RmForm) : Encoding.Statement (.rstd f) := by
  refine encoding_ofWord (rm_length ..) fun _ => (rawRm (sp := f.sp) (rm_major ..)).trans ?_
  unfold decodeRm
  rw [rm_fn, rm_fields]
  rfl
theorem Encoding.raddi (f : RmForm) : Encoding.Statement (.raddi f) := by
  refine encoding_ofWord (rm_length ..) fun _ => (rawRm (sp := f.sp) (rm_major ..)).trans ?_
  unfold decodeRm
  rw [rm_fn, rm_fields]
  rfl
theorem Encoding.raddf (f : RmForm) : Encoding.Statement (.raddf f) := by
  refine encoding_ofWord (rm_length ..) fun _ => (rawRm (sp := f.sp) (rm_major ..)).trans ?_
  unfold decodeRm
  rw [rm_fn, rm_fields]
  rfl
theorem Encoding.rmaxf (f : RmForm) : Encoding.Statement (.rmaxf f) := by
  refine encoding_ofWord (rm_length ..) fun _ => (rawRm (sp := f.sp) (rm_major ..)).trans ?_
  unfold decodeRm
  rw [rm_fn, rm_fields]
  rfl
theorem Encoding.rcas (f : RmForm) : Encoding.Statement (.rcas f) := by
  refine encoding_ofWord (rm_length ..) fun _ => (rawRm (sp := f.sp) (rm_major ..)).trans ?_
  unfold decodeRm
  rw [rm_fn, rm_fields]
  rfl
theorem Encoding.rxchg (f : RmForm) : Encoding.Statement (.rxchg f) := by
  refine encoding_ofWord (rm_length ..) fun _ => (rawRm (sp := f.sp) (rm_major ..)).trans ?_
  unfold decodeRm
  rw [rm_fn, rm_fields]
  rfl
theorem Encoding.rredf (f : RmForm) : Encoding.Statement (.rredf f) := by
  refine encoding_ofWord (rm_length ..) fun _ => (rawRm (sp := f.sp) (rm_major ..)).trans ?_
  unfold decodeRm
  rw [rm_fn, rm_fields]
  rfl
theorem Encoding.rredh (f : RmForm) : Encoding.Statement (.rredh f) := by
  refine encoding_ofWord (rm_length ..) fun _ => (rawRm (sp := f.sp) (rm_major ..)).trans ?_
  unfold decodeRm
  rw [rm_fn, rm_fields]
  rfl
theorem Encoding.gang (f : EpForm) : Encoding.Statement (.gang f) := by
  refine encoding_ofWord (e_length ..) fun _ => (rawMatrix (sp := f.sp) (e_major ..)).trans ?_
  unfold decodeMatrix
  rw [e_class, e_free_p, ep_fields]
  rfl
theorem Encoding.mreq (f : EpForm) : Encoding.Statement (.mreq f) := by
  refine encoding_ofWord (e_length ..) fun _ => (rawMatrix (sp := f.sp) (e_major ..)).trans ?_
  unfold decodeMatrix
  rw [e_class, e_free_p, ep_fields]
  rfl
theorem Encoding.mreqTry (f : EpForm) : Encoding.Statement (.mreqTry f) := by
  refine encoding_ofWord (e_length ..) fun _ => (rawMatrix (sp := f.sp) (e_major ..)).trans ?_
  unfold decodeMatrix
  rw [e_class, e_free_p, ep_fields]
  rfl
theorem Encoding.mwl (f : EpqForm) : Encoding.Statement (.mwl f) := by
  refine encoding_ofWord (e_length ..) fun _ => (rawMatrix (sp := f.sp) (e_major ..)).trans ?_
  unfold decodeMatrix
  rw [e_class, e_free_pq, epq_fields]
  rfl
theorem Encoding.mpass (f : EpqForm) : Encoding.Statement (.mpass f) := by
  refine encoding_ofWord (e_length ..) fun _ => (rawMatrix (sp := f.sp) (e_major ..)).trans ?_
  unfold decodeMatrix
  rw [e_class, e_free_pq, epq_fields]
  rfl
theorem Encoding.mrdy (f : EsForm) : Encoding.Statement (.mrdy f) := by
  refine encoding_ofWord (e_length ..) fun _ => (rawMatrix (sp := f.sp) (e_major ..)).trans ?_
  unfold decodeMatrix
  rw [e_class, e_free_none]
  rfl
theorem Encoding.mwait (f : EpqForm) : Encoding.Statement (.mwait f) := by
  refine encoding_ofWord (e_length ..) fun _ => (rawMatrix (sp := f.sp) (e_major ..)).trans ?_
  unfold decodeMatrix
  rw [e_class, e_free_pq, epq_fields]
  rfl
theorem Encoding.mdrain (f : EpqForm) : Encoding.Statement (.mdrain f) := by
  refine encoding_ofWord (e_length ..) fun _ => (rawMatrix (sp := f.sp) (e_major ..)).trans ?_
  unfold decodeMatrix
  rw [e_class, e_free_pq, epq_fields]
  rfl
theorem Encoding.mrel (f : EsForm) : Encoding.Statement (.mrel f) := by
  refine encoding_ofWord (e_length ..) fun _ => (rawMatrix (sp := f.sp) (e_major ..)).trans ?_
  unfold decodeMatrix
  rw [e_class, e_free_none]
  rfl
theorem Encoding.mscale (f : EpForm) : Encoding.Statement (.mscale f) := by
  refine encoding_ofWord (e_length ..) fun _ => (rawMatrix (sp := f.sp) (e_major ..)).trans ?_
  unfold decodeMatrix
  rw [e_class, e_free_p, ep_fields]
  rfl
theorem Encoding.touch (f : EpForm) : Encoding.Statement (.touch f) := by
  refine encoding_ofWord (e_length ..) fun _ => (rawEngine (sp := f.sp) (e_major ..)).trans ?_
  unfold decodeEngine
  rw [e_class, e_free_p, ep_fields]
  rfl
theorem Encoding.close (f : EpForm) : Encoding.Statement (.close f) := by
  refine encoding_ofWord (e_length ..) fun _ => (rawEngine (sp := f.sp) (e_major ..)).trans ?_
  unfold decodeEngine
  rw [e_class, e_free_p, ep_fields]
  rfl
theorem Encoding.waitb (f : EpForm) : Encoding.Statement (.waitb f) := by
  refine encoding_ofWord (e_length ..) fun _ => (rawEngine (sp := f.sp) (e_major ..)).trans ?_
  unfold decodeEngine
  rw [e_class, e_free_p, ep_fields]
  rfl
theorem Encoding.bind (f : EpqForm) : Encoding.Statement (.bind f) := by
  refine encoding_ofWord (e_length ..) fun _ => (rawEngine (sp := f.sp) (e_major ..)).trans ?_
  unfold decodeEngine
  rw [e_class, e_free_pq, epq_fields]
  rfl
theorem Encoding.unbind (f : EpForm) : Encoding.Statement (.unbind f) := by
  refine encoding_ofWord (e_length ..) fun _ => (rawEngine (sp := f.sp) (e_major ..)).trans ?_
  unfold decodeEngine
  rw [e_class, e_free_p, ep_fields]
  rfl
theorem Encoding.seal (f : EpqForm) : Encoding.Statement (.seal f) := by
  refine encoding_ofWord (e_length ..) fun _ => (rawEngine (sp := f.sp) (e_major ..)).trans ?_
  unfold decodeEngine
  rw [e_class, e_free_pq, epq_fields]
  rfl
theorem Encoding.unseal (f : EpForm) : Encoding.Statement (.unseal f) := by
  refine encoding_ofWord (e_length ..) fun _ => (rawEngine (sp := f.sp) (e_major ..)).trans ?_
  unfold decodeEngine
  rw [e_class, e_free_p, ep_fields]
  rfl
theorem Encoding.emit (f : EmitForm) : Encoding.Statement (.emit f) := by
  refine encoding_ofWord (e_length ..) fun _ => (rawEngine (sp := f.sp) (e_major ..)).trans ?_
  unfold decodeEngine
  rw [e_class, e_emit, emit_fields]
  rfl
theorem Encoding.emitTry (f : EmitForm) : Encoding.Statement (.emitTry f) := by
  refine encoding_ofWord (e_length ..) fun _ => (rawEngine (sp := f.sp) (e_major ..)).trans ?_
  unfold decodeEngine
  rw [e_class, e_emit, emit_fields]
  rfl
theorem Encoding.qctlStat (f : EpqForm) : Encoding.Statement (.qctlStat f) := by
  refine encoding_ofWord (e_length ..) fun _ => (rawEngine (sp := f.sp) (e_major ..)).trans ?_
  unfold decodeEngine
  rw [e_class, e_free_pq, epq_fields]
  rfl
theorem Encoding.qctlEnable (f : EpqForm) : Encoding.Statement (.qctlEnable f) := by
  refine encoding_ofWord (e_length ..) fun _ => (rawEngine (sp := f.sp) (e_major ..)).trans ?_
  unfold decodeEngine
  rw [e_class, e_free_pq, epq_fields]
  rfl
theorem Encoding.qctlDisable (f : EpqForm) : Encoding.Statement (.qctlDisable f) := by
  refine encoding_ofWord (e_length ..) fun _ => (rawEngine (sp := f.sp) (e_major ..)).trans ?_
  unfold decodeEngine
  rw [e_class, e_free_pq, epq_fields]
  rfl
theorem Encoding.qctlInit (f : EpqForm) : Encoding.Statement (.qctlInit f) := by
  refine encoding_ofWord (e_length ..) fun _ => (rawEngine (sp := f.sp) (e_major ..)).trans ?_
  unfold decodeEngine
  rw [e_class, e_free_pq, epq_fields]
  rfl
theorem Encoding.qctlPeriod (f : EpqForm) : Encoding.Statement (.qctlPeriod f) := by
  refine encoding_ofWord (e_length ..) fun _ => (rawEngine (sp := f.sp) (e_major ..)).trans ?_
  unfold decodeEngine
  rw [e_class, e_free_pq, epq_fields]
  rfl
theorem Encoding.qctlSupervisor (f : EpqForm) : Encoding.Statement (.qctlSupervisor f) := by
  refine encoding_ofWord (e_length ..) fun _ => (rawEngine (sp := f.sp) (e_major ..)).trans ?_
  unfold decodeEngine
  rw [e_class, e_free_pq, epq_fields]
  rfl
theorem Encoding.qctlClear (f : EpqForm) : Encoding.Statement (.qctlClear f) := by
  refine encoding_ofWord (e_length ..) fun _ => (rawEngine (sp := f.sp) (e_major ..)).trans ?_
  unfold decodeEngine
  rw [e_class, e_free_pq, epq_fields]
  rfl
theorem Encoding.cinit (f : SyncForm) : Encoding.Statement (.cinit f) := by
  refine encoding_ofWord (e_length ..) fun _ => (rawEngine (sp := f.sp) (e_major ..)).trans ?_
  unfold decodeEngine
  rw [e_class, e_sync, sync_fields]
  rfl
theorem Encoding.cinc (f : SyncForm) : Encoding.Statement (.cinc f) := by
  refine encoding_ofWord (e_length ..) fun _ => (rawEngine (sp := f.sp) (e_major ..)).trans ?_
  unfold decodeEngine
  rw [e_class, e_sync, sync_fields]
  rfl
theorem Encoding.cincRemote (f : SyncForm) : Encoding.Statement (.cincRemote f) := by
  refine encoding_ofWord (e_length ..) fun _ => (rawEngine (sp := f.sp) (e_major ..)).trans ?_
  unfold decodeEngine
  rw [e_class, e_sync, sync_fields]
  rfl
theorem Encoding.cwait (f : SyncForm) : Encoding.Statement (.cwait f) := by
  refine encoding_ofWord (e_length ..) fun _ => (rawEngine (sp := f.sp) (e_major ..)).trans ?_
  unfold decodeEngine
  rw [e_class, e_sync, sync_fields]
  rfl
theorem Encoding.cwaitPoll (f : SyncForm) : Encoding.Statement (.cwaitPoll f) := by
  refine encoding_ofWord (e_length ..) fun _ => (rawEngine (sp := f.sp) (e_major ..)).trans ?_
  unfold decodeEngine
  rw [e_class, e_sync, sync_fields]
  rfl
theorem Encoding.barinit (f : SyncForm) : Encoding.Statement (.barinit f) := by
  refine encoding_ofWord (e_length ..) fun _ => (rawEngine (sp := f.sp) (e_major ..)).trans ?_
  unfold decodeEngine
  rw [e_class, e_sync, sync_fields]
  rfl
theorem Encoding.barinitTeam (f : SyncForm) : Encoding.Statement (.barinitTeam f) := by
  refine encoding_ofWord (e_length ..) fun _ => (rawEngine (sp := f.sp) (e_major ..)).trans ?_
  unfold decodeEngine
  rw [e_class, e_sync, sync_fields]
  rfl
theorem Encoding.bararr (f : SyncForm) : Encoding.Statement (.bararr f) := by
  refine encoding_ofWord (e_length ..) fun _ => (rawEngine (sp := f.sp) (e_major ..)).trans ?_
  unfold decodeEngine
  rw [e_class, e_sync, sync_fields]
  rfl
theorem Encoding.barwait (f : SyncForm) : Encoding.Statement (.barwait f) := by
  refine encoding_ofWord (e_length ..) fun _ => (rawEngine (sp := f.sp) (e_major ..)).trans ?_
  unfold decodeEngine
  rw [e_class, e_sync, sync_fields]
  rfl
theorem Encoding.bartest (f : SyncForm) : Encoding.Statement (.bartest f) := by
  refine encoding_ofWord (e_length ..) fun _ => (rawEngine (sp := f.sp) (e_major ..)).trans ?_
  unfold decodeEngine
  rw [e_class, e_sync, sync_fields]
  rfl
theorem Encoding.synkill (f : SyncForm) : Encoding.Statement (.synkill f) := by
  refine encoding_ofWord (e_length ..) fun _ => (rawEngine (sp := f.sp) (e_major ..)).trans ?_
  unfold decodeEngine
  rw [e_class, e_sync, sync_fields]
  rfl
theorem Encoding.trig (f : EsForm) : Encoding.Statement (.trig f) := by
  refine encoding_ofWord (e_length ..) fun _ => (rawEngine (sp := f.sp) (e_major ..)).trans ?_
  unfold decodeEngine
  rw [e_class, e_free_none]
  rfl
theorem Encoding.cgload (f : EpqForm) : Encoding.Statement (.cgload f) := by
  refine encoding_ofWord (e_length ..) fun _ => (rawEngine (sp := f.sp) (e_major ..)).trans ?_
  unfold decodeEngine
  rw [e_class, e_free_pq, epq_fields]
  rfl
theorem Encoding.cgrun (f : EpqkForm) : Encoding.Statement (.cgrun f) := by
  refine encoding_ofWord (e_length ..) fun _ => (rawEngine (sp := f.sp) (e_major ..)).trans ?_
  unfold decodeEngine
  rw [e_class, epqk_fields]
  rfl
theorem Encoding.cgwait (f : EpqForm) : Encoding.Statement (.cgwait f) := by
  refine encoding_ofWord (e_length ..) fun _ => (rawEngine (sp := f.sp) (e_major ..)).trans ?_
  unfold decodeEngine
  rw [e_class, e_free_pq, epq_fields]
  rfl
theorem Encoding.fence (f : FenceForm) : Encoding.Statement (.fence f) := by
  refine encoding_ofWord (e_length ..) fun _ => (rawSystem (sp := f.sp) (e_major ..)).trans ?_
  unfold decodeSystem
  rw [e_class, e_fence, fence_fields]
  rfl
theorem Encoding.jmpi (f : EpForm) : Encoding.Statement (.jmpi f) := by
  refine encoding_ofWord (e_length ..) fun _ => (rawSystem (sp := f.sp) (e_major ..)).trans ?_
  unfold decodeSystem
  rw [e_class, e_free_p, ep_fields]
  rfl
theorem Encoding.jmpiLink (f : EpForm) : Encoding.Statement (.jmpiLink f) := by
  refine encoding_ofWord (e_length ..) fun _ => (rawSystem (sp := f.sp) (e_major ..)).trans ?_
  unfold decodeSystem
  rw [e_class, e_free_p, ep_fields]
  rfl
theorem Encoding.exit (f : EsForm) : Encoding.Statement (.exit f) := by
  refine encoding_ofWord (e_length ..) fun _ => (rawSystem (sp := f.sp) (e_major ..)).trans ?_
  unfold decodeSystem
  rw [e_class, e_free_none]
  rfl
theorem Encoding.trap (f : EkForm) : Encoding.Statement (.trap f) := by
  refine encoding_ofWord (e_length ..) fun _ => (rawSystem (sp := f.sp) (e_major ..)).trans ?_
  unfold decodeSystem
  rw [e_class, e_free_k, ek_fields]
  rfl
theorem Encoding.yield (f : EsForm) : Encoding.Statement (.yield f) := by
  refine encoding_ofWord (e_length ..) fun _ => (rawSystem (sp := f.sp) (e_major ..)).trans ?_
  unfold decodeSystem
  rw [e_class, e_free_none]
  rfl
theorem Encoding.rfree (f : EpqForm) : Encoding.Statement (.rfree f) := by
  refine encoding_ofWord (e_length ..) fun _ => (rawSystem (sp := f.sp) (e_major ..)).trans ?_
  unfold decodeSystem
  rw [e_class, e_free_pq, epq_fields]
  rfl
theorem Encoding.csrr (f : EpqkForm) : Encoding.Statement (.csrr f) := by
  refine encoding_ofWord (e_length ..) fun _ => (rawSystem (sp := f.sp) (e_major ..)).trans ?_
  unfold decodeSystem
  rw [e_class, epqk_fields]
  rfl
theorem Encoding.csrw (f : EpqkForm) : Encoding.Statement (.csrw f) := by
  refine encoding_ofWord (e_length ..) fun _ => (rawSystem (sp := f.sp) (e_major ..)).trans ?_
  unfold decodeSystem
  rw [e_class, epqk_fields]
  rfl
theorem Encoding.sldi (f : EpqkForm) : Encoding.Statement (.sldi f) := by
  refine encoding_ofWord (e_length ..) fun _ => (rawSystem (sp := f.sp) (e_major ..)).trans ?_
  unfold decodeSystem
  rw [e_class, epqk_fields]
  rfl
theorem Encoding.sldhi (f : EpqkForm) : Encoding.Statement (.sldhi f) := by
  refine encoding_ofWord (e_length ..) fun _ => (rawSystem (sp := f.sp) (e_major ..)).trans ?_
  unfold decodeSystem
  rw [e_class, epqk_fields]
  rfl
theorem Encoding.rfeRetry (f : EsForm) : Encoding.Statement (.rfeRetry f) := by
  refine encoding_ofWord (e_length ..) fun _ => (rawSystem (sp := f.sp) (e_major ..)).trans ?_
  unfold decodeSystem
  rw [e_class, e_free_none]
  rfl
theorem Encoding.rfeSkip (f : EsForm) : Encoding.Statement (.rfeSkip f) := by
  refine encoding_ofWord (e_length ..) fun _ => (rawSystem (sp := f.sp) (e_major ..)).trans ?_
  unfold decodeSystem
  rw [e_class, e_free_none]
  rfl
theorem Encoding.rfeReg (f : EpForm) : Encoding.Statement (.rfeReg f) := by
  refine encoding_ofWord (e_length ..) fun _ => (rawSystem (sp := f.sp) (e_major ..)).trans ?_
  unfold decodeSystem
  rw [e_class, e_free_none, e_free_p, ep_fields]
  have h0 : ¬(2#7 ++ 0#6 ++ f.p ++ 0#5 ++ 0#6 ++ 0#1 ++ 0#1 : BitVec 32) = 0#32 := e_top (c := 0#7) (r := 0#6) (t := 0#6) (by decide)
  have h1 : ¬(2#7 ++ 0#6 ++ f.p ++ 0#5 ++ 0#6 ++ 0#1 ++ 0#1 : BitVec 32) = 33554432#32 := e_top (c := 1#7) (r := 0#6) (t := 0#6) (by decide)
  simp only [h0, h1, if_false]
  rfl
theorem Encoding.ctxsave (f : CtxForm) : Encoding.Statement (.ctxsave f) := by
  refine encoding_ofWord (e_length ..) fun _ => (rawSystem (sp := f.sp) (e_major ..)).trans ?_
  unfold decodeSystem
  rw [e_class, e_ctx, ctx_fields]
  rfl
theorem Encoding.ctxload (f : CtxForm) : Encoding.Statement (.ctxload f) := by
  refine encoding_ofWord (e_length ..) fun _ => (rawSystem (sp := f.sp) (e_major ..)).trans ?_
  unfold decodeSystem
  rw [e_class, e_ctx, ctx_fields]
  rfl
theorem Encoding.dusk (f : DuskForm) : Encoding.Statement (.dusk f) := by
  refine encoding_ofWord (e_length ..) fun _ => (rawSystem (sp := f.sp) (e_major ..)).trans ?_
  unfold decodeSystem
  rw [e_class, e_dusk, dusk_fields]
  rfl
theorem Encoding.walkCfg (f : EpForm) : Encoding.Statement (.walkCfg f) := by
  refine encoding_ofWord (e_length ..) fun _ => (rawSystem (sp := f.sp) (e_major ..)).trans ?_
  unfold decodeSystem
  rw [e_class, e_free_p, ep_fields]
  rfl
theorem Encoding.walkRun (f : EqForm) : Encoding.Statement (.walkRun f) := by
  refine encoding_ofWord (e_length ..) fun _ => (rawSystem (sp := f.sp) (e_major ..)).trans ?_
  unfold decodeSystem
  rw [e_class, e_free_p, e_free_q, eq_fields]
  have h0 : ¬(1#7 ++ f.q ++ 0#6 ++ 0#5 ++ 0#6 ++ 0#1 ++ 0#1 : BitVec 32) = 0#32 := e_top (c := 0#7) (r := 0#6) (t := 0#6) (by decide)
  simp only [h0, if_false]
  rfl
theorem Encoding.aadd (f : AaddForm) : Encoding.Statement (.aadd f) := by
  refine encoding_ofWord (e_length ..) fun _ => (rawSystem (sp := f.sp) (e_major ..)).trans ?_
  unfold decodeSystem
  rw [e_class, e_aadd, aadd_fields]
  rfl
theorem Encoding.aset (f : AsetForm) : Encoding.Statement (.aset f) := by
  refine encoding_ofWord (e_length ..) fun _ => (rawSystem (sp := f.sp) (e_major ..)).trans ?_
  unfold decodeSystem
  rw [e_class, e_aset, aset_fields]
  rfl
theorem Encoding.amov (f : CtxForm) : Encoding.Statement (.amov f) := by
  refine encoding_ofWord (e_length ..) fun _ => (rawSystem (sp := f.sp) (e_major ..)).trans ?_
  unfold decodeSystem
  rw [e_class, e_ctx, ctx_fields]
  rfl
theorem Encoding.aget (f : AgetForm) : Encoding.Statement (.aget f) := by
  refine encoding_ofWord (e_length ..) fun _ => (rawSystem (sp := f.sp) (e_major ..)).trans ?_
  unfold decodeSystem
  rw [e_class, e_aget, aget_fields]
  rfl
theorem Encoding.pfres : Encoding.Statement .pfres := encoding_ofEvent rfl
theorem Encoding.prectl : Encoding.Statement .prectl := encoding_ofEvent rfl
theorem Encoding.vfcfg : Encoding.Statement .vfcfg := encoding_ofEvent rfl
theorem Encoding.vfsalt : Encoding.Statement .vfsalt := encoding_ofEvent rfl
theorem Encoding.pwrcap : Encoding.Statement .pwrcap := encoding_ofEvent rfl
theorem Encoding.rcRegisterRead : Encoding.Statement .rcRegisterRead := encoding_ofEvent rfl
theorem Encoding.pdnStore : Encoding.Statement .pdnStore := encoding_ofEvent rfl
theorem Encoding.rsvReserve : Encoding.Statement .rsvReserve := encoding_ofEvent rfl
theorem Encoding.coalesceTimeout : Encoding.Statement .coalesceTimeout := encoding_ofEvent rfl
theorem Encoding.placeBand : Encoding.Statement .placeBand := encoding_ofEvent rfl
theorem Encoding.activationReserving : Encoding.Statement .activationReserving := encoding_ofEvent rfl
theorem Encoding.issuePriorityAgeing : Encoding.Statement .issuePriorityAgeing := encoding_ofEvent rfl
theorem Encoding.parkedSplitExchange : Encoding.Statement .parkedSplitExchange := encoding_ofEvent rfl
theorem Encoding.gridTrigger : Encoding.Statement .gridTrigger := encoding_ofEvent rfl
theorem Encoding.gridComplete : Encoding.Statement .gridComplete := encoding_ofEvent rfl
theorem Encoding.forcedStop : Encoding.Statement .forcedStop := encoding_ofEvent rfl
theorem Encoding.blockFill : Encoding.Statement .blockFill := encoding_ofEvent rfl
theorem Encoding.loadReturn : Encoding.Statement .loadReturn := encoding_ofEvent rfl
theorem Encoding.renewalReply : Encoding.Statement .renewalReply := encoding_ofEvent rfl
theorem Encoding.leaseExpiry : Encoding.Statement .leaseExpiry := encoding_ofEvent rfl
theorem Encoding.trackedRead : Encoding.Statement .trackedRead := encoding_ofEvent rfl
theorem Encoding.leaseLoad : Encoding.Statement .leaseLoad := encoding_ofEvent rfl
theorem Encoding.ownershipRequest : Encoding.Statement .ownershipRequest := encoding_ofEvent rfl
theorem Encoding.homeWrite : Encoding.Statement .homeWrite := encoding_ofEvent rfl
theorem Encoding.commutativeUpdate : Encoding.Statement .commutativeUpdate := encoding_ofEvent rfl
theorem Encoding.partialDelivery : Encoding.Statement .partialDelivery := encoding_ofEvent rfl
theorem Encoding.invalidation : Encoding.Statement .invalidation := encoding_ofEvent rfl
theorem Encoding.acknowledgement : Encoding.Statement .acknowledgement := encoding_ofEvent rfl
theorem Encoding.l1Evict : Encoding.Statement .l1Evict := encoding_ofEvent rfl
theorem Encoding.evictionNotice : Encoding.Statement .evictionNotice := encoding_ofEvent rfl
theorem Encoding.dramFill : Encoding.Statement .dramFill := encoding_ofEvent rfl
theorem Encoding.sideLogReplay : Encoding.Statement .sideLogReplay := encoding_ofEvent rfl
theorem Encoding.copyArrival : Encoding.Statement .copyArrival := encoding_ofEvent rfl
theorem Encoding.matrixGrant : Encoding.Statement .matrixGrant := encoding_ofEvent rfl
theorem Encoding.matrixOperationComplete : Encoding.Statement .matrixOperationComplete := encoding_ofEvent rfl
theorem Encoding.packetArrival : Encoding.Statement .packetArrival := encoding_ofEvent rfl
theorem Encoding.custodyAck : Encoding.Statement .custodyAck := encoding_ofEvent rfl
theorem Encoding.linkDown : Encoding.Statement .linkDown := encoding_ofEvent rfl
theorem Encoding.linkTrainingComplete : Encoding.Statement .linkTrainingComplete := encoding_ofEvent rfl
theorem Encoding.lossOfHome : Encoding.Statement .lossOfHome := encoding_ofEvent rfl
theorem Encoding.sharerPresumedUnreachable : Encoding.Statement .sharerPresumedUnreachable := encoding_ofEvent rfl
theorem Encoding.remoteUnreachable : Encoding.Statement .remoteUnreachable := encoding_ofEvent rfl
theorem Encoding.pathRestored : Encoding.Statement .pathRestored := encoding_ofEvent rfl
theorem Encoding.runActivate : Encoding.Statement .runActivate := encoding_ofEvent rfl
theorem Encoding.chunkComplete : Encoding.Statement .chunkComplete := encoding_ofEvent rfl
theorem Encoding.chunkSkip : Encoding.Statement .chunkSkip := encoding_ofEvent rfl
theorem Encoding.parentArrival : Encoding.Statement .parentArrival := encoding_ofEvent rfl
theorem Encoding.watchdogFire : Encoding.Statement .watchdogFire := encoding_ofEvent rfl
theorem Encoding.emitSpaceFreed : Encoding.Statement .emitSpaceFreed := encoding_ofEvent rfl
theorem Encoding.pcieRequest : Encoding.Statement .pcieRequest := encoding_ofEvent rfl
theorem Encoding.completionTimeout : Encoding.Statement .completionTimeout := encoding_ofEvent rfl
theorem Encoding.getVersion : Encoding.Statement .getVersion := encoding_ofEvent rfl
theorem Encoding.getCapabilities : Encoding.Statement .getCapabilities := encoding_ofEvent rfl
theorem Encoding.negotiateAlgorithms : Encoding.Statement .negotiateAlgorithms := encoding_ofEvent rfl
theorem Encoding.getDigests : Encoding.Statement .getDigests := encoding_ofEvent rfl
theorem Encoding.getCertificate : Encoding.Statement .getCertificate := encoding_ofEvent rfl
theorem Encoding.challenge : Encoding.Statement .challenge := encoding_ofEvent rfl
theorem Encoding.getMeasurements : Encoding.Statement .getMeasurements := encoding_ofEvent rfl
theorem Encoding.unsupportedRequest : Encoding.Statement .unsupportedRequest := encoding_ofEvent rfl
theorem Encoding.dawn : Encoding.Statement .dawn := encoding_ofEvent rfl
theorem Encoding.coolantBreach : Encoding.Statement .coolantBreach := encoding_ofEvent rfl
theorem Encoding.coolantRestored : Encoding.Statement .coolantRestored := encoding_ofEvent rfl
theorem Encoding.correctedError : Encoding.Statement .correctedError := encoding_ofEvent rfl
theorem Encoding.uncorrectableError : Encoding.Statement .uncorrectableError := encoding_ofEvent rfl
theorem Encoding.coreRetire : Encoding.Statement .coreRetire := encoding_ofEvent rfl
theorem Encoding.clusterRetire : Encoding.Statement .clusterRetire := encoding_ofEvent rfl
theorem Encoding.replaceAdvisory : Encoding.Statement .replaceAdvisory := encoding_ofEvent rfl
theorem Encoding.illegalEncoding : Encoding.Statement .illegalEncoding := encoding_ofEvent rfl
theorem Encoding.fetchFault : Encoding.Statement .fetchFault := encoding_ofEvent rfl

end Sys2Proof.Laws
end

