-- ==== Sys2Proof/Laws/Regs.lean ====
section
/-!
SUPPORT. Reading a lane, scalar or address register after a write, and what the common end of a lane operation leaves.
-/
namespace Sys2Proof.Machine

set_option Elab.async false

/-- An element of a padded list. -/
theorem nth_padTo {α : Type} (n : Nat) (d : α) (l : List α) (i : Nat) (h : i < n) : nth (padTo n d l) i d = nth l i d := by
  simp only [nth, padTo, List.getD_eq_getElem?_getD, List.getElem?_take_of_lt h]
  by_cases hi : i < l.length
  · rw [List.getElem?_append_left hi]
  · rw [List.getElem?_append_right (by omega), List.getElem?_replicate, List.getElem?_eq_none (by omega : l.length ≤ i)]
    split <;> rfl

theorem length_padTo {α : Type} (n : Nat) (d : α) (l : List α) : (padTo n d l).length = n := by
  simp [padTo]

/-- An element after `setNth`. -/
theorem nth_setNth {α : Type} (n i j : Nat) (v d : α) (l : List α) (h : j < n) :
    nth (setNth n i v d l) j d = if j = i then v else nth l j d := by
  have hp := nth_padTo n d l j h
  have hl := length_padTo n d l
  simp only [nth, setNth, List.getD_eq_getElem?_getD, List.getElem?_set] at *
  by_cases hj : i = j
  · simp [hj, hl, h]
  · simp [hj, Ne.symm hj, hp]

/-- The values of a block after a write, wherever the block is. -/
theorem Block.vals_put (b : Block) (w i : Nat) (mask : Mask) (v : Nat → Word) :
    (b.put w i mask v).vals =
      (padTo (8 * w) 0 b.vals).mapIdx fun j x => if j / w == i && mask.getLsbD (j % w) then v (j % w) else x := by
  cases b <;> rfl

/-- Reading a block after a write of register `i` of it. -/
theorem Block.get_put (b : Block) (w i : Nat) (mask : Mask) (v : Nat → Word) (j L : Nat) (hi : j < 8) (hL : L < w) :
    (b.put w i mask v).get (j * w + L) = if j = i ∧ mask.getLsbD L = true then v L else b.get (j * w + L) := by
  have hlt : j * w + L < 8 * w := by
    have : j * w ≤ 7 * w := Nat.mul_le_mul_right _ (by omega)
    omega
  have h1 : (j * w + L) / w = j := by
    rw [Nat.add_comm, Nat.add_mul_div_right _ _ (by omega : 0 < w), Nat.div_eq_of_lt hL]; omega
  have h2 : (j * w + L) % w = L := by
    rw [Nat.add_comm, Nat.add_mul_mod_self_right, Nat.mod_eq_of_lt hL]
  have hp := nth_padTo (8 * w) (0 : Word) b.vals (j * w + L) hlt
  simp only [nth, List.getD_eq_getElem?_getD, Block.get, Block.vals_put] at *
  rw [List.getElem?_mapIdx]
  have hs : (padTo (8 * w) (0 : Word) b.vals)[j * w + L]? = some ((padTo (8 * w) 0 b.vals).getD (j * w + L) 0) := by
    rw [List.getD_eq_getElem?_getD, List.getElem?_eq_getElem (by rw [length_padTo]; exact hlt)]; rfl
  rw [hs] at hp ⊢
  simp only [Option.map_some, Option.getD_some, h1, h2] at hp ⊢
  by_cases hc : j = i ∧ mask.getLsbD L = true
  · simp [hc]
  · rw [if_neg hc, if_neg, hp]
    simpa using hc

/-- Reading a lane register after a write. -/
theorem laneReg_putLane (t : Team) (g : Group) (r : Nat) (mask : Mask) (v : Nat → Word) (q L : Nat) (hr : r < 120) (hL : L < g.width) :
    laneReg t (g.putLane r mask v) q L = if q = r ∧ mask.getLsbD L = true then v L else laneReg t g q L := by
  unfold laneReg
  by_cases hq : 120 ≤ q
  · rw [if_pos hq, if_pos hq, if_neg (by omega)]
    rfl
  · rw [if_neg hq, if_neg hq]
    simp only [Group.putLane, Group.laneBlocks]
    rw [nth_setNth _ _ _ _ _ _ (by omega)]
    by_cases hb : q / 8 = r / 8
    · rw [if_pos hb, Block.get_put _ _ _ _ _ _ _ (Nat.mod_lt _ (by omega)) hL, hb]
      have : (q % 8 = r % 8 ∧ mask.getLsbD L = true) ↔ (q = r ∧ mask.getLsbD L = true) := by
        constructor <;> rintro ⟨h1, h2⟩ <;> exact ⟨by omega, h2⟩
      simp only [this]
    · rw [if_neg hb, if_neg]
      rintro ⟨h1, _⟩
      exact hb (by rw [h1])

/-- Reading a scalar register after a write. -/
theorem sreg_putScalar (g : Group) (r : Nat) (v : DWord) (q : Nat) (hq : q < 48) :
    nth (g.putScalar r v).arch.sregs q 0 = if q = r then v else nth g.arch.sregs q 0 := nth_setNth 48 r q v 0 _ hq

/-- Reading an address register after a write. -/
theorem addrReg_putAddr (g : Group) (r : Nat) (a : AReg) (q : Nat) (hq : q < 16) :
    addrReg (g.putAddr r a) q = if q = r then a else addrReg g q := nth_setNth 16 r q a AReg.none _ hq

theorem shows_putScalar (x : Issue) (d : Nat) (w : DWord) : Shows x (x.view.putScalar d w) (x.g.putScalar d w) := by
  constructor
  case sregs => exact fun q hq => sreg_putScalar _ _ _ _ hq
  case lanes => intro q L _; rfl
  all_goals simp [View.putScalar, Issue.view, Group.putScalar, Txn.supersedeScalar, addrReg]

/-- The elements of a latch's values. -/
theorem nth_latchVals (x : Issue) (n : Bool) (d : Nat) (r : Nat → Word) (L : Nat) (h : L < x.g.width) :
    nth (latchVals x n d r) L 0 = if x.active.getLsbD L then r L else if n then 0 else laneReg x.t x.g d L := by
  simp [nth, latchVals, List.getD_eq_getElem?_getD, h]

/-- The flags of all active lanes, whichever way they are joined. -/
theorem allFlags_eq (x : Issue) (r : Nat → Word × Flags) (f : Nat → Flags) (h : ∀ L ∈ x.lanes, (r L).2 = f L) :
    allFlags x r = anyFlags x.lanes f := by
  have key : ∀ (ls : List Nat) (a : Flags), (∀ L ∈ ls, (r L).2 = f L) →
      ls.foldl (fun k L => k ||| (r L).2) a = a ||| anyFlags ls f := by
    intro ls
    induction ls with
    | nil => intro a _; simp [anyFlags]
    | cons L ls ih =>
      intro a ha
      rw [List.foldl_cons, ih _ fun L hL => ha L (by simp [hL]), ha L (by simp)]
      simp [anyFlags, BitVec.or_assoc]
  rw [allFlags, key _ _ h]
  simp

/-- What a lane operation leaves, once for all of them: `res` is what its meaning computes in the lanes. -/
theorem withOps_lane {s r : State} {x : Issue} (w : LaneWork) {k : State → Issue → Res} {res : Nat → Word × Flags}
    (h : Ready s x w.sp w.use r) (hn : NoSafePoint x w.sp) (hlw : w.use.lw = destOf w.n w.d)
    (hk : k r x = .done (laneDone r x w.sp w.n w.d res))
    (hv : ∀ L, L < x.g.width → x.active.getLsbD L = true → (res L).1 = w.val x L)
    (hf : ∀ L ∈ x.lanes, (res L).2 = w.flg x L) :
    ∃ t, withOps s w.sp w.use k = .next t ∧ After s t x (w.view x) (some (w.latch x)) (fun _ => x.cur.next) := by
  have hd : w.n = false → w.d < 120 := by
    intro h0
    have := h.legal
    simp only [Use.illegal, hlw, h0, destOf, Bool.or_eq_false_iff] at this
    simpa using this.1.2
  have hlat : ∀ L, L < x.g.width → nth (latchVals x w.n w.d fun L => (res L).1) L 0 = w.latch x L := by
    intro L hL
    rw [nth_latchVals _ _ _ _ _ hL]
    unfold LaneWork.latch
    split
    · exact hv L hL ‹_›
    · rfl
  refine withOps_after h hn (hk.trans rfl) ?_ ?_ ⟨_, rfl, hlat⟩
  · have hfl := allFlags_eq x res (w.flg x) hf
    cases h0 : w.n with
    | true =>
      constructor
      case lanes => intro q L _; simp [LaneWork.view, h0, Group.orFlags]; rfl
      all_goals simp [LaneWork.view, Issue.view, Group.orFlags, addrReg, h0, hfl]
    | false =>
      constructor
      case lanes =>
        intro q L hL
        rw [h0] at hlat
        show laneReg x.t (x.g.putLane w.d x.active fun L => nth (latchVals x false w.d fun L => (res L).1) L 0) q L = _
        rw [laneReg_putLane _ _ _ _ _ _ _ (hd h0) hL, hlat L hL]
        simp only [LaneWork.view, LaneWork.latch, h0, true_and]
        grind
      all_goals simp [LaneWork.view, Issue.view, Group.orFlags, Group.putLane, addrReg, h0, hfl]
  · split <;> exact ⟨rfl, rfl⟩

theorem shows_putAddr (x : Issue) (i : Nat) (a : AReg) : Shows x (x.view.putAddr i a) (x.g.putAddr i a) := by
  constructor
  case aregs => exact fun q hq => addrReg_putAddr _ _ _ _ hq
  case lanes => intro q L _; rfl
  all_goals simp [View.putAddr, Issue.view, Group.putAddr]

/-- What a scalar operation leaves. -/
theorem withOps_scalar {s r : State} {x : Issue} {sp : Sp} {u : Use} {k : State → Issue → Res} {d : Nat} {w : DWord} {pc : VAddr}
    (h : Ready s x sp u r) (hn : NoSafePoint x sp) (hk : k r x = .done (finishAt r x sp (x.g.putScalar d w) Latch.zero pc)) :
    ∃ t, withOps s sp u k = .next t ∧ After s t x (x.view.putScalar d w) none (fun _ => pc) :=
  withOps_after h hn hk (shows_putScalar x d w) ⟨rfl, rfl⟩ rfl

/-- A scalar register read where there is room is what it was. -/
theorem scalarReg_room {s r : State} {x : Issue} {sp : Sp} {u : Use} (h : Ready s x sp u r) (q : Nat) :
    scalarReg r x q = scalarReg s x q := by
  have e := (ready_room h).1.only
  rw [e]
  rfl

/-- A word given bit by bit has those bits. -/
theorem getLsbD_bitsWord (f : Nat → Bool) (i : Nat) : (bitsWord f).getLsbD i = (decide (i < 32) && f i) := by
  have key : ∀ l : List Nat, (∀ j ∈ l, j < 32) → ∀ i,
      (l.foldr (fun i w => w ||| ((BitVec.ofBool (f i)).setWidth 32 <<< i)) (0 : Word)).getLsbD i = (decide (i ∈ l) && f i) := by
    intro l
    induction l with
    | nil => simp
    | cons a l ih =>
      intro hl i
      have ha : a < 32 := hl a (by simp)
      rw [List.foldr_cons, BitVec.getLsbD_or, ih fun j hj => hl j (by simp [hj])]
      simp only [BitVec.getLsbD_shiftLeft, BitVec.getLsbD_setWidth, BitVec.getLsbD_ofBool, List.mem_cons]
      by_cases hi : i = a
      · subst hi; simp [ha]
      · by_cases hia : i < a
        · simp [hi, hia]
        · have : ¬ (i - a = 0) := by omega
          simp [hi, this]
  rw [bitsWord, key _ (by simp)]
  simp

end Sys2Proof.Machine
end

