-- ==== Sys2Proof/Tests/Bench.lean ====
section
/-!
SUPPORT. The small states the tests stand on: the boot group of log 13, one group of eight lanes on core 0, with an
instruction under way.
-/
namespace Sys2Proof.Machine

/-- The team of the bench: that of the boot group, with a trap handler. -/
def benchTeam : Team := { bootTeam State.reset with hva := 0x30000 }

/-- The group of the bench. -/
def benchGroup : Group := launchGroup benchTeam 0 0 0x20000 (bootAregs benchTeam) 0

/-- The split of the bench. -/
def benchSplit : Split where
  slot := 0
  pc := 0x20000
  mask := 0xFF
  handler := false
  held := false
  issuedAt := 0
  stalled := false

/-- The machine with one group and its team, a 32-bit instruction of it under way. -/
def benchOf (g : Group) (t : Team) : State :=
  { State.reset.withFetchWord 32 1 with
    groups := [g]
    teams := [t]
    cur := some ⟨0, 0, 0, 0x20000, 0x20004, 1⟩ }

/-- The bench. -/
def bench : State := benchOf benchGroup benchTeam

/-- What the issuing instruction of a bench sees. -/
def issueOf (g : Group) (t : Team) (sp : Split) : Issue := ⟨⟨0, 0, 0, 0x20000, 0x20004, 1⟩, g, sp, t⟩

/-- What the issuing instruction of the bench sees. -/
def benchIssue : Issue := issueOf benchGroup benchTeam benchSplit

/-- The group of the bench with some scalar registers. -/
def withScalars (vs : List DWord) : Group :=
  { benchGroup with arch := { benchGroup.arch with sregs := vs ++ List.replicate (48 - vs.length) 0 } }

/-- A block whose registers hold the same value in every lane: register `i` holds `f i`. -/
def flatBlock (f : Nat → Word) : Block := .resident ((List.range 8).flatMap fun i => List.replicate 8 (f i))

/-- The group of the bench with some lane blocks. -/
def withBlocks (bs : List Block) (g : Group) : Group :=
  { g with arch := { g.arch with blocks := bs ++ List.replicate (15 - bs.length) .unallocated } }

/-- The checks common to all instructions, but for room. -/
def readyBool (x : Issue) (sp : Sp) (u : Use) : Bool :=
  maskOk sp && !u.illegal && decide (u.pl ≤ x.t.pl) && !(u.latches x.g).any Latch.raisesLost && !u.twiBlocked x.g sp &&
  !u.pending x.g && !u.emitPending x && !(u.laneReads x.g ++ u.lw).any (isSpilled x.g) && !u.badRead x.g && !x.g.badArea && !x.g.badResume

/-- With no step of a local access outstanding none is the group's. -/
theorem noRest_of {s : State} {x : Issue} (h : s.rests = []) : NoRest s x := fun r hr => by simp [h] at hr

/-- With no copy of a line none is a partial. -/
theorem noPartials_of {s : State} (h : s.l1 = []) : NoPartials s := fun c hc => by simp [h] at hc

/-- An instruction is ready once its checks pass and there is room. -/
theorem ready_of {s : State} {x : Issue} {sp : Sp} {u : Use} {r : State} (h : readyBool x sp u = true) (hi : s.issue? = some x)
    (hr : ensureRoom s x.g u.lw = some r) : Ready s x sp u r := by
  simp only [readyBool, Bool.and_eq_true, Bool.not_eq_true', decide_eq_true_eq] at h
  obtain ⟨⟨⟨⟨⟨⟨⟨⟨⟨⟨h1, h2⟩, h3⟩, h4⟩, h5⟩, h6⟩, he⟩, h7⟩, h8⟩, h9⟩, h10⟩ := h
  exact ⟨hi, h1, h2, h3, h4, h5, h6, he, h7, hr, h8, h9, h10⟩

end Sys2Proof.Machine
end

