-- ==== Sys2Proof/Tests/Core.lean ====
section
/-!
SUPPORT. States that meet the hypotheses of the statements about lane, scalar and control instructions, clause by clause.
-/
namespace Sys2Proof.Machine

set_option Elab.async false

/-! ## Lane operations -/

/-- LaneIntegerResults, at the largest `D` and a negative immediate. -/
theorem test_met_LaneIntegerResults : (intWork (.iadd ⟨none, false, 119, 0xE0, 0x8F - 0x10⟩)).isSome = true ∧
    (Instr.iadd ⟨none, false, 119, 0xE0, 0x7F⟩).wf = true ∧
    Ready bench benchIssue none { sels := [0xE0, 0x7F], lr := [], lw := [119], twi := true } bench ∧ NoSafePoint benchIssue none :=
  ⟨rfl, rfl, ready_of (by decide) rfl rfl, .inl rfl⟩

/-- LaneFloatResults: an operation that reads `D`, and `cvtsr`. -/
theorem test_met_LaneFloatResults : (floatWork (.ffma ⟨none, false, 8, 9, 0x94⟩)).isSome = true ∧
    (Instr.ffma ⟨none, false, 8, 9, 0x94⟩).wf = true ∧
    Ready bench benchIssue none { sels := [9, 0x94], lr := [8], lw := [8], twi := true } bench ∧ NoSafePoint benchIssue none ∧
    (Instr.cvtsr ⟨none, false, 3, 4, 5, 8⟩).wf = true ∧ Ready bench benchIssue none { sels := [4], lw := destOf false 3 } bench :=
  ⟨rfl, rfl, ready_of (by decide) rfl rfl, .inl rfl, rfl, ready_of (by decide) rfl rfl⟩

/-- QuadGroupResults. -/
theorem test_met_QuadGroupResults : (groupWork (.shflx ⟨none, false, 8, 1⟩)).isSome = true ∧
    (Instr.shflx ⟨none, false, 8, 1⟩).wf = true ∧
    Ready bench benchIssue none { sels := [1], lr := [8], lw := [8] } bench ∧ NoSafePoint benchIssue none :=
  ⟨rfl, rfl, ready_of (by decide) rfl rfl, .inl rfl⟩

/-- The group of the bench with a filled window: position 1 holds a value, position 8 a lost one of v3. -/
def windowGroup (n : Bool) : Group :=
  { benchGroup with arch := { benchGroup.arch with
      window := [⟨some [7, 7, 7, 7, 7, 7, 7, 7], 5, false, false, none, []⟩] ++ List.replicate 6 ⟨none, 0, false, false, none, []⟩ ++
        [⟨some [9, 9, 9, 9, 9, 9, 9, 9], if n then 0 else 3, n, true, none, []⟩] } }

/-- SelectorValues, at the ends of each range of selectors. -/
theorem test_met_SelectorValues : let x := issueOf (windowGroup false) benchTeam benchSplit
    (0x80 ≤ (0x80 : BitVec 8).toNat ∧ (0x80 : BitVec 8).toNat < 0x88 ∧ (latchOf x.g (0x80 - 0x7F)).vals.isSome = true ∧
      (latchOf x.g (0x87 - 0x7F)).lost = true ∧ (latchOf x.g (0x81 - 0x7F)).vals = none) ∧
    (intWork (.iadd ⟨none, false, 1, 0x88, 0x8F⟩)).map (·.use.sels) = some [0x88, 0x8F] ∧ bench.issue? = some benchIssue ∧
    maskOk none = true :=
  ⟨by decide, rfl, rfl, rfl⟩

/-! ## Scalar and address registers -/

/-- ScalarResults. -/
theorem test_met_ScalarResults : (scalarWork (.ssel ⟨none, 47, 63, 0⟩)).isSome = true ∧
    Ready bench benchIssue none { sr := [63, 0, 47], sw := [47] } bench ∧ NoSafePoint benchIssue none :=
  ⟨rfl, ready_of (by decide) rfl rfl, .inl rfl⟩

/-- AddressRegisterResults: `aadd` to its limit and past it, `aset` that narrows, widens and names s63, `amov` of a5 to
itself and elsewhere. -/
theorem test_met_AddressRegisterResults : let g := withScalars [16384, 16385, 0, 16384, 0, 16385]
    let s := benchOf g benchTeam
    let x := issueOf g benchTeam benchSplit
    let sum (p : Nat) : DWord := (addrReg x.g 1).ptr.setWidth 64 + scalarReg s x p + BitVec.ofInt 64 (128 * (0 : BitVec 7).toInt)
    (Ready s x none { sr := [0] } s ∧ (sum 0).toNat = (addrReg x.g 1).limit.toNat ∧ (addrReg x.g 1).base.toNat = 0) ∧
    (Ready s x none { sr := [1] } s ∧ (addrReg x.g 1).limit.toNat < (sum 1).toNat) ∧
    (Ready s x none { sr := [2, 3] } s ∧ (scalarReg s x 3).toNat = (addrReg x.g 1).limit.toNat) ∧
    (Ready s x none { sr := [4, 5] } s ∧ (addrReg x.g 1).limit.toNat < (scalarReg s x 5).toNat) ∧
    (63 : BitVec 6) = 63 ∧ Ready s x none {} s ∧ (addrReg x.g 5).rgn = 5 ∧ NoSafePoint x none :=
  ⟨⟨ready_of (by decide) rfl rfl, by decide⟩, ⟨ready_of (by decide) rfl rfl, by decide⟩, ⟨ready_of (by decide) rfl rfl, by decide⟩,
    ⟨ready_of (by decide) rfl rfl, by decide⟩, rfl, ready_of (by decide) rfl rfl, by decide, .inl rfl⟩

/-- RfreeResults, of all 15 blocks. -/
theorem test_met_RfreeResults : (0 : BitVec 6).toNat ≤ (14 : BitVec 6).toNat ∧ (14 : BitVec 6).toNat ≤ 14 ∧
    Ready bench benchIssue none {} bench ∧ NoSafePoint benchIssue none ∧ benchIssue.g.txns = [] :=
  ⟨by decide, by decide, ready_of (by decide) rfl rfl, .inl rfl, rfl⟩

/-! ## Control -/

/-- BranchResults, with the lane number of the lane as its operand: lane 0 goes one way, the others the other. -/
theorem test_met_BranchResults : (Instr.brc ⟨none, 0x78, 5, 0x1FFF⟩).wf = true ∧
    Ready bench benchIssue none { sels := [0x78] } bench ∧ NoSafePoint benchIssue none :=
  ⟨rfl, ready_of (by decide) rfl rfl, .inl rfl⟩

/-- JumpResults: a target, an odd value and one with a bit above 55. -/
theorem test_met_JumpResults : let g := withScalars [0x40000, 0x40001, 0x100000000000000]
    let s := benchOf g benchTeam
    let x := issueOf g benchTeam benchSplit
    Ready s x none {} s ∧ NoSafePoint x none ∧
    (Ready s x none { sr := [0] } s ∧ isTarget (scalarReg s x 0) = true) ∧
    (Ready s x none { sr := [1] } s ∧ isTarget (scalarReg s x 1) = false) ∧
    (Ready s x none { sr := [2] } s ∧ isTarget (scalarReg s x 2) = false) :=
  ⟨ready_of (by decide) rfl rfl, .inl rfl, ⟨ready_of (by decide) rfl rfl, by decide⟩, ⟨ready_of (by decide) rfl rfl, by decide⟩,
    ⟨ready_of (by decide) rfl rfl, by decide⟩⟩

/-- A bench whose core holds a partial and a leased line. -/
def cachedBench : State :=
  { bench with l1 := [⟨0, 5, 0, .part 0 [(0, 1)] [0] (none, 0)⟩, ⟨0, 6, 0, .leased 1 100 false 0 0 0⟩] }

/-- FenceResults: a full fence at cluster scope, and one at the widest. -/
theorem test_met_FenceResults : Ready cachedBench benchIssue none {} cachedBench ∧ NoSafePoint benchIssue none ∧ (3 : BitVec 2) ≠ 0 ∧
    (5 : BitVec 6).toNat ≤ 5 ∧ fenceReady cachedBench benchGroup 5 = true ∧ acquireReady cachedBench benchGroup = true ∧
    fenceReady cachedBench benchGroup (min 2 (bench.vf 0 0).cap.toNat) = true :=
  ⟨ready_of (by decide) rfl rfl, .inl rfl, by decide, by decide, by decide, by decide, by decide⟩

/-- The bench with a second running split, lanes 0 and 1 issuing and 2 to 7 elsewhere. -/
def splitGroup : Group :=
  { benchGroup with arch := { benchGroup.arch with
      splits := [{ benchSplit with mask := 0x03 }, { benchSplit with slot := 1, mask := 0xFC, pc := 0x20100 }] } }

/-- The bench with all its lanes but one past an `exit`. -/
def lastLane : Group :=
  { benchGroup with
    exitedOnce := 0xF7
    arch := { benchGroup.arch with splits := [{ benchSplit with mask := 0x0F }], helpers := 0x07, retired := 0xF0 } }

/-- ExitResults: lanes that become helpers, and the last lanes of a group. -/
theorem test_met_ExitResults :
    (let x := issueOf splitGroup benchTeam { benchSplit with mask := 0x03 }
     Ready (benchOf splitGroup benchTeam) x none {} (benchOf splitGroup benchTeam) ∧
      ∃ p L, p ∈ x.g.arch.splits ∧ p.mask.getLsbD L = true ∧
        (decide (L < x.g.width) && quadIn (x.g.exitedOnce ||| x.active) L) = false) ∧
    (let x := issueOf lastLane benchTeam { benchSplit with mask := 0x0F }
     Ready (benchOf lastLane benchTeam) x none {} (benchOf lastLane benchTeam) ∧
      (∀ p ∈ x.g.arch.splits, ∀ L, p.mask.getLsbD L = true → L < x.g.width ∧ quadIn (x.g.exitedOnce ||| x.active) L = true) ∧
      x.g.arch.parked = [] ∧ fenceReady (benchOf lastLane benchTeam) x.g (min 4 (bench.vf x.m x.t.vf).cap.toNat) = true ∧
      x.g.num < 32) := by
  refine ⟨⟨ready_of (by decide) rfl rfl, { benchSplit with mask := 0x03 }, 0, by decide, by decide, by decide⟩,
    ready_of (by decide) rfl rfl, ?_, rfl, by decide, by decide⟩
  intro p hp L hL
  have hp : p = { benchSplit with mask := 0x0F } := by simpa [lastLane, issueOf] using hp
  subst hp
  have hlt : L < 64 := by
    by_cases h : L < 64
    · exact h
    · rw [BitVec.getLsbD_of_ge _ _ (by omega)] at hL
      exact absurd hL (by decide)
  have : ∀ L, L < 64 → ({ benchSplit with mask := 0x0F } : Split).mask.getLsbD L = true →
      L < 8 ∧ quadIn (lastLane.exitedOnce ||| 0x0F) L = true := by decide
  exact this L hlt hL

/-- TrapYieldAndTrigger. -/
theorem test_met_TrapYieldAndTrigger : Ready bench benchIssue none {} bench ∧ CanTrap benchIssue ∧ NoSafePoint benchIssue none :=
  ⟨ready_of (by decide) rfl rfl, ⟨rfl, rfl, rfl, by decide⟩, .inl rfl⟩

/-- The group of the bench in its handler, entered at an instruction with a mask word. -/
def handlerGroup : Group :=
  { benchGroup with
    trap := ⟨true, [], 0, 0x10000, 0, 0x80102053, 0xFF, 0⟩
    arch := { benchGroup.arch with splits := [{ benchSplit with handler := true }], sregs := [0x40000, 1] ++ List.replicate 46 0 } }

/-- The group of the bench with a load it has read under Twilight. -/
def awaitGroup : Group := { benchGroup with twi := some ⟨benchGroup.arch, [], 9, [⟨5, 3, 0, 0, none, 1⟩], 0⟩ }

/-- The team of the bench, of a node that has no handler. -/
def bareTeam : Team := { benchTeam with hva := 0 }

/-- TrapEntries: a group that has a handler, a trap of another split while it runs, one behind an unconfirmed load, and group faults:
in the handler with a load under way, and of a node with no handler. -/
theorem test_met_TrapEntries :
    (bench.issue? = some benchIssue ∧ CanTrap benchIssue ∧ TrapKind.illins ≠ .regpsn) ∧
    (let g := { handlerGroup with arch := { handlerGroup.arch with
        splits := [{ benchSplit with mask := 0x0F }, { benchSplit with slot := 1, mask := 0xF0, handler := true }] } }
     let x := issueOf g benchTeam { benchSplit with mask := 0x0F }
     (benchOf g benchTeam).issue? = some x ∧ x.g.twi = none ∧ x.sp.handler = false ∧ x.g.trap.handler = true) ∧
    (let x := issueOf awaitGroup benchTeam benchSplit
     (benchOf awaitGroup benchTeam).issue? = some x ∧ x.g.twi ≠ none) ∧
    (let g := { handlerGroup with txns := [⟨7, 0xFF, .lanes 30 1, false, [], 1, [], none⟩] }
     let s := benchOf g benchTeam
     let x := issueOf g benchTeam { benchSplit with handler := true }
     s.issue? = some x ∧ GroupFaults x { kind := .illins } ∧ (hasFlight s x.g || hasLog s x.cur.core x.cur.slot) = true) ∧
    (let s := benchOf benchGroup bareTeam
     let x := issueOf benchGroup bareTeam benchSplit
     s.issue? = some x ∧ GroupFaults x { kind := .illins } ∧ (hasFlight s x.g || hasLog s x.cur.core x.cur.slot) = false ∧ x.t.bars = [] ∧
       NoPartials s ∧ canDeliver s x.t.m (s.queue x.t.m x.t.node).sup (nodeEntry s x.t.m x.t.node).vf = false) :=
  ⟨⟨rfl, ⟨rfl, rfl, rfl, by decide⟩, by decide⟩, ⟨rfl, rfl, rfl, rfl⟩, ⟨rfl, by decide⟩,
   ⟨rfl, ⟨rfl, .inr (.inl rfl)⟩, by decide⟩, rfl, ⟨rfl, .inr (.inr ⟨rfl, rfl⟩)⟩, by decide, rfl, noPartials_of rfl, by decide⟩

/-- TrapReturnResults: in a handler with a target and a value that is none, and outside a handler. -/
theorem test_met_TrapReturnResults : let s := benchOf handlerGroup benchTeam
    let x := issueOf handlerGroup benchTeam { benchSplit with handler := true }
    (Ready s x none {} s ∧ x.g.trap.handler = true ∧ x.g.badSave = false ∧ NoSafePoint x none) ∧
    (Ready bench benchIssue none {} bench ∧ benchIssue.g.trap.handler = false) ∧
    (Ready s x none { sr := [0] } s ∧ isTarget (scalarReg s x 0) = true) ∧
    (Ready s x none { sr := [1] } s ∧ isTarget (scalarReg s x 1) = false) ∧
    Ready bench benchIssue none { sr := [0] } bench :=
  ⟨⟨ready_of (by decide) rfl rfl, rfl, rfl, .inl rfl⟩, ⟨ready_of (by decide) rfl rfl, rfl⟩, ⟨ready_of (by decide) rfl rfl, by decide⟩,
    ⟨ready_of (by decide) rfl rfl, by decide⟩, ready_of (by decide) rfl rfl⟩

/-! ## What all instructions share -/

/-- The group of the bench with a spilled block, and a load to v3 under way. -/
def busyGroup : Group :=
  { withBlocks [.spilled (List.replicate 64 1)] benchGroup with txns := [⟨7, 0xFF, .lanes 30 1, false, [], 1, [], none⟩] }

/-- OperandChecks: an illegal mask word, illegal selectors at both ends of their range, a lost latch with `N` = 1, an operand
not returned and one that is spilled. -/
theorem test_met_OperandChecks :
    (bench.issue? = some benchIssue ∧ maskOk (some 0x00011FFD) = false ∧ maskOk (some 0x00001FFC) = false) ∧
    (maskOk none = true ∧ (intWork (.iadd ⟨none, false, 1, 0x88, 0⟩)).map (·.use.illegal) = some true ∧
      (intWork (.iadd ⟨none, false, 1, 0x8F, 0⟩)).map (·.use.illegal) = some true ∧
      (intWork (.iadd ⟨none, false, 120, 0, 0⟩)).map (·.use.illegal) = some true) ∧
    (let g := windowGroup true
     (benchOf g benchTeam).issue? = some (issueOf g benchTeam benchSplit) ∧ (latchOf g (0x87 - 0x7F)).lost = true ∧
     (latchOf g (0x87 - 0x7F)).n = true ∧ (latchOf g (0x87 - 0x7F)).vals ≠ none) ∧
    ((benchOf busyGroup benchTeam).issue? = some (issueOf busyGroup benchTeam benchSplit) ∧
      benchSplit.rem = none ∧ ({ sels := [30], lw := [119] } : Use).pending busyGroup = true ∧ isSpilled busyGroup 7 = true) :=
  ⟨⟨rfl, by decide⟩, ⟨rfl, by decide⟩, ⟨rfl, by decide⟩, ⟨rfl, rfl, by decide⟩⟩

/-- The group of the bench, asked to stop. -/
def askedGroup : Group := { withBlocks [flatBlock fun i => BitVec.ofNat 32 i] benchGroup with preempt := .asked 0 }

/-- SafePointParks, under a mask word that keeps block 0 and the bounds. -/
theorem test_met_SafePointParks : let s := benchOf askedGroup benchTeam
    let x := issueOf askedGroup benchTeam benchSplit
    (scalarWork (.sadd ⟨some 0x00023FFD, 3, 4, 5⟩)).map (·.sp) = some (some 0x00023FFD) ∧
    Ready s x (some 0x00023FFD) { sr := [4, 5], sw := [3] } s ∧ x.g.preempt = .asked 0 :=
  ⟨rfl, ready_of (by decide) rfl rfl, rfl⟩

end Sys2Proof.Machine
end

