-- ==== Sys2Proof/Tests/Matrix.lean ====
section
/-!
SUPPORT. States that meet the hypotheses of the statements about the matrix engine, and what a few of its instructions
leave there.
-/
namespace Sys2Proof.Machine

set_option Elab.async false

/-- A team of two groups. -/
def pairTeam : Team := { benchTeam with groups := 2 }

/-- A gang of both groups of team 0 (Table Matrix 4). -/
def pairGang : DWord := 0x0002000000000100

/-- A weight descriptor: K = 32, N = 8, BF16 at the start of W; a pass of M = 4 and a drain to FP32 (Table Matrix 7). -/
def wDesc : DWord := BitVec.ofNat 64 (31 * 2 ^ 16 + 7 * 2 ^ 26 + 7 * 2 ^ 34)
/-- See `wDesc`. -/
def pDesc : DWord := BitVec.ofNat 64 (3 * 2 ^ 30)
/-- See `wDesc`. -/
def dDesc : DWord := BitVec.ofNat 64 (3 * 2 ^ 28 + 7 * 2 ^ 38 + 7 * 2 ^ 46)

/-- A group with the descriptors, a gang and a value that is none in its scalar registers, in a gang, holding entry `n`. -/
def matrixGroup (gang : DWord) (n : Option Nat) (posts : List MPost) : Group :=
  let g := withScalars [wDesc, pDesc, dDesc, pairGang, 5, 7, 0x47]
  { g with
    arch := { g.arch with gang := gang, msc := 7 }
    mentry := n
    mseq := posts.length
    mposts := posts }

/-- The bench with entries of cluster 0's table from entry 0 on. -/
def matrixBench (g : Group) (es : List MEntry) : State :=
  { benchOf g pairTeam with engines := [{ Engine.reset 0 with entries := es ++ List.replicate (16 - es.length) MEntry.free }] }

/-- What an instruction sees there. -/
def matrixIssue (g : Group) : Issue := issueOf g pairTeam benchSplit

/-- MatrixStateAndWaits: a gang the group is in, none, a value that is none and one that comes too late; a stream format that
is legal and one that is not; a wait that is over and one that is not; a release without and with a reservation. -/
theorem test_met_MatrixStateAndWaits :
    (let g := matrixGroup 0 none []
     let s := matrixBench g []
     let x := matrixIssue g
     (Ready s x none { sr := [3] } s ∧ x.g.mentry = none ∧ NoSafePoint x none ∧ gangOk s x (scalarReg s x 3) = true) ∧
     (Ready s x none { sr := [10] } s ∧ scalarReg s x 10 = 0) ∧
     (Ready s x none { sr := [4] } s ∧ scalarReg s x 4 ≠ 0 ∧ gangOk s x (scalarReg s x 4) = false) ∧
     (Ready s x none { sr := [5] } s ∧ (scalarReg s x 5).extractLsb' 16 48 = 0 ∧ (scalarReg s x 5).extractLsb' 6 2 = 0 ∧
       (scalarReg s x 5).extractLsb' 4 2 ≠ 3 ∧ (scalarReg s x 5).extractLsb' 0 4 ≠ 15) ∧
     (Ready s x none { sr := [6] } s ∧ (scalarReg s x 6).extractLsb' 6 2 ≠ 0) ∧ Ready s x none {} s ∧ NoRest s x ∧
     (let u := { s with rests := [⟨0, 0, none, [], none, 0⟩] }
      Ready u x none {} u ∧ ¬NoRest u x)) ∧
    (let g := matrixGroup 0 (some 0) [⟨1, 5, .load 0, some 4, false⟩, ⟨2, 6, .load 0, some 1, false⟩]
     let s := matrixBench g [{ MEntry.free with st := 2 }]
     let x := matrixIssue g
     Ready s x none { sr := [3] } s ∧ x.g.mentry ≠ none ∧ Ready s x none { sr := [5], sw := [9] } s ∧
     (∀ p ∈ x.g.mposts, p.seq ≤ min (scalarReg s x 5).toNat x.g.mseq → p.status ≠ none) ∧
     (x.g.mposts.filter fun p => p.seq ≤ min (scalarReg s x 5).toNat x.g.mseq).length ≤ 65535 ∧
     Ready s x none {} s ∧ 0 < (s.engine x.cluster).entries.length ∧ (∀ p ∈ x.g.mposts, p.status ≠ none) ∧
     ((s.engine x.cluster).entry 0).gang = 0 ∧ ((s.engine x.cluster).entry 0).st ≠ 0) ∧
    (let g := matrixGroup 0 (some 0) [⟨1, 5, .load 0, none, false⟩]
     let s := matrixBench g [{ MEntry.free with st := 2 }]
     let x := matrixIssue g
     Ready s x none { sr := [5], sw := [9] } s ∧ ∃ p ∈ x.g.mposts, p.seq ≤ min (scalarReg s x 5).toNat x.g.mseq ∧ p.status = none) :=
  ⟨⟨⟨ready_of (by decide) rfl rfl, rfl, .inl rfl, by decide⟩, ⟨ready_of (by decide) rfl rfl, rfl⟩,
    ⟨ready_of (by decide) rfl rfl, by decide, by decide⟩, ⟨ready_of (by decide) rfl rfl, by decide⟩,
    ⟨ready_of (by decide) rfl rfl, by decide⟩, ready_of (by decide) rfl rfl, noRest_of rfl, ready_of (by decide) rfl rfl,
    fun h => h _ (List.mem_singleton.mpr rfl) ⟨rfl, rfl⟩⟩,
   ⟨ready_of (by decide) rfl rfl, by decide, ready_of (by decide) rfl rfl, by decide, by decide, ready_of (by decide) rfl rfl,
    by decide, by decide, rfl, by decide⟩, ready_of (by decide) rfl rfl, by decide⟩

/-- A group joins no entry that gathers no gang. -/
theorem joins_not {x : Issue} {s : State} {e : MEntry} (h : e.st ≠ 1) : joins x s e = false := by
  have h : decide (e.st = 1) = false := decide_eq_false h
  simp only [joins, h, Bool.false_and]

/-- No entry of the bench with one waiting entry gathers a gang. -/
theorem oneEntry_st (v : DWord) : ∀ j, j < 16 →
    (((matrixBench (matrixGroup v none []) [{ MEntry.free with st := 2 }]).engine 0).entry j).st ≠ 1 := by
  show ∀ j, j < 16 → (nth ({ MEntry.free with st := 2 } :: List.replicate 15 MEntry.free) j MEntry.free).st ≠ 1
  decide

/-- MatrixReservation: a reservation held, a gang gathering in entry 2, a free entry for a solo group and for a gang, and a
full table. -/
theorem test_met_MatrixReservation :
    (let g := matrixGroup 0 (some 3) []
     Ready (matrixBench g []) (matrixIssue g) none { sw := [9] } (matrixBench g []) ∧ NoSafePoint (matrixIssue g) none ∧
       (matrixIssue g).g.mentry = some 3) ∧
    (let g := matrixGroup pairGang none []
     let es := [{ MEntry.free with st := 2 }, { MEntry.free with st := 3 }, { MEntry.free with st := 1, gang := pairGang, arr := 2, team := pairTeam.uid }]
     let s := matrixBench g es
     let x := matrixIssue g
     Ready s x none { sw := [9] } s ∧ x.g.mentry = none ∧ (s.engine x.cluster).entries.length = 16 ∧ x.g.arch.gang ≠ 0 ∧
       joins x s ((s.engine x.cluster).entry 2) = true ∧ ∀ j, j < 2 → joins x s ((s.engine x.cluster).entry j) = false) ∧
    (∀ v ∈ [0, pairGang], let g := matrixGroup v none []
      let s := matrixBench g [{ MEntry.free with st := 2 }]
      let x := matrixIssue g
      Ready s x none { sw := [9] } s ∧ x.g.mentry = none ∧ (s.engine x.cluster).entries.length = 16 ∧
        (∀ j, x.g.arch.gang ≠ 0 → joins x s ((s.engine x.cluster).entry j) = true → 16 ≤ j) ∧
        ((s.engine x.cluster).entry 1).st = 0 ∧ ∀ j, j < 1 → ((s.engine x.cluster).entry j).st ≠ 0) ∧
    (let g := matrixGroup 0 none []
     let s := matrixBench g (List.replicate 16 { MEntry.free with st := 2 })
     let x := matrixIssue g
     Ready s x none { sw := [9] } s ∧ x.g.mentry = none ∧ (s.engine x.cluster).entries.length = 16 ∧
       ∀ j, j < 16 → ((s.engine x.cluster).entry j).st ≠ 0) := by
  refine ⟨⟨ready_of (by decide) rfl rfl, .inl rfl, rfl⟩, ⟨ready_of (by decide) rfl rfl, rfl, rfl, by decide, by decide, by decide⟩,
    fun v hv => ?_, ready_of (by decide) rfl rfl, rfl, rfl, by decide⟩
  have hk : ∀ j, (matrixIssue (matrixGroup v none [])).g.arch.gang ≠ 0 → joins (matrixIssue (matrixGroup v none []))
      (matrixBench (matrixGroup v none []) [{ MEntry.free with st := 2 }])
      (((matrixBench (matrixGroup v none []) [{ MEntry.free with st := 2 }]).engine 0).entry j) = true → 16 ≤ j := by
    intro j _ h
    by_cases hlt : j < 16
    · rw [joins_not (oneEntry_st v j hlt)] at h
      exact absurd h (by decide)
    · omega
  have hv : v = 0 ∨ v = pairGang := by simpa using hv
  rcases hv with h | h
  · subst h
    exact ⟨ready_of (by decide) rfl rfl, rfl, rfl, hk, rfl, by decide⟩
  · subst h
    exact ⟨ready_of (by decide) rfl rfl, rfl, rfl, hk, rfl, by decide⟩

/-- An entry of the gang, posted by both members. -/
def gangEntry : MEntry := { MEntry.free with st := 2, gang := pairGang, team := pairTeam.uid }

/-- The bench with that entry and both groups of the gang. -/
def gangBench (g : Group) (e : MEntry) : State :=
  { matrixBench g [e] with groups := [g, { g with slot := 1, num := 1 }] }

/-- The decidable form of `MembersHere`. -/
def hereBool (s : State) (e : MEntry) (t : Team) : Bool :=
  (gangMembers e.gang).all fun m => s.groups.any fun h => h.num == m.2 && match s.team? h.team with
    | some u => u.m == t.m && (u.node == t.node && (u.act == t.act && (u.band == t.band && u.num == m.1)))
    | none => false

/-- See `hereBool`. -/
theorem here_iff {s : State} {e : MEntry} {t : Team} : hereBool s e t = true ↔ MembersHere s e t := by
  simp only [hereBool, List.all_eq_true, List.any_eq_true, Bool.and_eq_true, beq_iff_eq]
  refine forall_congr' fun m => forall_congr' fun _ => exists_congr fun h => and_congr_right fun _ => and_congr_right fun _ => ?_
  cases s.team? h.team with
  | none => simp
  | some u => simp

/-- MatrixRendezvous: the first arrival, the last, a release, another joint instruction's arrival, and a member that is gone. -/
theorem test_met_MatrixRendezvous : let g := matrixGroup pairGang (some 0) []
    let x := matrixIssue g
    let base (e : MEntry) : Prop := let s := gangBench g e
      MembersHere s e x.t ∧ (gangMembers e.gang).length ≤ 6 ∧ Ready s x none { sr := [0], sw := [9] } s ∧ x.g.mentry = some 0 ∧ 0 < (s.engine x.cluster).entries.length ∧
        (s.engine x.cluster).entry 0 = e ∧ e.gang ≠ 0 ∧ e.st ≠ 1 ∧ e.rel = 0 ∧ x.sp.resume ≠ 0 + 1 ∧
        gangIndex e.gang x.t.num x.g.num < 6
    base gangEntry ∧ base { gangEntry with arr := 2, joint := some 0 } ∧
    (base { gangEntry with go := 3, joint := some 0 } ∧ (3 : BitVec 6) &&& gangBit 0 ≠ 0) ∧
    (base { gangEntry with arr := 2, joint := some 1 } ∧ (2 : BitVec 6) ≠ 0) ∧
    (Ready (matrixBench g [gangEntry]) x none { sr := [0], sw := [9] } (matrixBench g [gangEntry]) ∧ gangEntry.go = 0 ∧
      ¬MembersHere (matrixBench g [gangEntry]) gangEntry x.t) :=
  ⟨⟨here_iff.mp (by decide), by decide, ready_of (by decide) rfl rfl, rfl, by decide, rfl, by decide, by decide, rfl, by decide, by decide⟩,
   ⟨here_iff.mp (by decide), by decide, ready_of (by decide) rfl rfl, rfl, by decide, rfl, by decide, by decide, rfl, by decide, by decide⟩,
   ⟨⟨here_iff.mp (by decide), by decide, ready_of (by decide) rfl rfl, rfl, by decide, rfl, by decide, by decide, rfl, by decide, by decide⟩,
    by decide⟩,
   ⟨⟨here_iff.mp (by decide), by decide, ready_of (by decide) rfl rfl, rfl, by decide, rfl, by decide, by decide, rfl, by decide, by decide⟩,
    by decide⟩,
   ready_of (by decide) rfl rfl, rfl, fun h => absurd (here_iff.mpr h) (by decide)⟩

/-- MatrixPosting: the three operations of a solo holder, one of a gang member past the rendezvous, and without a
reservation with and without reserved bits. -/
theorem test_met_MatrixPosting :
    (let g := matrixGroup 0 (some 0) []
     let e : MEntry := { MEntry.free with st := 2, wlt := true, wd := wDesc, team := pairTeam.uid }
     let s := matrixBench g [e]
     let x := matrixIssue g
     Ready s x none { sr := [0], sw := [9] } s ∧ Ready s x none { sr := [1], sw := [9] } s ∧ Ready s x none { sr := [2], sw := [9] } s ∧
       NoSafePoint x none ∧ x.g.mentry = some 0 ∧ 0 < (s.engine x.cluster).entries.length ∧ e.gang = 0 ∧
       (matrixPost s x 0 0 e (scalarReg s x 0)).isSome = true ∧ (matrixPost s x 1 0 e (scalarReg s x 1)).isSome = true ∧
       (matrixPost s x 2 0 e (scalarReg s x 2)).isSome = true ∧ NoRest s x ∧ (x.g.mposts.filter fun p => p.status.isNone).length < 4) ∧
    (let g := matrixGroup pairGang (some 0) []
     let sp := { benchSplit with resume := 1 }
     let g := { g with arch := { g.arch with splits := [sp] } }
     let e := { gangEntry with mwd := wDesc }
     let s := matrixBench g [e]
     let x := issueOf g pairTeam sp
     Ready s x none { sr := [0], sw := [9] } s ∧ x.g.mentry = some 0 ∧ x.sp.resume = 0 + 1 ∧
       e.gang ≠ 0 ∧
       (matrixPost s x 0 (gangIndex e.gang x.t.num x.g.num) e e.mwd).isSome = true) ∧
    (let g := matrixGroup 0 none []
     let s := matrixBench g []
     let x := matrixIssue g
     Ready s x none { sr := [0], sw := [9] } s ∧ x.g.mentry = none) :=
  ⟨⟨ready_of (by decide) rfl rfl, ready_of (by decide) rfl rfl, ready_of (by decide) rfl rfl, .inl rfl, rfl, by decide, rfl,
    by decide, by decide, by decide, noRest_of rfl, by decide⟩, ⟨ready_of (by decide) rfl rfl, rfl, rfl, by decide, by decide⟩,
    ready_of (by decide) rfl rfl, rfl⟩

/-- What an instruction leaves in the entry of number `n` of cluster 0: its state and how many operations are posted. -/
def entryAfter (n : Nat) (o : Out) : Option (BitVec 2 × Nat × Option Nat) :=
  match o with
  | .next s => some (((s.engine 0).entry n).st, ((s.engine 0).entry n).posted.length, (s.groups.head?).bind fun g => g.mentry)
  | _ => none

/-- `mreq` of a solo group takes the lowest free entry, which waits for a grant. -/
theorem test_mreq : entryAfter 1 (exec (.mreq ⟨none, 9⟩) (matrixBench (matrixGroup 0 none []) [{ MEntry.free with st := 2 }])) =
    some (2, 0, some 1) := by decide +kernel

/-- `mwl` of a solo holder posts its operation. -/
theorem test_mwl : entryAfter 0 (exec (.mwl ⟨none, 0, 9⟩) (matrixBench (matrixGroup 0 (some 0) [])
    [{ MEntry.free with st := 2, team := pairTeam.uid }])) = some (2, 1, some 0) := by decide +kernel

end Sys2Proof.Machine
end

