-- ==== Sys2Proof/Tests/Memory.lean ====
section
/-!
SUPPORT. States that meet the hypotheses of the statements about memory instructions, clause by clause, and what a few of
the instructions leave there.
-/
namespace Sys2Proof.Machine

set_option Elab.async false

/-! ## Decidable forms of the hypotheses -/

/-- A property of every element of a list follows from its decidable form. -/
theorem all_of {α : Type} {p : α → Prop} {b : α → Bool} (hb : ∀ a, b a = true → p a) {l : List α} (h : l.all b = true) :
    ∀ a ∈ l, p a := fun a ha => hb a (List.all_eq_true.mp h a ha)

/-- The decidable form of `LocalRange`. -/
def rangeBool (x : Issue) (a : AReg) (size ea : Nat) : Bool :=
  decide (1 ≤ a.rgn ∧ a.rgn ≤ 4) && decide (a.base.toNat ≤ ea) && decide (ea + size ≤ a.limit.toNat) &&
  decide (ea + size ≤ regionSize x.t a.rgn)

/-- See `rangeBool`. -/
theorem range_of {x : Issue} {a : AReg} {size ea : Nat} (h : rangeBool x a size ea = true) : LocalRange x a size ea := by
  simp only [rangeBool, Bool.and_eq_true, decide_eq_true_eq] at h
  obtain ⟨⟨⟨h1, h2⟩, h3⟩, h4⟩ := h
  exact ⟨h1, h2, h3, h4⟩

/-- The decidable form of `LocalReadable`. -/
def readBool (s : State) (key size : Nat) : Bool :=
  (List.range size).all fun b => decide (s.lineState ((key + b) / 128) = some .full) && !s.lpoison.contains ((key + b) / 128) &&
    !ownedC s ((key + b) / 4 * 4)

/-- See `readBool`. -/
theorem readable_of {s : State} {key size : Nat} (h : readBool s key size = true) : LocalReadable s key size := by
  intro b hb
  have := List.all_eq_true.mp h b (List.mem_range.mpr hb)
  simp only [Bool.and_eq_true, decide_eq_true_eq, Bool.not_eq_true', List.contains_eq_mem, decide_eq_false_iff_not] at this
  exact ⟨this.1.1, this.1.2, this.2⟩

/-- The decidable form of `LocalWritable`. -/
def writeBool (s : State) (core key size : Nat) : Bool :=
  (List.range size).all fun b => decide (s.lineState ((key + b) / 128) ≠ some .pending) && !sealedLine s core ((key + b) / 128)

/-- See `writeBool`. -/
theorem writable_of {s : State} {core key size : Nat} (h : writeBool s core key size = true) : LocalWritable s core key size := by
  intro b hb
  have := List.all_eq_true.mp h b (List.mem_range.mpr hb)
  simp only [Bool.and_eq_true, decide_eq_true_eq, Bool.not_eq_true'] at this
  exact this

/-- A result that is there and passes a check. -/
def okAnd {ε α : Type} (e : Except ε α) (p : α → Bool) : Bool :=
  match e with
  | .ok a => p a
  | .error _ => false

/-- See `okAnd`. -/
theorem ok_of {ε α : Type} {e : Except ε α} {p : α → Bool} (h : okAnd e p = true) : ∃ a, e = .ok a ∧ p a = true := by
  cases e with
  | ok a => exact ⟨a, rfl, h⟩
  | error _ => simp [okAnd] at h

/-- A piece of global memory that passes a check. -/
def globBool (p : Piece) (c : Nat → Page → Bool) : Bool :=
  match p.place with
  | .glob ga pg => c ga pg
  | _ => false

/-- See `globBool`. -/
theorem glob_of {p : Piece} {c : Nat → Page → Bool} (h : globBool p c = true) : ∃ ga pg, p.place = .glob ga pg ∧ c ga pg = true := by
  unfold globBool at h
  split at h
  · exact ⟨_, _, by assumption, h⟩
  · simp at h

/-! ## Local store -/

/-- A register block of eight lanes: v(8b+i) of lane `L` holds `f i L`. -/
def laneBlock (f : Nat → Nat → Word) : Block :=
  .resident ((List.range 8).flatMap fun i => (List.range 8).map fun L => f i L)

/-- The group of the bench with offsets 8L in v0, 16383 − L in v1 and data in v2 to v7. -/
def offsetGroup : Group :=
  withBlocks [laneBlock fun i L => BitVec.ofNat 32 (match i with
    | 0 => 8 * L
    | 1 => 16383 - L
    | _ => 100 * i + L)] { benchGroup with arch := { benchGroup.arch with sregs := [8, 16376, 0x0123456789ABCDEF] ++ List.replicate 45 0 } }

/-- The bench with the first line of the S region full, holding bytes 1 to 8 at its start. -/
def localBench : State :=
  { benchOf offsetGroup benchTeam with lines := [(384, .full)], lmem := memWriteLE [] 49152 8 0x0807060504030201 }

/-- What the instruction of `localBench` sees. -/
def localIssue : Issue := issueOf offsetGroup benchTeam benchSplit

/-- AddressChecks: a lane that fails each of the four checks while another fails a later one or none: PERM through a5 for an
atomic, ATTR in region 5, BOUNDS past the S region, ALIGN of an odd address. -/
theorem test_met_AddressChecks :
    (firstFault localIssue { addrReg localIssue.g 4 with perm := 0x04 } (loadKind 4) 0 = some 0) ∧
    (firstFault localIssue (addrReg localIssue.g 5) (skKind true false) 0 = some 0 ∨
      firstFault localIssue (addrReg localIssue.g 5) (loadKind 8) 0 = none) ∧
    (firstFault localIssue (addrReg localIssue.g 4) { loadKind 4 with regions := [0] } 0 = some 1) ∧
    (firstFault localIssue (addrReg localIssue.g 4) (loadKind 4) 16380 = none) ∧
    (firstFault localIssue (addrReg localIssue.g 4) (loadKind 4) 16381 = some 2) ∧
    (firstFault localIssue (addrReg localIssue.g 4) { loadKind 4 with aligned := true } 2 = some 3) ∧
    (let ops : List Machine.LaneOp := [⟨0, 0, 0, 0⟩, ⟨1, 2, 0, 0⟩, ⟨2, 16381, 0, 0⟩, ⟨3, 16382, 0, 0⟩]
     (ops.map (·.lane)).Nodup ∧ (∀ p ∈ ops, p.lane < 64) ∧ localIssue.g.arch.helpers.getLsbD 2 = false ∧
     ∀ p ∈ ops, ∀ n', firstFault localIssue (addrReg localIssue.g 4) { loadKind 4 with aligned := true } p.ea = some n' →
       2 < n' ∨ (2 = n' ∧ 2 ≤ p.lane)) := by
  refine ⟨by decide, by decide, by decide, by decide, by decide, by decide, by decide, by decide, by decide, ?_⟩
  intro p hp n' h
  have : ∀ p ∈ ([⟨0, 0, 0, 0⟩, ⟨1, 2, 0, 0⟩, ⟨2, 16381, 0, 0⟩, ⟨3, 16382, 0, 0⟩] : List Machine.LaneOp),
      (firstFault localIssue (addrReg localIssue.g 4) { loadKind 4 with aligned := true } p.ea).all
        (fun n' => decide (2 < n' ∨ (2 = n' ∧ 2 ≤ p.lane))) = true := by decide
  have := this p hp
  rw [h] at this
  exact of_decide_eq_true this

/-- LocalLoads: an acquiring load of doublewords at the start of the region and a load of bytes at its end; scalar loads. -/
theorem test_met_LocalLoads :
    (Ready localBench localIssue none { lr := [0], lw := [8, 9] } localBench ∧ NoSafePoint localIssue none ∧
      (addrReg localIssue.g 4).rd = true ∧ NoAcquire localIssue ∧ NoRest localBench localIssue ∧ OrderReady localBench localIssue (ordOf 0 3) 1 ∧
      (∀ L ∈ localIssue.lanes, LocalRange localIssue (addrReg localIssue.g 4) 8 (laneEa localIssue (addrReg localIssue.g 4) 0 L) ∧
        LocalReadable localBench (localAt localIssue (addrReg localIssue.g 4) (laneEa localIssue (addrReg localIssue.g 4) 0 L)) 8) ∧
      localIssue.lanes ≠ []) ∧
    (Ready localBench localIssue none { sr := [0], sw := [3] } localBench ∧
      LocalRange localIssue (addrReg localIssue.g 4) 8 (scalarEa localBench localIssue (addrReg localIssue.g 4) 0) ∧
      LocalReadable localBench (localAt localIssue (addrReg localIssue.g 4)
        (scalarEa localBench localIssue (addrReg localIssue.g 4) 0)) 8) :=
  ⟨⟨ready_of (by decide) rfl rfl, .inl rfl, rfl, fun _ h => (by simp [localIssue, issueOf, offsetGroup, withBlocks, benchGroup,
      launchGroup] at h), noRest_of rfl, fun _ => by decide,
    all_of (b := fun L => rangeBool localIssue (addrReg localIssue.g 4) 8 (laneEa localIssue (addrReg localIssue.g 4) 0 L) &&
      readBool localBench (localAt localIssue (addrReg localIssue.g 4) (laneEa localIssue (addrReg localIssue.g 4) 0 L)) 8)
      (fun L h => ⟨range_of (Bool.and_eq_true _ _ ▸ h).1, readable_of (Bool.and_eq_true _ _ ▸ h).2⟩) (by decide), by decide⟩,
    ready_of (by decide) rfl rfl, range_of (by decide), readable_of (by decide)⟩

/-- LocalStores: a releasing store of bytes at the end of the region, whose lines are empty, and a scalar store there. -/
theorem test_met_LocalStores :
    (Memory.wf localBench.lmem = true ∧ Ready localBench localIssue none { lr := [1, 2] } localBench ∧ NoSafePoint localIssue none ∧
      (addrReg localIssue.g 4).wr = true ∧ NoRest localBench localIssue ∧ OrderReady localBench localIssue (ordOf 0 2) 1 ∧
      (∀ L ∈ localIssue.liveLanes, LocalRange localIssue (addrReg localIssue.g 4) 1 (laneEa localIssue (addrReg localIssue.g 4) 1 L) ∧
        LocalWritable localBench 0 (localAt localIssue (addrReg localIssue.g 4) (laneEa localIssue (addrReg localIssue.g 4) 1 L)) 1) ∧
      localIssue.liveLanes ≠ []) ∧
    (Ready localBench localIssue none { sr := [1, 2] } localBench ∧
      LocalRange localIssue (addrReg localIssue.g 4) 8 (scalarEa localBench localIssue (addrReg localIssue.g 4) 1) ∧
      LocalWritable localBench 0 (localAt localIssue (addrReg localIssue.g 4)
        (scalarEa localBench localIssue (addrReg localIssue.g 4) 1)) 8) :=
  ⟨⟨by decide, ready_of (by decide) rfl rfl, .inl rfl, rfl, noRest_of rfl, fun _ => by decide,
    all_of (b := fun L => rangeBool localIssue (addrReg localIssue.g 4) 1 (laneEa localIssue (addrReg localIssue.g 4) 1 L) &&
      writeBool localBench 0 (localAt localIssue (addrReg localIssue.g 4) (laneEa localIssue (addrReg localIssue.g 4) 1 L)) 1)
      (fun L h => ⟨range_of (Bool.and_eq_true _ _ ▸ h).1, writable_of (Bool.and_eq_true _ _ ▸ h).2⟩) (by decide), by decide⟩,
    ready_of (by decide) rfl rfl, range_of (by decide), writable_of (by decide)⟩

/-- LocalAtomics, of a pair, ordered. -/
theorem test_met_LocalAtomics :
    (Instr.atomAddd ⟨none, false, 2, 4, 0, 2, false⟩).wf = true ∧
    Ready localBench localIssue none { lr := [0, 2, 3], lw := [2, 3] } localBench ∧ NoSafePoint localIssue none ∧
    (addrReg localIssue.g 4).atm = true ∧ (addrReg localIssue.g 4).rgn ≠ 5 ∧ NoRest localBench localIssue ∧ releaseReady localBench localIssue.g 1 = true ∧
    (∀ L ∈ localIssue.liveLanes, LocalRange localIssue (addrReg localIssue.g 4) 8 (laneEa localIssue (addrReg localIssue.g 4) 0 L) ∧
      laneEa localIssue (addrReg localIssue.g 4) 0 L % 8 = 0 ∧
      localAt localIssue (addrReg localIssue.g 4) (laneEa localIssue (addrReg localIssue.g 4) 0 L) % 8 = 0 ∧
      LocalReadable localBench (localAt localIssue (addrReg localIssue.g 4) (laneEa localIssue (addrReg localIssue.g 4) 0 L)) 8 ∧
      LocalWritable localBench 0 (localAt localIssue (addrReg localIssue.g 4) (laneEa localIssue (addrReg localIssue.g 4) 0 L)) 8) :=
  ⟨rfl, ready_of (by decide) rfl rfl, .inl rfl, rfl, by decide, noRest_of rfl, by decide,
    all_of (b := fun L => rangeBool localIssue (addrReg localIssue.g 4) 8 (laneEa localIssue (addrReg localIssue.g 4) 0 L) &&
        (decide (laneEa localIssue (addrReg localIssue.g 4) 0 L % 8 = 0) &&
        (decide (localAt localIssue (addrReg localIssue.g 4) (laneEa localIssue (addrReg localIssue.g 4) 0 L) % 8 = 0) &&
        (readBool localBench (localAt localIssue (addrReg localIssue.g 4) (laneEa localIssue (addrReg localIssue.g 4) 0 L)) 8 &&
        writeBool localBench 0 (localAt localIssue (addrReg localIssue.g 4) (laneEa localIssue (addrReg localIssue.g 4) 0 L)) 8))))
      (fun L h => by
        simp only [Bool.and_eq_true, decide_eq_true_eq] at h
        exact ⟨range_of h.1, h.2.1, h.2.2.1, readable_of h.2.2.2.1, writable_of h.2.2.2.2⟩) (by decide)⟩

/-- The lane values of the accesses under way of the first group. -/
def loadedOf (o : Out) : List (List (Nat × DWord)) :=
  match o with
  | .next s => (s.groups.take 1).flatMap fun g => g.txns.map (·.lanes)
  | _ => []

/-- A load of a halfword at byte 0 of the region reads its first two bytes, low byte first (R199, R2). -/
theorem test_load_half : (loadedOf (exec (.ldh ⟨none, false, 8, 4, 0, 0, 0⟩) localBench)).map (fun l => l.take 2) =
    [[(0, 0x0201), (1, 0)]] := by decide

/-- The local memory after an instruction. -/
def lmemOf (o : Out) : List Host.Cell :=
  match o with
  | .next s => s.lmem
  | _ => []

/-- A store of a byte at the end of the region leaves that byte of each lane. -/
theorem test_store_byte : memReadLE (lmemOf (exec (.stb ⟨none, false, 2, 4, 1, 0, 0⟩) localBench)) (49152 + 16376) 8 =
    0xC8C9CACBCCCDCECF := by decide +kernel

/-- A scalar store of a word writes the low half of its register. -/
theorem test_store_scalar : memReadLE (lmemOf (exec (.sst ⟨none, 2, 4, 1⟩) localBench)) (49152 + 16376) 8 = 0x89ABCDEF := by decide +kernel

/-- An atomic exchange returns what was there. -/
theorem test_exchange : (loadedOf (exec (.atomXchg ⟨none, false, 2, 4, 0, 0, false⟩) localBench)).map (fun l => l.take 2) =
    [[(0, 0x04030201), (1, 0)]] := by decide

/-- The group with offsets 28 + 64L in v0 and 28 in s0: doublewords across bank rows. -/
def rowGroup : Group :=
  withBlocks [laneBlock fun i L => BitVec.ofNat 32 (match i with | 0 => 28 + 64 * L | _ => 100 * i + L)]
    { benchGroup with arch := { benchGroup.arch with sregs := [28, 0x0123456789ABCDEF] ++ List.replicate 46 0 } }

/-- The bench of that group, the lines it reaches full. -/
def rowBench : State :=
  { benchOf rowGroup benchTeam with
    lines := [(384, .full), (385, .full), (386, .full), (387, .full)]
    lmem := memWriteLE [] (49152 + 28) 8 0x0807060504030201 }

/-- What the instruction of `rowBench` sees. -/
def rowIssue : Issue := issueOf rowGroup benchTeam benchSplit

/-- LocalLoads, LocalStores: doublewords of lanes and of the split that run on into a second bank row, loaded and stored. -/
theorem test_met_LocalRows :
    Ready rowBench rowIssue none { lr := [0], lw := [8, 9] } rowBench ∧ Ready rowBench rowIssue none { lr := [0, 2, 3] } rowBench ∧
    Ready rowBench rowIssue none { sr := [0], sw := [3] } rowBench ∧ Ready rowBench rowIssue none { sr := [0, 1] } rowBench ∧
    NoRest rowBench rowIssue ∧
    (∀ L ∈ rowIssue.lanes, LocalRange rowIssue (addrReg rowIssue.g 4) 8 (laneEa rowIssue (addrReg rowIssue.g 4) 0 L) ∧
      LocalReadable rowBench (localAt rowIssue (addrReg rowIssue.g 4) (laneEa rowIssue (addrReg rowIssue.g 4) 0 L)) 8 ∧
      LocalWritable rowBench 0 (localAt rowIssue (addrReg rowIssue.g 4) (laneEa rowIssue (addrReg rowIssue.g 4) 0 L)) 8) ∧
    (rowsInto (rowIssue.lanes.map fun L => (localAt rowIssue (addrReg rowIssue.g 4) (laneEa rowIssue (addrReg rowIssue.g 4) 0 L), 8))).length = 8 ∧
    scalarEa rowBench rowIssue (addrReg rowIssue.g 4) 0 = 28 :=
  ⟨ready_of (by decide) rfl rfl, ready_of (by decide) rfl rfl, ready_of (by decide) rfl rfl, ready_of (by decide) rfl rfl, noRest_of rfl,
    all_of (b := fun L => rangeBool rowIssue (addrReg rowIssue.g 4) 8 (laneEa rowIssue (addrReg rowIssue.g 4) 0 L) &&
      (readBool rowBench (localAt rowIssue (addrReg rowIssue.g 4) (laneEa rowIssue (addrReg rowIssue.g 4) 0 L)) 8 &&
        writeBool rowBench 0 (localAt rowIssue (addrReg rowIssue.g 4) (laneEa rowIssue (addrReg rowIssue.g 4) 0 L)) 8))
      (fun L h => by
        simp only [Bool.and_eq_true] at h
        exact ⟨range_of h.1, readable_of h.2.1, writable_of h.2.2⟩) (by decide), by decide, by decide⟩

/-- Local memory once the group has taken the next step of its access. -/
def lmemAfterRow (o : Out) : List Host.Cell :=
  match o with
  | .next s => (takeRow s 0 0).lmem
  | _ => []

/-- A doubleword stored across a bank row leaves its first row at once and the second in a step of its own (R189, R227). -/
theorem test_store_rows :
    memReadLE (lmemOf (exec (.sstd ⟨none, 1, 4, 0⟩) rowBench)) (49152 + 28) 8 = 0x0807060589ABCDEF ∧
    memReadLE (lmemAfterRow (exec (.sstd ⟨none, 1, 4, 0⟩) rowBench)) (49152 + 28) 8 = 0x0123456789ABCDEF := by decide +kernel

/-- LoadReturnWrites: an access whose data is back, of a pair, that acquires at cluster scope. -/
theorem test_met_LoadReturnWrites :
    let T : Txn := ⟨7, 0xFF, .lanes 118 2, false, [(0, 5)], 0, [(1, 1)], some 2⟩
    let g := { offsetGroup with txns := [T] }
    let s := { benchOf g benchTeam with
      ev := { a := 0, b := 0, c := 7 }
      l1 := [⟨0, 5, 0, .leased 1 100 false 0 0 0⟩] }
    s.group? s.ev.a s.ev.b = some g ∧ s.team? g.team = some benchTeam ∧ g.txns.find? (fun t => t.id == s.ev.c) = some T ∧ T.out = 0 ∧
      passTxn g T.id = false ∧ T.dest = .lanes 118 2 ∧ 118 + 2 ≤ 120 :=
  ⟨rfl, rfl, rfl, rfl, by decide, rfl, by decide⟩

/-! ## Global memory -/

/-- The bench with the pages of a6 uncached: the leaf without `CA`. -/
def uncachedBench : State :=
  { benchOf offsetGroup benchTeam with mem := memWriteLE (bench.mem) bootL1 8 (bootLeaf - 128) }

/-- The bench with some copies of lines in the L1 of its core. -/
def cacheBench (ks : List L1Kind) : State :=
  { benchOf offsetGroup benchTeam with l1 := ks.map fun k => ⟨0, 0, 0, k⟩ }

/-- The decidable form of `GlobalClear`, `NotPoisoned` and `Writable` together. -/
def goesBool (s : State) (x : Issue) (a : AReg) (k : Kind) (fd : Found) : Bool :=
  a.rgn == 0 && (fd.faults.isEmpty && (!mustWait s x a k fd.ok && fd.ok.all fun l =>
    !copyHolds s x.g.core x.g.slot (l.op.ea % 2 ^ 56) k.size && l.pieces.all fun p => globBool p fun ga _ =>
      !cutOff s x.m (lineMod (ga / 128)) && (!s.poison.contains (ga / 128) && ((s.headerQueue? (ga / 128)).isNone && !hitsSync s ga p.size))))

/-- The accesses of some lanes through `a` meet what the statements about global memory ask of them, and a check. -/
def GoesGlobal (s : State) (x y : Issue) (a : AReg) (k : Kind) (ops : List Machine.LaneOp) (q : Found → Bool) : Prop :=
  ∃ fd, checkLanes s y a k ops = .ok fd ∧ GlobalClear s x a k fd ∧ NotPoisoned s fd ∧ Writable s fd ∧ q fd = true

/-- See `goesBool`. -/
theorem goes_of {s : State} {x y : Issue} {a : AReg} {k : Kind} {ops : List Machine.LaneOp} {q : Found → Bool}
    (h : okAnd (checkLanes s y a k ops) (fun fd => goesBool s x a k fd && q fd) = true) : GoesGlobal s x y a k ops q := by
  obtain ⟨fd, hf, h⟩ := ok_of h
  simp only [goesBool, Bool.and_eq_true, Bool.not_eq_true', beq_iff_eq, List.isEmpty_iff, List.all_eq_true] at h
  obtain ⟨⟨h1, h2, h3, h4⟩, hq⟩ := h
  have hp : ∀ l ∈ fd.ok, ∀ p ∈ l.pieces, ∃ ga pg, p.place = .glob ga pg ∧ cutOff s x.m (lineMod (ga / 128)) = false ∧
      ga / 128 ∉ s.poison ∧ s.headerQueue? (ga / 128) = none ∧ hitsSync s ga p.size = false := fun l hl p hp => by
    obtain ⟨ga, pg, h5, h6⟩ := glob_of ((h4 l hl).2 p hp)
    simp only [Bool.and_eq_true, Bool.not_eq_true', List.contains_eq_mem, decide_eq_false_iff_not, Option.isNone_iff_eq_none] at h6
    exact ⟨ga, pg, h5, h6.1, h6.2.1, h6.2.2.1, h6.2.2.2⟩
  refine ⟨fd, hf, ⟨h1, h2, fun l hl p h => ?_, h3, fun l hl => (h4 l hl).1⟩, fun l hl p h ga pg he => ?_, fun l hl p h ga pg he => ?_, hq⟩
  · obtain ⟨ga, pg, h5, h6, _⟩ := hp l hl p h
    exact ⟨ga, pg, h5, h6⟩
  · obtain ⟨ga', pg', h5, _, h6, _⟩ := hp l hl p h
    obtain ⟨rfl, rfl⟩ : ga' = ga ∧ pg' = pg := by simpa [h5] using he
    exact h6
  · obtain ⟨ga', pg', h5, _, _, h6⟩ := hp l hl p h
    obtain ⟨rfl, rfl⟩ : ga' = ga ∧ pg' = pg := by simpa [h5] using he
    exact h6

/-- No copy of a line is under a lease that is over. -/
theorem leases_of {s : State} (h : s.l1.all (fun c => match c.kind with
      | .leased _ ex _ _ _ _ => decide (s.ltick < ex)
      | _ => true) = true) {core line : Nat} :
    ∀ c cls ex v ep d, s.l1? core line = some c → c.kind = .leased cls ex true v ep d → s.ltick < ex := by
  intro c cls ex v ep d h1 h2
  have h3 := List.all_eq_true.mp h c (List.mem_of_find?_eq_some h1)
  simpa [h2] using h3

/-- What the lanes of the bench store, of `k` bytes each. -/
def globalOps (k : Nat) : List Machine.LaneOp :=
  localIssue.liveLanes.map fun L => ⟨L, laneEa localIssue (addrReg localIssue.g 6) 0 L, BitVec.ofNat 64 (storeValue localIssue 2 k L), 0⟩

/-- GlobalAccessAsks: loads, plain and in order, of a line that is not in the L1 and of each copy it may hit or go past; a load on a
lease that is over; scalar loads and stores; stores, plain and in order, to a line that is not there, one held and one privatised, and
to an uncached page; atomics, those under `C` = 1 with a partial they join or none. -/
theorem test_met_GlobalAccessAsks :
    let x := localIssue
    let a := addrReg x.g 6
    let mine (s : State) (fd : Found) : Bool := match linesOf fd.ok with
      | [e] => e.1 == 0 && (!atHome s e.2 e.1 && !earlierReq s x e.1)
      | _ => false
    (∀ ks ∈ [[], [.owned 0], [.tracked], [.priv 0], [.leased 1 100 true 0 0 0]], let s := cacheBench ks
      Ready s x none { lr := [0], lw := [8, 9] } s ∧ NoSafePoint x none ∧ releaseReady s x.g (scopeOf s x) = true ∧
      GoesGlobal s x x a (loadKind 8) (x.lanes.map fun L => ⟨L, laneEa x a 0 L, 0, 0⟩) (mine s) ∧
      ∀ line c cls ex v ep d, s.l1? x.g.core line = some c → c.kind = .leased cls ex true v ep d → s.ltick < ex) ∧
    (let s := cacheBench [.leased 1 0 true 3 4 0]
     Ready s x none { lr := [0], lw := [8, 9] } s ∧ x.g.twi = none ∧ s.ltick = 0 ∧ s.l1? x.g.core 0 = some ⟨0, 0, 0, .leased 1 0 true 3 4 0⟩ ∧
     GoesGlobal s x x a (loadKind 8) (x.lanes.map fun L => ⟨L, laneEa x a 0 L, 0, 0⟩) (mine s)) ∧
    (let s := cacheBench []
     Ready s x none { sr := [0], sw := [9] } s ∧ Ready s x none { sr := [0, 2] } s ∧ Memory.wf s.mem = true ∧
     GoesGlobal s x (plainLane x) a (loadKind 8) [⟨0, scalarEa s x a 0, 0, 0⟩] (mine s) ∧
     GoesGlobal s x (plainLane x) a (storeKind 8)
      [⟨0, scalarEa s x a 0, BitVec.ofNat 64 ((scalarReg s x 2).toNat % 2 ^ (8 * 8)), 0⟩] (mine s)) ∧
    (∀ ks ∈ [[], [.owned 0], [.priv (BitVec.allOnes 128)]], let s := cacheBench ks
      Memory.wf s.mem = true ∧ Ready s x none { lr := 0 :: pairOf 2 4 } s ∧ releaseReady s x.g (scopeOf s x) = true ∧
      GoesGlobal s x x a (storeKind 4) (globalOps 4) (fun fd => mine s fd && (!halfDone s 0 && !tableBusy s 0 s.nextId))) ∧
    (let s := uncachedBench
     Memory.wf s.mem = true ∧ Ready s x none { lr := 0 :: pairOf 2 4 } s ∧ GoesGlobal s x x a (storeKind 4) (globalOps 4) fun fd =>
       (linesOf fd.ok).all fun e => atHome s e.2 e.1) ∧
    ∀ ks ∈ [[], [.part 0 [(0, 5)] [1] (none, 1)], [.owned 0]], let s := cacheBench ks
      Ready s x none { lr := [0, 2] } s ∧ Ready s x none { lr := [0, 2], lw := pairOf 2 4 } s ∧ releaseReady s x.g (scopeOf s x) = true ∧
      GoesGlobal s x x a (atomKind 0) (x.liveLanes.map fun L => ⟨L, laneEa x a 0 L, BitVec.ofNat 64 (laneReg x.t x.g 2 L).toNat, BitVec.ofNat 64 0⟩)
        (mine s) := by
  refine ⟨fun ks h => ?_, ⟨ready_of (by decide) rfl rfl, rfl, rfl, rfl, goes_of (by decide +kernel)⟩,
    ⟨ready_of (by decide) rfl rfl, ready_of (by decide) rfl rfl, by decide +kernel, goes_of (by decide +kernel), goes_of (by decide +kernel)⟩,
    fun ks h => ?_, ⟨by decide +kernel, ready_of (by decide) rfl rfl, goes_of (by decide +kernel)⟩, fun ks h => ?_⟩
  · have h : ks = [] ∨ ks = [.owned 0] ∨ ks = [.tracked] ∨ ks = [.priv 0] ∨ ks = [.leased 1 100 true 0 0 0] := by simpa using h
    rcases h with h | h | h | h | h <;> subst h <;>
      exact ⟨ready_of (by decide) rfl rfl, .inl rfl, by decide +kernel, goes_of (by decide +kernel), fun _ => leases_of (by decide)⟩
  · have h : ks = [] ∨ ks = [.owned 0] ∨ ks = [.priv (BitVec.allOnes 128)] := by simpa using h
    rcases h with h | h | h <;> subst h <;>
      exact ⟨by decide +kernel, ready_of (by decide) rfl rfl, by decide +kernel, goes_of (by decide +kernel)⟩
  · have h : ks = [] ∨ ks = [.part 0 [(0, 5)] [1] (none, 1)] ∨ ks = [.owned 0] := by simpa using h
    rcases h with h | h | h <;> subst h <;>
      exact ⟨ready_of (by decide) rfl rfl, ready_of (by decide) rfl rfl, by decide +kernel, goes_of (by decide +kernel)⟩

/-- The requests an instruction leaves: line and the lanes it carries. -/
def reqsOf (o : Out) : List (Nat × List Nat) :=
  match o with
  | .next s => s.reqs.map fun q => (q.line, q.accs.map (·.lane))
  | _ => []

/-- A load of bytes 16376 to 16383 asks for one line. -/
theorem test_load_asks : reqsOf (exec (.ldb ⟨none, false, 8, 6, 1, 0, 0⟩) (benchOf offsetGroup benchTeam)) =
    [(127, [0, 1, 2, 3, 4, 5, 6, 7])] := by decide

end Sys2Proof.Machine
end

