-- ==== Sys2Proof/Tests/Units.lean ====
section
/-!
SUPPORT. States that meet the hypotheses of the statements about copies, windows and queues, and what a few of their
instructions leave there.
-/
namespace Sys2Proof.Machine

set_option Elab.async false

/-! ## Copies and windows -/

/-- The image of a window of two rows of one line at the start of S (Table Tables 1), that is legal; `WRG` 4, an 8-bit format, 32
elements a row. -/
def windowImage : List DWord := [0x100000, BitVec.ofNat 64 (8 * 2 ^ 60 + 2 ^ 48 + 31 * 2 ^ 32 + 128), BitVec.ofNat 64 (4 * 2 ^ 14)]

/-- A region entry with that image. -/
def windowEntry (st : BitVec 2) : Region := { Region.zero with w0 := nth windowImage 0 0, w1 := nth windowImage 1 0, w2 := nth windowImage 2 0, st := st }

/-- The team of the bench with entry 3 of its region table. -/
def windowTeam (r : Region) : Team := { benchTeam with regions := benchTeam.regions.set 3 r }

/-- A group with a window image in s0 to s2, an image with a reserved bit in s3 to s5, and small numbers above. -/
def copyGroup (pending : List Nat) (batches : List Batch) : Group :=
  { withScalars (windowImage ++ [0x1000000000000000, 0, 0, 1, 2]) with pending := pending, batches := batches, bseq := batches.length }

/-- The bench with a team and a group. -/
def copyBench (g : Group) (r : Region) : State := benchOf g (windowTeam r)
/-- What an instruction sees there. -/
def copyIssue (g : Group) (r : Region) : Issue := issueOf g (windowTeam r) benchSplit

/-- The group in slot 0 of core 0 has a bank row still to reach. -/
def restBench (s : State) : State := { s with rests := [⟨0, 0, none, [], none, 0⟩] }

/-- There it has one. -/
theorem rest_of (s : State) {x : Issue} (h : x.g.core = 0 ∧ x.g.slot = 0) : ¬NoRest (restBench s) x :=
  fun k => k _ (List.mem_singleton.mpr rfl) ⟨h.1.symm, h.2.symm⟩

/-- CopyInstructions: a bound entry and an empty one; a close with room, and with sixteen batches open; a wait that is over and
one that is not; a `touch` that waits for a bank row. -/
theorem test_met_CopyInstructions :
    (let x := copyIssue (copyGroup [] []) (windowEntry 1)
     let s := copyBench (copyGroup [] []) (windowEntry 1)
     NoRest s x ∧ Ready (restBench s) x none {} (restBench s) ∧ ¬NoRest (restBench s) x) ∧
    (let x := copyIssue (copyGroup [] []) (windowEntry 1)
     Ready (copyBench (copyGroup [] []) (windowEntry 1)) x none {} (copyBench (copyGroup [] []) (windowEntry 1)) ∧ NoSafePoint x none ∧
       (x.t.region 3).st = 1 ∧ (x.t.region 3).src ≠ 2 ∧ (x.t.region 4).st ≠ 1 ∧
       Ready (copyBench (copyGroup [] []) (windowEntry 1)) x none { sr := [6] } (copyBench (copyGroup [] []) (windowEntry 1)) ∧
       ∀ b ∈ x.g.batches, min (scalarReg (copyBench (copyGroup [] []) (windowEntry 1)) x 6).toNat x.g.bseq < b.seq) ∧
    (let bs := (List.range 15).map fun i => (⟨i + 1, [i]⟩ : Batch)
     let g := copyGroup [77] bs
     Ready (copyBench g (windowEntry 1)) (copyIssue g (windowEntry 1)) none { sw := [9] } (copyBench g (windowEntry 1)) ∧
       g.batches.length < 16) ∧
    (let bs := (List.range 16).map fun i => (⟨i + 1, [i]⟩ : Batch)
     let g := copyGroup [77] bs
     Ready (copyBench g (windowEntry 1)) (copyIssue g (windowEntry 1)) none { sw := [9] } (copyBench g (windowEntry 1)) ∧
       16 ≤ g.batches.length ∧ g.pending ≠ [] ∧
       Ready (copyBench g (windowEntry 1)) (copyIssue g (windowEntry 1)) none { sr := [6] } (copyBench g (windowEntry 1)) ∧
       ∃ b ∈ g.batches, b.seq ≤ min (scalarReg (copyBench g (windowEntry 1)) (copyIssue g (windowEntry 1)) 6).toNat g.bseq) :=
  ⟨⟨noRest_of rfl, ready_of (by decide) rfl rfl, rest_of _ ⟨rfl, rfl⟩⟩,
    ⟨ready_of (by decide) rfl rfl, .inl rfl, by decide, by decide, by decide, ready_of (by decide) rfl rfl, by decide⟩,
    ⟨ready_of (by decide) rfl rfl, by decide⟩, ready_of (by decide) rfl rfl, by decide, by decide, ready_of (by decide) rfl rfl,
    by decide⟩

/-- What a step leaves of entry `e` of the first team and of a local line. -/
def windowAfter (e line : Nat) (o : Out) : Option (BitVec 2 × Option LineState) :=
  match o with
  | .next s => (s.teams.head?).map fun t => ((t.region e).st, s.lineState line)
  | _ => none

/-- `touch` makes the entry loading and the lines of its window pending. -/
theorem test_touch : windowAfter 3 385 (exec (.touch ⟨none, 3⟩) (copyBench (copyGroup [] []) (windowEntry 1))) =
    some (2, some .pending) := by decide +kernel

/-- RegionTable: a bind that is legal, of an empty entry and of one that loads, and two that are not; an entry unbound, sealed,
loading; an unseal with and without readers; a seal of a full entry and of an empty one. -/
theorem test_met_RegionTable :
    let base (r : Region) : Prop := let g := copyGroup [] []
      let s := copyBench g r
      let x := copyIssue g r
      Ready s x none {} s ∧ x.t.regions.length = 64 ∧ NoSafePoint x none
    let binds (r : Region) : Prop := let g := copyGroup [] []
      let s := copyBench g r
      let x := copyIssue g r
      Ready s x none { sr := [0, 1, 2] } s ∧ Ready s x none { sr := [3, 4, 5] } s
    let legal (r : Region) (q : Nat) : Bool := let g := copyGroup [] []
      let s := copyBench g r
      let x := copyIssue g r
      let e : Region := { r with w0 := scalarReg s x q, w1 := scalarReg s x (q + 1), w2 := scalarReg s x (q + 2), st := 1 }
      !r.sealed && !e.illFormed && !windowBad x.t e && !castBad s x.t e
    (let x := copyIssue (copyGroup [] []) (windowEntry 3)
     let s := copyBench (copyGroup [] []) (windowEntry 3)
     NoRest s x ∧ ¬NoRest (restBench s) x ∧ Ready (restBench s) x none { sr := [0, 1, 2] } (restBench s) ∧
       Ready (restBench s) x none { sw := [9] } (restBench s)) ∧
    (base Region.zero ∧ binds Region.zero ∧ legal Region.zero 0 = true ∧ legal Region.zero 3 = false) ∧
    (base (windowEntry 2) ∧ binds (windowEntry 2) ∧ legal (windowEntry 2) 0 = true ∧
      (copyIssue (copyGroup [] []) (windowEntry 2)).t.region 3 = windowEntry 2) ∧
    (base { windowEntry 3 with sealed := true, rcnt := 1 } ∧ binds { windowEntry 3 with sealed := true, rcnt := 1 } ∧
      legal { windowEntry 3 with sealed := true, rcnt := 1 } 0 = false) ∧
    (base (windowEntry 3) ∧ (windowEntry 3).rcnt = 0 ∧
      Ready (copyBench (copyGroup [] []) (windowEntry 3)) (copyIssue (copyGroup [] []) (windowEntry 3)) none { sw := [9] }
        (copyBench (copyGroup [] []) (windowEntry 3))) :=
  ⟨⟨noRest_of rfl, rest_of _ ⟨rfl, rfl⟩, ready_of (by decide) rfl rfl, ready_of (by decide) rfl rfl⟩,
   ⟨⟨ready_of (by decide) rfl rfl, by decide, .inl rfl⟩, ⟨ready_of (by decide) rfl rfl, ready_of (by decide) rfl rfl⟩,
    by decide +kernel, by decide +kernel⟩,
   ⟨⟨ready_of (by decide) rfl rfl, by decide, .inl rfl⟩, ⟨ready_of (by decide) rfl rfl, ready_of (by decide) rfl rfl⟩,
    by decide +kernel, rfl⟩,
   ⟨⟨ready_of (by decide) rfl rfl, by decide, .inl rfl⟩, ⟨ready_of (by decide) rfl rfl, ready_of (by decide) rfl rfl⟩,
    by decide +kernel⟩,
   ⟨ready_of (by decide) rfl rfl, by decide, .inl rfl⟩, rfl, ready_of (by decide) rfl rfl⟩

/-! ## Queues -/

/-- The bench with node 5 assigned, its queue region on a page of `TYPE` 1, threshold 16; node 7 of another virtual function;
and the queue of node 5. -/
def queueBench (g : Group) (q : Queue) : State :=
  let n := Config.nodeBase + 512 * 5
  let m := [(bootL1 + 8, 0x8E3), (n, 0x20000), (n + 16, 2 ^ 36 + 0x100000), (n + 32, 0x10000), (n + 56, 15), (n + 1024, 0x20000),
    (n + 1024 + 40, 3 * 2 ^ 16)].foldl (fun m (e : Nat × Nat) => memWriteLE m e.1 8 e.2) bench.mem
  { benchOf g benchTeam with mem := m, queues := [q] }

/-- The queue of node 5, of 16 records. -/
def benchQueue : Queue := { Queue.reset 0 5 with logCap := 4, en := true }

/-- A group with numbers of nodes in s0 to s2, words of `qctl` in s3 to s5. -/
def queueGroup : Group := withScalars [5, 6, 7, 0x70005, 0x70006, 0x400]

/-- The group with one lane that is no helper, and with none. -/
def helperGroup (m : Mask) : Group := { queueGroup with arch := { queueGroup.arch with helpers := m } }

/-- EmitResults: nodes that may not be named, a record past v119, a queue too small, a disabled queue, no lane, a full queue, room,
the record of a single lane, records of the hardware that wait with room for one, a slot whose line is in a round, and an `emit` that
goes on with the records it issued with. -/
theorem test_met_EmitResults :
    let ready (g : Group) (q : Queue) (f : EmitForm) : Prop :=
      Ready (queueBench g q) (issueOf g benchTeam benchSplit) none
        { lr := emitRegs (queueBench g q) f, sr := [f.q.toNat], sw := [f.k.toNat] } (queueBench g q)
    let e := nodeEntry (queueBench queueGroup benchQueue) 0
    (ready queueGroup benchQueue ⟨none, 1, 1, 9⟩ ∧ (e 6).assigned = false) ∧
    (ready queueGroup benchQueue ⟨none, 1, 2, 9⟩ ∧ (e 7).assigned = true ∧ (e 7).vf ≠ benchTeam.vf) ∧
    ((e 5).assigned = true ∧ (e 5).vf = benchTeam.vf ∧ (e 5).z = 32) ∧
    (ready queueGroup benchQueue ⟨none, 15, 0, 9⟩ ∧ 15 < 15 + (e 5).z / 32) ∧
    (ready queueGroup { benchQueue with logCap := 2 } ⟨none, 14, 0, 9⟩ ∧ 14 + (e 5).z / 32 ≤ 15 ∧
      ({ benchQueue with logCap := 2 } : Queue).cap < (issueOf queueGroup benchTeam benchSplit).liveLanes.length) ∧
    (ready queueGroup { benchQueue with en := false } ⟨none, 1, 0, 9⟩ ∧
      (issueOf queueGroup benchTeam benchSplit).liveLanes.length ≤ benchQueue.cap ∧ NoSafePoint (issueOf queueGroup benchTeam benchSplit) none) ∧
    (ready (helperGroup 0xFF) benchQueue ⟨none, 1, 0, 9⟩ ∧ (issueOf (helperGroup 0xFF) benchTeam benchSplit).liveLanes.length = 0) ∧
    (ready queueGroup { benchQueue with rsv := 20, fre := 4 } ⟨none, 1, 0, 9⟩ ∧ ReleaseNow (queueBench queueGroup benchQueue)
      (issueOf queueGroup benchTeam benchSplit) ∧ 16 < 20 - 4 + (issueOf queueGroup benchTeam benchSplit).liveLanes.length) ∧
    (ready queueGroup benchQueue ⟨none, 1, 0, 9⟩ ∧ benchQueue.rsv - benchQueue.fre + 8 ≤ benchQueue.cap ∧ benchQueue.pub = benchQueue.rsv ∧
      benchQueue.done = []) ∧
    (ready (helperGroup 0xFE) benchQueue ⟨none, 1, 0, 9⟩ ∧ (issueOf (helperGroup 0xFE) benchTeam benchSplit).liveLanes = [0] ∧
      Memory.wf (queueBench (helperGroup 0xFE) benchQueue).mem = true ∧ NoPartials (queueBench (helperGroup 0xFE) benchQueue) ∧
      ((translate (queueBench (helperGroup 0xFE) benchQueue) ((e 5).hwCtx 0) .write ((e 5).qva + 128)).toOption.map (·.phys) =
        some (.dram 0x100080))) ∧
    (benchSplit.emitRecs = none ∧ emitLevel (queueBench queueGroup benchQueue) (issueOf queueGroup benchTeam benchSplit) 5 = (0, false) ∧
      slotsHeld (queueBench queueGroup benchQueue) 0 5 8 = [] ∧
      emitLevel (queueBench queueGroup { benchQueue with waiting := [⟨0, 5, []⟩] }) (issueOf queueGroup benchTeam benchSplit) 5 = (1, true) ∧
      benchQueue.enAt 0 = true ∧ ({ benchQueue with en := false } : Queue).enAt 0 = false) ∧
    (let s := { queueBench queueGroup benchQueue with dir := [{ DirEntry.fresh (0x100080 / 128) 0 with st := 3 }] }
     Ready s (issueOf queueGroup benchTeam benchSplit) none { lr := emitRegs s ⟨none, 1, 0, 9⟩, sr := [0], sw := [9] } s ∧
       slotsHeld s 0 5 8 ≠ []) ∧
    (let sp := { benchSplit with emitRecs := some [List.replicate 32 7], emitAt := some (5, 1) }
     let g := { queueGroup with arch := { queueGroup.arch with splits := [sp] } }
     let s := queueBench g benchQueue
     Ready s (issueOf g benchTeam sp) none { lr := emitRegs s ⟨none, 1, 0, 9⟩, sr := [0], sw := [9] } s ∧
       releaseReady s g (capScope s (issueOf g benchTeam sp) (oscOf g)).1 = true) ∧
    (let g := { queueGroup with txns := [⟨7, 0xFF, .lanes 30 1, false, [], 1, [], none⟩] }
     ready g benchQueue ⟨none, 1, 0, 9⟩ ∧ releaseReady (queueBench g benchQueue) g (min (oscOf g)
      ((queueBench g benchQueue).vf 0 0).cap.toNat) = false) :=
  ⟨⟨ready_of (by decide) rfl rfl, by decide⟩, ⟨ready_of (by decide) rfl rfl, by decide, by decide⟩, ⟨by decide, by decide, by decide⟩,
    ⟨ready_of (by decide) rfl rfl, by decide⟩, ⟨ready_of (by decide) rfl rfl, by decide, by decide⟩,
    ⟨ready_of (by decide) rfl rfl, by decide, .inl rfl⟩, ⟨ready_of (by decide) rfl rfl, by decide⟩,
    ⟨ready_of (by decide) rfl rfl, (by unfold ReleaseNow; decide), by decide⟩, ⟨ready_of (by decide) rfl rfl, by decide, rfl, rfl⟩,
    ⟨ready_of (by decide) rfl rfl, by decide, by decide +kernel, noPartials_of rfl, by decide +kernel⟩,
    ⟨rfl, by decide, by decide +kernel, by decide, rfl, rfl⟩, ⟨ready_of (by decide) rfl rfl, by decide +kernel⟩,
    ⟨ready_of (by decide) rfl rfl, by decide⟩, ready_of (by decide) rfl rfl, by decide⟩

/-- `RSV` and `PUB` of the first queue, and s9 of the first group, after an instruction. -/
def queueAfter (o : Out) : Option (Nat × Nat × DWord) :=
  match o with
  | .next s => (s.queues.head?).map fun q => (q.rsv, q.pub, ((s.groups.head?).map fun g => nth g.arch.sregs 9 0).getD 0)
  | _ => none

/-- An `emit` of the one lane that is no helper reserves index 8 and publishes it. -/
theorem test_emit : queueAfter (exec (.emit ⟨none, 1, 0, 9⟩) (queueBench (helperGroup 0xFE) { benchQueue with rsv := 8, pub := 8 })) =
    some (9, 9, 0x80001) := by decide +kernel

/-- Bytes of memory that list no entry read as zero. -/
theorem memReadLE_none {m : List Host.Cell} : ∀ (n a : Nat), (∀ e ∈ m, e.1 < a ∨ a + n ≤ e.1) → memReadLE m a n = 0
  | 0, _, _ => rfl
  | n + 1, a, h => by
    have h0 : ∀ m : List Host.Cell, (∀ e ∈ m, e.1 ≠ a) → memRead m a = 0 := by
      intro m
      induction m with
      | nil => intro _; rfl
      | cons e m ih =>
        intro h
        have he := h e (List.mem_cons_self ..)
        have hm := ih fun e he => h e (List.mem_cons_of_mem _ he)
        show (if a < e.1 then 0 else if a = e.1 then e.2 else memRead m a) = 0
        split
        · rfl
        · rw [if_neg (Ne.symm he), hm]
    show (memRead m a).toNat + 256 * memReadLE m (a + 1) n = 0
    rw [h0 m fun e he => by have := h e he; omega, memReadLE_none n (a + 1) fun e he => by have := h e he; omega]
    rfl

/-- No other node's region begins in that of node 5. -/
theorem unshared : let s := queueBench queueGroup { benchQueue with en := false }
    regionShared s 0 5 (nodeEntry s 0 5) (128 + ({ benchQueue with en := false } : Queue).cap * (nodeEntry s 0 5).z) = false := by
  have hm : ∀ e ∈ (queueBench queueGroup { benchQueue with en := false }).mem,
      e.1 < Config.nodeBase ∨ e.1 / 512 = Config.nodeBase / 512 + 5 ∨ e.1 / 512 = Config.nodeBase / 512 + 7 := by decide +kernel
  intro s
  refine List.any_eq_false.mpr fun k _ => ?_
  by_cases h5 : k = 5
  · subst h5
    simp
  by_cases h7 : k = 7
  · subst h7
    decide +kernel
  · have h0 : (nodeEntry s 0 k).assigned = false := by
      have : (nodeEntry s 0 k).kva = 0 := by
        refine memReadLE_none 8 _ fun e he => ?_
        have hb : nodeAddr s 0 k 0 = Config.nodeBase + 512 * k := by
          show 0 * 2 ^ 40 + Config.nodeBase + 512 * k + 0 = _
          omega
        have := hm e he
        rw [hb]
        simp only [Config.nodeBase] at this ⊢
        omega
      simp [NodeEntry.assigned, this]
    simp [h0]

/-- QueueControl: legal operations, one refused, one of a node that may not be named, reserved bits; an enable that fits and one
whose queue is smaller than the node's threshold. -/
theorem test_met_QueueControl :
    let q := { benchQueue with en := false }
    let s := queueBench queueGroup q
    let x := issueOf queueGroup benchTeam benchSplit
    (Ready s x none { sr := [3], sw := [9], pl := 1 } s ∧ queueWordOk (scalarReg s x 3) = true ∧ queueNode (scalarReg s x 3) = 5 ∧
      (nodeEntry s 0 5).assigned = true ∧ (nodeEntry s 0 5).vf = x.t.vf ∧ NoSafePoint x none ∧
      ([Instr.qctlStat ⟨none, 3, 9⟩, .qctlDisable ⟨none, 3, 9⟩, .qctlInit ⟨none, 3, 9⟩, .qctlPeriod ⟨none, 3, 9⟩,
        .qctlSupervisor ⟨none, 3, 9⟩, .qctlClear ⟨none, 3, 9⟩].all fun i => (queueWork i).any fun w =>
          !w.2.2.1 q (queueArg (scalarReg s x 3))) = true) ∧
    (Ready s x none { sr := [0], sw := [9], pl := 1 } s ∧ queueWordOk (scalarReg s x 0) = true ∧
      ((queueWork (.qctlInit ⟨none, 0, 9⟩)).map fun w => w.2.2.1 q (queueArg (scalarReg s x 0))) = some true) ∧
    (Ready s x none { sr := [4], sw := [9] } s ∧ queueWordOk (scalarReg s x 4) = true ∧
      (nodeEntry s 0 (queueNode (scalarReg s x 4))).assigned = false) ∧
    (Ready s x none { sr := [5], sw := [9] } s ∧ queueWordOk (scalarReg s x 5) = false) ∧
    ((nodeEntry s 0 5).thresh ≤ q.cap ∧ regionHolds s 0 (nodeEntry s 0 5) (128 + q.cap * (nodeEntry s 0 5).z) = true ∧
      regionShared s 0 5 (nodeEntry s 0 5) (128 + q.cap * (nodeEntry s 0 5).z) = false) ∧
    ((nodeEntry s 0 5).grid = false ∧ ¬(nodeEntry s 0 5).thresh ≤ ({ q with logCap := 3 } : Queue).cap ∧ NoPartials s) :=
  ⟨⟨ready_of (by decide) rfl rfl, by decide, by decide, by decide, by decide, .inl rfl, by decide⟩,
    ⟨ready_of (by decide) rfl rfl, by decide, by decide⟩, ⟨ready_of (by decide) rfl rfl, by decide, by decide⟩,
    ⟨ready_of (by decide) rfl rfl, by decide⟩, ⟨by decide, by decide +kernel, unshared⟩,
    by decide, by decide, noPartials_of rfl⟩

end Sys2Proof.Machine
end

