-- ==== Sys2Proof/Tests/Sync.lean ====
section
/-!
SUPPORT. States that meet the hypotheses of the statements about sync words and chunk graphs, and what a few of their
instructions leave there.
-/
namespace Sys2Proof.Machine

set_option Elab.async false

/-! ## Sync words -/

/-- A page of the bench at an address. -/
def syncPage : Page := ⟨.dram 0x40000, 0, false, true, 0, 0, 6⟩

/-- The word of the tests. -/
def syncAt : SyncAt := ⟨0x40000, 0x40000, syncPage, 0⟩

/-- The group: the word's address in s0, small numbers above, a barrier image with a parent one word down, one with reserved
bits. -/
def syncGroup : Group := withScalars [0x40000, 5, 0, 0xFFFFFF0000000002, 0x100000, 1, 2]

/-- The bench with a word tagged and holding a value. -/
def syncBench (g : Group) (tag : Option SyncTag) (v : Nat) (bars : List TeamBar) : State :=
  let s := benchOf g { benchTeam with bars := bars }
  { s with
    mem := memWriteLE s.mem 0x40000 8 v
    sync := match tag with
      | some t => [(0x8000, t)]
      | none => [] }

/-- What an instruction sees there. -/
def syncIssue (g : Group) (bars : List TeamBar) (sp : Split) : Issue := issueOf g { benchTeam with bars := bars } sp

/-- The decidable form of `SyncWord`. -/
def syncBool (s : State) (x : Issue) (f : SyncForm) (write : Bool) (w : SyncAt) : Bool :=
  (addrReg x.g f.ar.toNat).atm && (decide ((addrReg x.g f.ar.toNat).rgn = 0) &&
  (decide (w.va = ((addrReg x.g f.ar.toNat).ptr.setWidth 64 + scalarReg s x f.p.toNat).toNat) &&
  (decide ((addrReg x.g f.ar.toNat).base.toNat ≤ w.va ∧ w.va + 8 ≤ (addrReg x.g f.ar.toNat).limit.toNat) &&
  (decide (w.va % 8 = 0) &&
  (okAnd (translate s { x.t.tctx with m := x.m } (if write then .write else .read) (w.va % 2 ^ 56)) (fun p => decide (p = w.page)) &&
  (decide (w.page.ty = 0) && (decide (w.page.phys = .dram w.ga) && (decide (w.m = x.m) &&
  (!cutOff s x.m (lineMod (w.ga / 128)) && syncReady s x write w)))))))))

/-- See `syncBool`. -/
theorem syncWord_of {s : State} {x : Issue} {f : SyncForm} {write : Bool} {w : SyncAt} (h : syncBool s x f write w = true) :
    SyncWord s x f write w := by
  simp only [syncBool, Bool.and_eq_true, decide_eq_true_eq, Bool.not_eq_true'] at h
  obtain ⟨h1, h2, h3, h4, h5, h6, h7, h8, h9, h10, h11⟩ := h
  obtain ⟨p, h6, hp⟩ := ok_of h6
  exact ⟨h1, h2, h3, h4, h5, of_decide_eq_true hp ▸ h6, h7, h8, h9, h10, h11⟩

/-- CounterResults: a word that is none and one that is a counter, for a set, an increment, a wait below, at and above its value. -/
theorem test_met_CounterResults :
    (let s := syncBench syncGroup none 7 []
     let x := syncIssue syncGroup [] benchSplit
     Ready s x none { sr := [0, 1] } s ∧ x.live ≠ 0 ∧ SyncWord s x ⟨none, 0, 6, 1⟩ true syncAt ∧ ReleaseNow s x ∧ NoSafePoint x none ∧
       Memory.wf s.mem = true ∧ NoPartials s ∧ lookupNat (syncAt.ga / 8) s.sync = none ∧
       Ready s x none { sr := [0, 1], sw := [1] } s ∧ SyncWord s x ⟨none, 0, 6, 1⟩ false syncAt) ∧
    (let s := syncBench syncGroup (some .counter) 5 []
     let x := syncIssue syncGroup [] benchSplit
     Ready s x none { sr := [0, 1] } s ∧ SyncWord s x ⟨none, 0, 6, 1⟩ true syncAt ∧ lookupNat (syncAt.ga / 8) s.sync = some .counter ∧
       syncAt.ga / 128 ∉ s.poison ∧ Ready s x none { sr := [0, 1], sw := [1] } s ∧ SyncWord s x ⟨none, 0, 6, 1⟩ false syncAt ∧
       x.sp.killed = false ∧ (scalarReg s x 1).toNat ≤ memReadLE s.mem syncAt.ga 8 ∧ x.live ≠ 0) ∧
    (let s := syncBench syncGroup (some .counter) 4 []
     let x := syncIssue syncGroup [] benchSplit
     Ready s x none { sr := [0, 1], sw := [1] } s ∧ SyncWord s x ⟨none, 0, 6, 1⟩ false syncAt ∧
       memReadLE s.mem syncAt.ga 8 < (scalarReg s x 1).toNat) ∧
    (let g := { syncGroup with arch := { syncGroup.arch with helpers := 0xFF } }
     Ready (syncBench g none 0 []) (syncIssue g [] benchSplit) none { sr := [0, 1] } (syncBench g none 0 []) ∧ (syncIssue g [] benchSplit).live = 0) :=
  ⟨⟨ready_of (by decide) rfl rfl, by decide, syncWord_of (by decide +kernel), by unfold ReleaseNow; decide, .inl rfl, by decide,
    noPartials_of rfl, rfl, ready_of (by decide) rfl rfl,
    syncWord_of (by decide +kernel)⟩,
   ⟨ready_of (by decide) rfl rfl, syncWord_of (by decide +kernel), rfl, by decide, ready_of (by decide) rfl rfl,
    syncWord_of (by decide +kernel), rfl, by decide, by decide⟩,
   ⟨ready_of (by decide) rfl rfl, syncWord_of (by decide +kernel), by decide⟩,
   ready_of (by decide) rfl rfl, by decide⟩

/-- The group whose remote increment has been acknowledged with a value. -/
def ackedGroup (v : DWord) : Group :=
  { syncGroup with
    txns := [⟨7, 0xFF, .lanes 0 0, true, [(0, v)], 0, [], none⟩]
    arch := { syncGroup.arch with splits := [{ benchSplit with passTxn := some 7 }] } }

/-- The decidable form of `RemoteWord`. -/
def remoteWordBool (s : State) (x : Issue) (f : SyncForm) (w : SyncAt) : Bool :=
  let a := addrReg x.g f.ar.toNat
  decide ((scalarReg s x f.p.toNat).extractLsb' 52 12 = 0) && (decide (a.atm = true ∧ a.rmt = true) && (decide (a.rgn = 0) &&
  (decide (w.va = (a.ptr.setWidth 64 + ((scalarReg s x f.p.toNat).extractLsb' 0 48).signExtend 64).toNat) &&
  (decide (a.base.toNat ≤ w.va ∧ w.va + 8 ≤ a.limit.toNat) && (decide (w.va % 8 = 0) &&
  (decide (w.m = ((scalarReg s x f.p.toNat).extractLsb' 48 4).toNat ∧ s.inFabric w.m = true) &&
  (okAnd (translate s { x.t.tctx with m := w.m } .write (w.va % 2 ^ 56)) (fun p => decide (p = w.page)) &&
  (decide (w.page.ty = 0) && (decide (w.page.phys = .dram w.ga) && (!cutOff s x.m w.m && decide (streamRoom s x.g.core w.m ≠ 0)))))))))))

/-- See `remoteWordBool`. -/
theorem remoteWord_of {s : State} {x : Issue} {f : SyncForm} {w : SyncAt} (h : remoteWordBool s x f w = true) : RemoteWord s x f w := by
  simp only [remoteWordBool, Bool.and_eq_true, decide_eq_true_eq, Bool.not_eq_true'] at h
  obtain ⟨h1, h2, h3, h4, h5, h6, h7, h8, h9, h10, h11, h12⟩ := h
  obtain ⟨p, h8, hp⟩ := ok_of h8
  exact ⟨h1, h2, h3, h4, h5, h6, h7, of_decide_eq_true hp ▸ h8, h9, h10, h11, h12⟩

/-- KillAndRemoteIncrement: a live word and one that is none; an increment sent, one that waits, one performed and one that found no
counter. -/
theorem test_met_KillAndRemoteIncrement :
    (let s := syncBench syncGroup (some .barrier) 5 []
     let x := syncIssue syncGroup [] benchSplit
     Ready s x none { sr := [0], sw := [1] } s ∧ x.live ≠ 0 ∧ SyncWord s x ⟨none, 0, 6, 1⟩ true syncAt ∧ ReleaseNow s x ∧
       lookupNat (syncAt.ga / 8) s.sync ≠ none ∧ syncAt.ga / 128 ∉ s.poison ∧ NoSafePoint x none) ∧
    (let s := syncBench syncGroup none 5 []
     let x := syncIssue syncGroup [] benchSplit
     Ready s x none { sr := [0], sw := [1] } s ∧ SyncWord s x ⟨none, 0, 6, 1⟩ true syncAt ∧ lookupNat (syncAt.ga / 8) s.sync = none) ∧
    (let s := syncBench syncGroup (some .counter) 5 []
     let x := syncIssue syncGroup [] benchSplit
     Ready s x none { sr := [0, 1] } s ∧ x.sp.passTxn = none ∧ releaseReady s x.g (capScope s x 5).1 = true ∧
       RemoteWord s x ⟨none, 0, 6, 1⟩ syncAt) ∧
    (let g := { ackedGroup 0 with txns := [⟨7, 0xFF, .lanes 0 0, true, [(0, 0)], 1, [], none⟩] }
     let x := syncIssue g [] { benchSplit with passTxn := some 7 }
     Ready (syncBench g none 5 []) x none { sr := [0, 1] } (syncBench g none 5 []) ∧ x.g.txns.map (fun T => (T.id, T.out)) = [(7, 1)]) ∧
    (∀ v ∈ [(1 : DWord), 0], let g := ackedGroup v
     let s := syncBench g none 5 []
     let x := syncIssue g [] { benchSplit with passTxn := some 7 }
     Ready s x none { sr := [0, 1] } s ∧ x.live ≠ 0 ∧ x.sp.passTxn = some 7 ∧
       (x.g.txns.find? (fun t => t.id == 7)).map (fun T => (T.out, T.lanes)) = some (0, [(0, v)]) ∧ NoSafePoint x none) := by
  refine ⟨⟨ready_of (by decide) rfl rfl, by decide, syncWord_of (by decide +kernel), by unfold ReleaseNow; decide,
      by decide, by decide, .inl rfl⟩,
    ⟨ready_of (by decide) rfl rfl, syncWord_of (by decide +kernel), rfl⟩,
    ⟨ready_of (by decide) rfl rfl, rfl, by decide +kernel, remoteWord_of (by decide +kernel)⟩,
    ⟨ready_of (by decide) rfl rfl, rfl⟩, fun v hv => ?_⟩
  have hv : v = 1 ∨ v = 0 := by simpa using hv
  rcases hv with h | h
  · subst h
    exact ⟨ready_of (by decide) rfl rfl, by decide, rfl, rfl, .inl rfl⟩
  · subst h
    exact ⟨ready_of (by decide) rfl rfl, by decide, rfl, rfl, .inl rfl⟩

/-- A barrier of the team of the tests at the word. -/
def syncBar (arrived : BitVec 32) : TeamBar := ⟨0x40000, 0x40000, 1, arrived⟩

/-- BarrierWords: a word that is none, with images that are legal and one that is not, a team's list with and without a place; an
arrival that completes a count with a parent, one at the team's barrier for the first and for the second time in a phase, one
at a word that is no barrier, one at another team's. -/
theorem test_met_BarrierWords :
    (let s := syncBench syncGroup none 0 []
     let x := syncIssue syncGroup [] benchSplit
     Ready s x none { sr := [0, 3] } s ∧ x.live ≠ 0 ∧ SyncWord s x ⟨none, 0, 6, 3⟩ true syncAt ∧ ReleaseNow s x ∧ NoSafePoint x none ∧
       (scalarReg s x 3).extractLsb' 16 24 = 0 ∧ (scalarReg s x 3).extractLsb' 0 16 ≠ 0 ∧ Memory.wf s.mem = true ∧ NoPartials s ∧
       lookupNat (syncAt.ga / 8) s.sync = none ∧ x.t.bars.length < 8 ∧
       Ready s x none { sr := [0, 4] } s ∧ (scalarReg s x 4).extractLsb' 16 24 ≠ 0 ∧
       Ready s x none { sr := [0], sw := [9] } s) ∧
    (let bars := List.replicate 8 (syncBar 0)
     Ready (syncBench syncGroup none 0 bars) (syncIssue syncGroup bars benchSplit) none { sr := [0, 3] } (syncBench syncGroup none 0 bars) ∧
       SyncWord (syncBench syncGroup none 0 bars) (syncIssue syncGroup bars benchSplit) ⟨none, 0, 6, 3⟩ true syncAt ∧ 8 ≤ bars.length) ∧
    (let s := syncBench syncGroup (some .barrier) 0xFFFFFF0500010002 []
     let x := syncIssue syncGroup [] benchSplit
     Ready s x none { sr := [0], sw := [9] } s ∧ SyncWord s x ⟨none, 0, 6, 9⟩ true syncAt ∧
       lookupNat (syncAt.ga / 8) s.sync = some .barrier ∧ barEx (memReadLE s.mem syncAt.ga 8) ≤ barArr (memReadLE s.mem syncAt.ga 8) + 1 ∧
       barPar (memReadLE s.mem syncAt.ga 8) ≠ 0 ∧ (s.teams.find? fun t => t.bars.any fun b => b.word == syncAt.ga) = none ∧
       syncAt.ga / 128 ∉ s.poison) ∧
    (∀ a ∈ [(0 : BitVec 32), 1], let s := syncBench syncGroup (some .barrier) 0x10002 [syncBar a]
     let x := syncIssue syncGroup [syncBar a] benchSplit
     Ready s x none { sr := [0], sw := [9] } s ∧ SyncWord s x ⟨none, 0, 6, 9⟩ true syncAt ∧
       (s.teams.find? fun t => t.bars.any fun b => b.word == syncAt.ga) = some x.t ∧ x.t.bars.find? (fun b => b.word == syncAt.ga) = some (syncBar a) ∧
       ((∀ b ∈ x.t.bars, b.word = syncAt.ga → b.arrived &&& 1#32 <<< x.g.num = 0) ∨ (syncBar a).arrived &&& 1#32 <<< x.g.num ≠ 0) ∧ x.g.num < 32) ∧
    (let y := { benchTeam with uid := 99, bars := [syncBar 0] }
     let s := { syncBench syncGroup (some .barrier) 2 [] with teams := [benchTeam, y] }
     let x := syncIssue syncGroup [] benchSplit
     Ready s x none { sr := [0], sw := [9] } s ∧ SyncWord s x ⟨none, 0, 6, 9⟩ true syncAt ∧
       (s.teams.find? fun t => t.bars.any fun b => b.word == syncAt.ga) = some y ∧ y.uid ≠ x.t.uid) := by
  refine ⟨⟨ready_of (by decide) rfl rfl, by decide, syncWord_of (by decide +kernel), by unfold ReleaseNow; decide, .inl rfl,
      by decide, by decide, by decide, noPartials_of rfl, rfl, by decide,
      ready_of (by decide) rfl rfl, by decide, ready_of (by decide) rfl rfl⟩,
    ⟨ready_of (by decide) rfl rfl, syncWord_of (by decide +kernel), by decide⟩,
    ⟨ready_of (by decide) rfl rfl, syncWord_of (by decide +kernel), rfl, by decide, by decide, rfl,
      by decide⟩, fun a ha => ?_,
    ⟨ready_of (by decide) rfl rfl, syncWord_of (by decide +kernel), rfl, by decide⟩⟩
  have ha : a = 0 ∨ a = 1 := by simpa using ha
  rcases ha with h | h
  · subst h
    exact ⟨ready_of (by decide) rfl rfl, syncWord_of (by decide +kernel), rfl, rfl, .inl (by decide), by decide⟩
  · subst h
    exact ⟨ready_of (by decide) rfl rfl, syncWord_of (by decide +kernel), rfl, rfl, .inr (by decide), by decide⟩

/-- The word and s9 after an instruction. -/
def syncAfter (o : Out) : Option (Nat × DWord × List (Nat × SyncTag)) :=
  match o with
  | .next s => some (memReadLE s.mem 0x40000 8, ((s.groups.head?).map fun g => nth g.arch.sregs 9 0).getD 0, s.sync)
  | _ => none

/-- The last arrival moves the barrier to phase 6 with none arrived. -/
theorem test_bararr : syncAfter (exec (.bararr ⟨none, 0, 6, 9⟩) (syncBench syncGroup (some .barrier) 0xFFFFFF0500010002 [])) =
    some (0xFFFFFF0600000002, 5, [(0x8000, .barrier)]) := by decide +kernel

/-- `synkill` writes the value and leaves it. -/
theorem test_synkill : syncAfter (exec (.synkill ⟨none, 0, 6, 9⟩) (syncBench syncGroup (some .counter) 5 [])) = some (5, 5, []) := by
  decide +kernel

/-- BarrierWaits: a phase that has moved and one that has not, and a word that is no barrier. -/
theorem test_met_BarrierWaits :
    (let s := syncBench syncGroup (some .barrier) 0x500010002 []
     let x := syncIssue syncGroup [] benchSplit
     Ready s x none { sr := [0, 1] } s ∧ SyncWord s x ⟨none, 0, 6, 1⟩ false syncAt ∧ x.sp.killed = false ∧
       barPh (memReadLE s.mem syncAt.ga 8) = (scalarReg s x 1).toNat % 256 ∧ Ready s x none { sr := [0, 1], sw := [1] } s ∧
       syncAt.ga / 128 ∉ s.poison) ∧
    (let s := syncBench syncGroup (some .barrier) 0x600010002 []
     let x := syncIssue syncGroup [] benchSplit
     Ready s x none { sr := [0, 1] } s ∧ SyncWord s x ⟨none, 0, 6, 1⟩ false syncAt ∧ NoSafePoint x none ∧
       barPh (memReadLE s.mem syncAt.ga 8) ≠ (scalarReg s x 1).toNat % 256 ∧ Ready s x none { sr := [0, 1], sw := [1] } s) ∧
    (let s := syncBench syncGroup (some .counter) 2 []
     let x := syncIssue syncGroup [] benchSplit
     Ready s x none { sr := [0, 1] } s ∧ SyncWord s x ⟨none, 0, 6, 1⟩ false syncAt ∧ lookupNat (syncAt.ga / 8) s.sync ≠ some .barrier) :=
  ⟨⟨ready_of (by decide) rfl rfl, syncWord_of (by decide +kernel), rfl, by decide,
      ready_of (by decide) rfl rfl, by decide⟩,
    ⟨ready_of (by decide) rfl rfl, syncWord_of (by decide +kernel), .inl rfl, by decide,
      ready_of (by decide) rfl rfl⟩,
    ready_of (by decide) rfl rfl, syncWord_of (by decide +kernel), by decide⟩

/-! ## Chunk graphs -/

/-- The group: an image's address in s0, a release of slot 0 in s1, a run of slot 0 with ordinal 3 in s2, of slot 1 in s3. -/
def graphGroup (rs : List CRunRef) : Group :=
  { withScalars [0x50000, 0x8000000000000000, 0x300000000, 1, 1, 1] with cruns := rs, cseq := rs.length }

/-- The bench with the graphs of a die. -/
def graphBench (g : Group) (gs : List Graph) : State := { benchOf g benchTeam with graphs := gs }

/-- A read of plain bytes that gives data that passes a check. -/
def dataBool (r : PlainRead) (p : Nat → Bool) : Bool :=
  match r with
  | .data v _ => p v
  | .stop _ => false

/-- See `dataBool`. -/
theorem data_of {r : PlainRead} {p : Nat → Bool} (h : dataBool r p = true) : ∃ v s, r = .data v s ∧ p v = true := by
  cases r with
  | data v s => exact ⟨v, s, rfl, h⟩
  | stop _ => simp [dataBool] at h

/-- GraphInstructions: an image of one chunk loaded in slot 1, a slot freed, a run of a loaded graph and of a slot that holds none,
a wait that is over and one that is not. -/
theorem test_met_GraphInstructions :
    (let s := graphBench (graphGroup []) [⟨0, 0, 0, [0]⟩]
     let x := issueOf (graphGroup []) benchTeam benchSplit
     Ready s x none { sr := [0], sw := [9] } s ∧ NoSafePoint x none ∧ (scalarReg s x 0).getLsbD 63 = false ∧
       (∃ h s1, plainRead s x (scalarReg s x 0).toNat 64 = .data h s1 ∧ h % 256 = 0) ∧
       (∃ img s2, plainRead s x (scalarReg s x 0).toNat 96 = .data img s2 ∧ graphBad s [BitVec.ofNat 256 (img / 16 ^ 128)] = false) ∧
       (∀ i, i < 1 → s.graph? (coreDie 0) i ≠ none) ∧ s.graph? (coreDie 0) 1 = none) ∧
    (let s := graphBench (graphGroup []) [⟨0, 0, 0, [0]⟩]
     let x := issueOf (graphGroup []) benchTeam benchSplit
     Ready s x none { sr := [1], sw := [9] } s ∧ (scalarReg s x 1).getLsbD 63 = true ∧ s.graph? (coreDie 0) 0 = some ⟨0, 0, 0, [0]⟩ ∧
       (∀ q ∈ s.runs, q.die = coreDie 0 → q.slot ≠ 0) ∧ Ready s x none { sr := [2, 3, 4], sw := [9] } s ∧ ReleaseNow s x ∧
       Ready s x none { sr := [3], sw := [9] } s ∧ s.graph? (coreDie 0) 1 = none) ∧
    (let g := graphGroup [⟨1, 5, some 4, false⟩, ⟨2, 6, none, false⟩]
     let s := graphBench g []
     let x := issueOf g benchTeam benchSplit
     Ready s x none { sr := [4], sw := [9] } s ∧ min (scalarReg s x 4).toNat x.g.cseq = 1 ∧ NoSafePoint x none ∧
       (∀ q ∈ x.g.cruns, q.seq ≤ 1 → q.status = some 4) ∧ Ready s x none { sr := [0], sw := [9] } s ∧
       ∃ q ∈ x.g.cruns, q.seq ≤ min (scalarReg s x 0).toNat x.g.cseq ∧ q.status = none) := by
  refine ⟨⟨ready_of (by decide) rfl rfl, .inl rfl, by decide, ?_, ?_, by decide, by decide⟩,
    ⟨ready_of (by decide) rfl rfl, by decide, by decide, by decide, ready_of (by decide) rfl rfl, by unfold ReleaseNow; decide,
      ready_of (by decide) rfl rfl, by decide⟩,
    ready_of (by decide) rfl rfl, by decide, .inl rfl, by decide, ready_of (by decide) rfl rfl, by decide⟩
  · obtain ⟨v, s, h, h'⟩ := data_of (r := plainRead (graphBench (graphGroup []) [⟨0, 0, 0, [0]⟩]) (issueOf (graphGroup []) benchTeam benchSplit)
      0x50000 64) (p := fun v => decide (v % 256 = 0)) (by decide +kernel)
    exact ⟨v, s, h, of_decide_eq_true h'⟩
  · obtain ⟨v, s, h, h'⟩ := data_of (r := plainRead (graphBench (graphGroup []) [⟨0, 0, 0, [0]⟩]) (issueOf (graphGroup []) benchTeam benchSplit)
      0x50000 96) (p := fun v => !graphBad (graphBench (graphGroup []) [⟨0, 0, 0, [0]⟩]) [BitVec.ofNat 256 (v / 16 ^ 128)]) (by decide +kernel)
    exact ⟨v, s, h, by simpa using h'⟩

/-- The slots of the loaded graphs, and s9, after an instruction. -/
def graphAfter (o : Out) : Option (List Nat × DWord) :=
  match o with
  | .next s => some (s.graphs.map (·.slot), ((s.groups.head?).map fun g => nth g.arch.sregs 9 0).getD 7)
  | _ => none

/-- `cgload` takes the lowest free slot. -/
theorem test_cgload : graphAfter (exec (.cgload ⟨none, 0, 9⟩) (graphBench (graphGroup []) [⟨0, 0, 0, [0]⟩])) = some ([0, 1], 1) := by
  decide +kernel

end Sys2Proof.Machine
end

