-- ==== Sys2Proof/Tests/Engines.lean ====
section
/-!
SUPPORT. States that meet the hypotheses of the statements about the operations of the matrix engine, copies that arrive and
chunk graphs, and what a few of these events leave there.
-/
namespace Sys2Proof.Machine

set_option Elab.async false

/-! ## The matrix engine -/

/-- An operation of the bench's group. -/
def benchTask (op : MOp) : MTask := ⟨0, 0, 0, pairTeam.uid, pairTeam.uid, 9, op, none, []⟩

/-- An entry of the bench with one operation posted. -/
def taskEntry (op : MOp) : MEntry := { MEntry.free with st := 2, team := pairTeam.uid, posted := [benchTask op] }

/-- The tile of zeros the weight descriptor of the bench describes. -/
def zeroTile : Tile := ⟨32, 8, 7, List.replicate 256 0, [], false, false, false, []⟩

/-- The bench with its operation granted, a tile in the latch and the lines of W, A and C full. -/
def runBench (op : MOp) : State :=
  let s := matrixBench (matrixGroup 0 (some 0) [⟨1, 9, op, none, false⟩]) [{ taskEntry op with st := 3, wlt := true, lwd := wDesc }]
  { s with
    lines := (List.range 32).map (fun i => (i, LineState.full)) ++ (List.range 4).map (fun i => (128 + i, LineState.full)) ++
      (List.range 4).map fun i => (256 + i, LineState.full)
    engines := s.engines.map fun e => { e with running := some (0, [benchTask op]), tile := some zeroTile, lown := some 0 } }

/-- EngineEvents: two entries ready, of which the second has the higher priority; an engine that is busy and one that is idle;
an operation whose lines are not full; a load, a pass and a drain whose lines are. -/
theorem test_met_EngineEvents :
    (let s := matrixBench (matrixGroup 0 (some 0) []) [{ taskEntry (.load wDesc) with pri := 2 }, { taskEntry (.load wDesc) with pri := 3 }]
     let e := s.engine 0
     e.running = none ∧ 1 < 16 ∧ entryReady s e 1 (e.entry 1) = true ∧ (e.entry 1).heads = some [benchTask (.load wDesc)] ∧
       entryReady s e 0 (e.entry 0) = true ∧
       ∀ j, j < 16 → j ≠ 1 → entryReady s e j (e.entry j) = true → (e.entry j).eff < (e.entry 1).eff) ∧
    ((runBench (.load wDesc)).engine 0).running = some (0, [benchTask (.load wDesc)]) ∧
    (let s := { runBench (.load wDesc) with lines := [] }
     let e := s.engine 0
     e.running = some (0, [benchTask (.load wDesc)]) ∧ needsReload e 0 [benchTask (.load wDesc)] = false ∧
       [benchTask (.load wDesc)].all (taskReady s e.tile) = false) ∧
    (let s := runBench (.load wDesc)
     s.team? pairTeam.uid = some pairTeam ∧ (benchTask (.load wDesc)).mem = 0 ∧ (benchTask (.load wDesc)).old = [] ∧ ((s.engine 0).entry 0).gang = 0 ∧
       ((s.engine 0).entry 0).exited = false ∧ allFull s (lineRun (regionKey pairTeam 1 (wOff wDesc)) (wLines wDesc)) = true) ∧
    (let s := runBench (.pass pDesc 7 wDesc)
     PassReady s 0 0 (benchTask (.pass pDesc 7 wDesc)) pDesc 7 wDesc pairTeam pairTeam zeroTile ∧ Memory.wf s.lmem = true) ∧
    (let s := runBench (.drain dDesc)
     let k := benchTask (.drain dDesc)
     let e := s.engine 0
     e.running = some (0, [k]) ∧ s.team? k.team = some pairTeam ∧ needsReload e 0 [k] = false ∧ taskReady s e.tile k = true ∧ k.old = [] ∧
       s.lpoison = [] ∧ (e.entry 0).touched = [] ∧ pairTeam.lsOff % 128 = 0 ∧ drainFmt dDesc = true ∧ Memory.wf s.lmem = true) :=
  ⟨⟨rfl, by decide, by decide +kernel, by decide +kernel, by decide +kernel, by decide +kernel⟩, rfl,
   ⟨rfl, by decide, by decide +kernel⟩, ⟨rfl, rfl, rfl, rfl, rfl, by decide +kernel⟩,
   ⟨⟨rfl, rfl, ⟨rfl, rfl⟩, ⟨rfl, by decide, by decide, rfl⟩, by decide, by decide +kernel, rfl, ⟨rfl, rfl⟩, ⟨by decide, by decide⟩, .inl (by decide)⟩,
     by decide⟩,
   rfl, rfl, by decide, by decide +kernel, rfl, rfl, rfl, by decide, by decide, by decide⟩

/-- The status of the first operation of the first group, and who owns the latch of cluster 0, after an event. -/
def engineAfter (o : Out) : Option (Option (BitVec 16) × Option Nat × Bool) :=
  match o with
  | .next s => (s.groups.head?).bind fun g => (g.mposts.head?).map fun p => (p.status, (s.engine 0).lown, (s.engine 0).running.isNone)
  | _ => none

/-- A pass of zeros raises nothing and leaves the engine idle. -/
theorem test_pass : engineAfter (exec .matrixOperationComplete (runBench (.pass pDesc 7 wDesc))) = some (some 0, some 0, true) := by
  decide +kernel

/-- A drain of zeros too. -/
theorem test_drain : engineAfter (exec .matrixOperationComplete (runBench (.drain dDesc))) = some (some 0, some 0, true) := by
  decide +kernel

/-! ## Copies and chunk graphs -/

/-- A copy of the window of the bench to core 0. -/
def benchCopy : Copy :=
  ⟨5, 0, 0, benchTeam.uid, 3, 0, benchTeam.ctx, benchTeam.l0, 0, [(0, benchTeam.uid, benchTeam.gen)],
    [(0, regionLine benchTeam (windowEntry 2).wrg)], [], 2, false, false, [], [], [], [], windowEntry 2, 5⟩

/-- The bench with that copy in flight; the event names its first line. -/
def arrivalBench (c : Copy) : State :=
  { copyBench (copyGroup [5] []) (windowEntry 2) with
    copies := [c]
    ev := { a := 5, b := 0, c := 0 } }

/-- A run of the graph in slot 0, its bases two lines and a counter of the identity-mapped memory. -/
def benchRun (active : Bool) (st : List ChunkState) : CRun :=
  ⟨5, 0, 0, 0, 0, 1, 0, benchTeam.ctx, benchTeam.l0, 0, 5, 0, [0x100000, 0x200000, 0x300000, 0, 0, 0, 0, 0], active, st, false, false, false, [], []⟩

/-- The bench with a graph of one chunk, a run of it, and a counter; the event names the run's first chunk. -/
def chunkBench (c : Chunk) (r : CRun) : State :=
  { graphBench (graphGroup [⟨1, 5, none, false⟩]) [⟨0, 0, 0, [c]⟩] with
    runs := [r]
    sync := [(0x300000 / 8, .counter)]
    ev := { a := 5, b := 0 } }

/-- A chunk that combines a line at base 0 with one at base 1 by operation `op`; one that increments a counter at base 2; and
one that reads from module 1. -/
def lineChunk (op : Nat) : Chunk := BitVec.ofNat 256 (op + 128)
/-- See `lineChunk`. -/
def countChunk : Chunk := BitVec.ofNat 256 (3 + 2 * 2 ^ 26 + 2 ^ 29)
/-- See `lineChunk`. -/
def farChunk : Chunk := BitVec.ofNat 256 (128 + 1024)

/-- A run of one chunk, started. -/
theorem oneChunk_of {c : Chunk} (h : ((chunkSpans (benchRun true [.started]) c).flatMap
    (spanFaults (chunkBench c (benchRun true [.started])) (benchRun true [.started]) 0)).isEmpty = true)
    (ha : chunkAway (chunkBench c (benchRun true [.started])) (benchRun true [.started]) 0 c = false)
    (hw : chunkWaits (chunkBench c (benchRun true [.started])) (benchRun true [.started]) 0 c = false) :
    OneChunk (chunkBench c (benchRun true [.started])) (benchRun true [.started]) c :=
  ⟨rfl, rfl, ⟨rfl, rfl⟩, ⟨rfl, rfl, rfl, rfl⟩, rfl, List.isEmpty_iff.mp h, ha, hw⟩

/-- CopyAndGraphEvents: the first of two lines of a copy, its last, and one of a generation that has passed; a run that
activates and one that is active; a chunk that counts and two that move a line; a chunk to a module that has been lost. -/
theorem test_met_CopyAndGraphEvents :
    (∀ c ∈ [benchCopy, { benchCopy with landed := [(0, 1)] }], let s := arrivalBench c
      let va := 0x100000
      s.copies.find? (fun x => x.id == s.ev.a) = some c ∧ c.dests.find? (fun x => x.1 == s.ev.b) = some (0, benchTeam.uid, benchTeam.gen) ∧
        s.ev.c < c.lines ∧ (s.ev.b, s.ev.c) ∉ c.landed ∧ Memory.wf s.lmem = true ∧ c.reg.src = 0 ∧ c.data.find? (fun x => x.1 = s.ev.c) = none ∧
        (BitVec.ofInt 56 ((c.reg.gva.toNat : Int) + ((s.ev.c / c.reg.perRow : Nat) : Int) * c.reg.gst.toInt +
          ((128 * (s.ev.c % c.reg.perRow) : Nat) : Int))).toNat = va ∧
        min 128 (ceilDiv (rowBits c.reg.fmt c.reg.elems) 8 - 128 * (s.ev.c % c.reg.perRow)) = 32 ∧
        okAnd (translate s c.tctx .read va) (fun p => p.phys == .dram va) = true ∧ groupBusy s c (va / 128) va = false ∧
        va / 65536 ∉ c.failed ∧ noPath s (coreMod c.core) (lineMod (va / 128)) = false ∧ homeWaits s (va / 128) false = false ∧ va / 128 ∉ s.poison ∧ s.l1 = [] ∧
        (let line := (lookupNat 0 c.bases).getD 0 + c.reg.woff + s.ev.c / c.reg.perRow * c.reg.stride + s.ev.c % c.reg.perRow
         ((teamAt s 0 line).map (·.gen)) = some benchTeam.gen ∧ sealedLine s 0 (localKey 0 0 / 128 + line) = false)) ∧
    (let c := { benchCopy with
       reading := true
       dests := [(0, 77, 9)]
       data := [(0, 1, false)] }
     let s := arrivalBench c
     s.copies.find? (fun x => x.id == s.ev.a) = some c ∧ c.dests.find? (fun x => x.1 == s.ev.b) = some (0, 77, 9) ∧ s.ev.c < c.lines ∧
       (s.ev.b, s.ev.c) ∉ c.landed ∧ Memory.wf s.lmem = true ∧ c.data.find? (fun x => x.1 = s.ev.c) = some (0, 1, false) ∧
       ((teamAt s 0 ((lookupNat 0 c.bases).getD 0 + c.reg.woff + s.ev.c / c.reg.perRow * c.reg.stride + s.ev.c % c.reg.perRow)).map
         fun u => u.gen == 9) = some false) ∧
    (let s := chunkBench (lineChunk 0) (benchRun false [])
     s.run? s.ev.a = some (benchRun false []) ∧ activates s (benchRun false []) = true) ∧
    (let s := chunkBench (lineChunk 0) (benchRun true [.started])
     s.run? s.ev.a = some (benchRun true [.started]) ∧ activates s (benchRun true [.started]) = false) ∧
    (let r := benchRun true [.started]
     let s := chunkBench countChunk r
     OneChunk s r countChunk ∧ Memory.wf s.mem = true ∧ NoPartials s ∧ countChunk.op = 3 ∧ countChunk.ce = true ∧
       okAnd (translate s (r.tctx countChunk.dm) .write (chunkVa r countChunk.cb countChunk.coff))
         (fun g => g.phys == .dram 0x300000 && g.ty == 0) = true ∧ lookupNat (0x300000 / 8) s.sync = some .counter) ∧
    (let r := benchRun true [.started]
     let c := lineChunk 1
     let s := chunkBench c r
     OneChunk s r c ∧ c.op < 3 ∧ c.lines = 1 ∧ c.ce = false ∧ chunkVa r c.sb c.soff % 128 = 0 ∧ chunkVa r c.db c.doff % 128 = 0 ∧
       okAnd (translate s (r.tctx c.sm) .read (chunkVa r c.sb c.soff)) (fun g => g.phys == .dram 0x100000) = true ∧
       okAnd (translate s (r.tctx c.dm) .write (chunkVa r c.db c.doff)) (fun g => g.phys == .dram 0x200000) = true ∧
       0x100000 / 128 ∉ s.poison ∧ 0x200000 / 128 ∉ s.poison ∧ s.headerQueue? (0x100000 / 128) = none ∧ PlainLine s (0x200000 / 128) ∧
       hitsSync s 0x200000 128 = false) ∧
    (let r := benchRun true [.started]
     let s := chunkBench farChunk r
     s.run? s.ev.a = some r ∧ r.states[s.ev.b]? = some .started ∧ (runChunks s r)[s.ev.b]? = some farChunk ∧ chunkCut s r farChunk = false) ∧
    (let r := benchRun true [.started]
     let s := { chunkBench farChunk r with nopath := [⟨0, 1, 0, true⟩] }
     s.run? s.ev.a = some r ∧ r.states[s.ev.b]? = some .started ∧ (runChunks s r)[s.ev.b]? = some farChunk ∧ chunkCut s r farChunk = true) := by
  refine ⟨?_, by decide +kernel, by decide +kernel, by decide +kernel,
    ⟨oneChunk_of (by decide +kernel) (by decide +kernel) (by decide +kernel), by decide, noPartials_of rfl, rfl, rfl, by decide +kernel, rfl⟩,
    ⟨oneChunk_of (by decide +kernel) (by decide +kernel) (by decide +kernel), by decide, rfl, rfl, by decide, by decide, by decide +kernel, by decide +kernel,
      by decide, by decide, by decide, ⟨by decide, by decide⟩, by decide +kernel⟩, by decide +kernel, by decide +kernel⟩
  decide +kernel

/-- The line lands, and is full. -/
theorem test_copy_arrival : windowAfter 3 384 (exec .copyArrival (arrivalBench benchCopy)) = some (2, some .full) := by decide +kernel

/-- The counter of a chunk counts. -/
theorem test_chunk_count : (match exec .chunkComplete (chunkBench countChunk (benchRun true [.started])) with
    | .next s => (memReadLE s.mem 0x300000 8, s.runs.length)
    | _ => (0, 9)) = (1, 0) := by decide +kernel

end Sys2Proof.Machine
end

