-- ==== Sys2Proof/Tests/Events.lean ====
section
/-!
SUPPORT. States that meet the hypotheses of the statements about registers written by application cores, launches and issue,
and what a few of these events leave there.
-/
namespace Sys2Proof.Machine

set_option Elab.async false

/-! ## Registers written by application cores -/

/-- The bench with the queue of node 5, its header known; the event is an access of an application core of module 0 to an offset
there. -/
def hostBench (q : Queue) (off : Nat) (v : DWord) : State :=
  { queueBench queueGroup { q with header := some (0x100000 / 128) } with
    ev := { v := v, host := some ⟨0, benchTeam.ctx, benchTeam.l0, 1, 2 ^ 36 + 0x100000 + off⟩ } }

/-- The context of that access. -/
def hostBenchCtx : Ctx := hostCtx ⟨0, benchTeam.ctx, benchTeam.l0, 1, 2 ^ 36 + 0x100000⟩ 0

/-- HostRegisterEvents: a pre-emption request, a page resolved while a group waits for it, registers that can be read and cleared
once Dawn has run, accesses of an application core to PDN, RSV and another byte of a header and to an address that does not translate,
and values of PDN below, at and above the index to be published next. -/
theorem test_met_HostRegisterEvents :
    (∀ off ∈ [8, 32, 16], let s := hostBench { benchQueue with rsv := 6 } off 0
      let va := 2 ^ 36 + 0x100000 + off
      s.ev.host = some ⟨0, benchTeam.ctx, benchTeam.l0, 1, va⟩ ∧ (s.mod s.ev.a).done = true ∧ (agentFault s hostBenchCtx .write va 8).isNone = true ∧
        okAnd (translate s hostBenchCtx .write (va % 2 ^ 56)) (fun g => g.phys == .dram (0x100000 + off)) = true ∧
        ((s.headerQueue? ((0x100000 + off) / 128)).map fun q => (q.m, q.node)) = some (0, 5)) ∧
    (let s := hostBench benchQueue 0x10000000 0
     (agentFault s hostBenchCtx .write (2 ^ 55) 8).isSome = true ∧ (translate s hostBenchCtx .write (2 ^ 55)).toOption.isNone = true) ∧
    (let s := { State.reset with ev := { host := some ⟨0, 0, 0, 1, 0⟩ } }
     (s.mod s.ev.a).done = false ∧ (s.mod (coreMod s.ev.a)).done = false) ∧
    (let s := { bench with ev := { v := 0x100 } }
     s.inFabric s.ev.a = true ∧ s.ev.v.getLsbD 8 = true) ∧
    (let g := { benchGroup with heldPages := [9] }
     let s := { benchOf g benchTeam with ev := { v := 0x90000 }, pairs := [⟨0, 0, 0, 9⟩, ⟨0, 0, 0, 8⟩] }
     s.ev.v.getLsbD 63 = false ∧ (s.mod s.ev.a).heldPcie = [] ∧ s.group? 0 0 = some g ∧ s.team? g.team = some benchTeam ∧
       (s.ev.v.extractLsb' 16 40).toNat ∈ g.heldPages) ∧
    (({ bench with ev := { b := 0x420 } } : State).ev.b = 0x420 ∧ ({ bench with ev := { b := 0x421 } } : State).inFabric (coreMod 0) = true ∧
      (bench.mod (coreMod 0)).done = true) ∧
    (let q := { benchQueue with pub := 3, rsv := 6 }
     (∀ v, v < 3 ∨ 6 ≤ v → v < q.pub ∨ q.rsv ≤ v) ∧ (q.pub ≤ 3 ∧ 3 < q.rsv ∧ 3 ∉ q.done ∧ q.done = []) ∧
       (q.pub ≤ 5 ∧ 5 < q.rsv ∧ q.pub ∉ q.done)) :=
  ⟨by decide +kernel, by decide +kernel, by decide, by decide, by decide, by decide, fun _ h => h, by decide, by decide⟩

/-- A store of the index to be published next publishes it; another is remembered. -/
theorem test_pdn : (match exec .pdnStore (hostBench { benchQueue with rsv := 3 } 32 0) with
      | .next s => s.queues.map fun q => (q.pub, q.done)
      | _ => []) = [(1, [])] ∧
    (match exec .pdnStore (hostBench { benchQueue with rsv := 3 } 32 2) with
      | .next s => s.queues.map fun q => (q.pub, q.done)
      | _ => []) = [(0, [2])] := by decide +kernel

/-! ## Launches -/

/-- The bench with node 5 ready: its virtual function may use partition 0, which is one cluster, and its queue holds sixteen records;
activations of its own. -/
def launchBench (as : List Activation) : State :=
  let s := queueBench queueGroup { benchQueue with pub := 16, rsv := 16 }
  { s.modMod 0 (fun x => { x with
      parts := [{ Partition.reset with clusters := [0] }]
      vfs := [{ Vf.reset 0 with parts := 1 }] }) with
    acts := as
    ev := { b := 5, c := 4 } }

/-- An activation of node 5 of one band of one team. -/
def benchAct : Activation := ⟨0, 5, 4, 0, 0, 0, 16, 1, 0, 1, 8, 0, none, some 3, false, 1, 1, false, false, false, false⟩

/-- The bench without nodes, with an activation of node 5 whose one band has been placed and is over. -/
def gridBench (a : Activation) : State := { bench with acts := [a], ev := { b := 5, c := 4 } }

/-- LaunchEvents: records enough, a band that fits, an activation that reserves, a group that has waited, a parked split, a trigger and
a completion, a group that reached no safe point, a spilled block. -/
theorem test_met_LaunchEvents :
    (let s := launchBench []
     readyCount s 0 5 true = some 16 ∧ (nodeEntry s 0 5).edges = 0 ∧ (s.queue 0 5).pub = (s.queue 0 5).tkn + 16 ∧
       launchShape s 0 5 (s.queue 0 5).tkn = some (1, 1, 1)) ∧
    (let s := launchBench [benchAct]
     s.act? 0 5 4 = some benchAct ∧ placesNow s benchAct = true ∧ bandCluster s benchAct (nodeEntry s 0 5) = some 0 ∧ benchAct.teams = 1 ∧
       reserveDue s benchAct = true) ∧
    (let g := { benchGroup with
       waited := 65536
       arch := { benchGroup.arch with parked := [{ pc := 0x20040, mask := 0x0F, handler := false, held := false, since := 0 }] } }
     let s := { benchOf g benchTeam with cyc := 4095 }
     s.group? 0 0 = some g ∧ 65536 ≤ g.waited ∧ g.arch.parked ≠ [] ∧ g.arch.splits ≠ [] ∧ (∀ k ∈ g.arch.parked, k.since + 4095 ≤ s.cyc) ∧
       g.preempt = .running) ∧
    (let a := { benchAct with nextBand := 1, teamsLeft := 0 }
     (gridBench a).act? 0 5 4 = some a ∧ Memory.wf (gridBench a).mem = true ∧ NoPartials (gridBench a) ∧ triggerDue (gridBench a) a = true ∧
       completeDue a = true ∧ ((gridBench a).queue 0 5).completed = [] ∧ a.first = ((gridBench a).queue 0 5).fre ∧ 0 < a.count) ∧
    (let g := { withBlocks [.spilled (List.replicate 64 7)] benchGroup with preempt := .asked 5 }
     let s := { benchOf g benchTeam with cyc := 65541 }
     s.group? 0 0 = some g ∧ g.preempt = .asked 5 ∧ 5 + 65536 ≤ s.cyc ∧ g.twi = none ∧ g.faulted = false ∧ g.mentry = none ∧
       s.team? g.team = some benchTeam ∧ nth g.arch.blocks 0 .unallocated = .spilled (List.replicate 64 7) ∧
       (makeRoom (32 * g.width) g.core g.slot 1024 s).isSome = true) := by
  refine ⟨by decide +kernel, by decide +kernel, by decide, ⟨rfl, by decide, noPartials_of rfl, by decide, by decide, rfl, rfl, by decide⟩, by decide⟩

/-- The band is placed on core 0, in the lowest free slot, at the node's kernel. -/
theorem test_place : (match exec .placeBand (launchBench [benchAct]) with
    | .next s => s.groups.map fun g => (g.core, g.slot, g.arch.splits.map (·.pc))
    | _ => []) = [(0, 0, [0x20000]), (0, 1, [0x20000])] := by decide +kernel

end Sys2Proof.Machine
end

