-- ==== Sys2Proof/Tests/Homes.lean ====
section
/-!
SUPPORT. States that meet the hypotheses of the statements about requests at their homes and coherence messages, and what a
few of these events leave there.
-/
namespace Sys2Proof.Machine

set_option Elab.async false

/-- The line of the tests, in the identity-mapped memory of module 0. -/
def homeLine : Nat := 0x2000

/-- A part of an access: four bytes in the middle of the line. -/
def homeAcc : LaneAcc := ⟨2, 0x100020, 4, 0, 0x55667788, 0, 0x100020⟩

/-- A request of the bench's group for the line. -/
def homeReq (kind : ReqKind) (fn : AccFn) : Req := ⟨7, .group 0 0, 0, 0, homeLine, kind, fn, [homeAcc], none, false, 0, none, 1, false, none⟩

/-- A directory entry of the line: state and pointers. -/
def homeDir (st : BitVec 3) (cores : List Nat) : DirEntry := { (DirEntry.fresh homeLine 1).setPtrs cores with st := st }

/-- A tag of the line. -/
def homeTag : Tag := ⟨homeLine, 3, 0, 0, none, false, true, none, 0⟩

/-- The bench with a request, copies of the line and its entry; the event names the request. -/
def homeBench (rs : List Req) (cs : List L1Line) (d : DirEntry) : State :=
  { bench with
    reqs := rs
    l1 := cs
    dir := [d]
    tags := [homeTag]
    ev := { a := 7 } }

/-- A copy of the line in a core. -/
def homeCopy (core : Nat) (k : L1Kind) : L1Line := ⟨core, homeLine, 0, k⟩

/-- A request of the tests is served. -/
theorem serves_of {kind : ReqKind} {fn : AccFn} {cs : List L1Line} {d : DirEntry}
    (h : serveReady (homeBench [homeReq kind fn] cs d) (homeReq kind fn) = true) :
    Serves (homeBench [homeReq kind fn] cs d) (homeReq kind fn) kind := ⟨rfl, rfl, h, by show (0 : Nat) < 4096; omega⟩

/-- Copies none of which is a partial. -/
theorem noPartials_all {s : State} (h : (s.l1.all fun c => match c.kind with | .part _ _ _ _ => false | _ => true) = true) : NoPartials s := by
  intro c hc cop vals slots page hk
  have := List.all_eq_true.mp h c hc
  rw [hk] at this
  cases this

/-- A line that no queue header, word of the hardware or sync word stands in. -/
theorem plain_of {s : State} {line : Nat}
    (h : ((s.headerQueue? line).isNone && !hwLine s line && !s.syncLine line) = true) : PlainLine s line := by
  simpa [PlainLine, and_assoc] using h

/-- No notice from a source among the messages. -/
theorem noNotice_of {s : State} {source line : Nat} (h : (s.msgs.all fun x => !sentBy source line x) = true) :
    NoNotice s source line := by
  simpa [NoNotice] using h

/-- DirectoryEvents: a tracked read of a line that another core owns; a lease load; ownership of an idle line and of one with a
sharer that must be told; a home write, an update and a fill of idle lines. -/
theorem test_met_DirectoryEvents :
    (let r := homeReq .tracked .read
     let s := homeBench [r] [homeCopy 3 (.owned 0)] (homeDir 2 [3])
     Serves s r .tracked ∧ PlainLine s r.line ∧ (s.dirOf r.line).st.toNat ≤ 5 ∧ ¬((s.dirOf r.line).st = 2 ∧ (s.dirOf r.line).owner = some r.core) ∧
       NoPartials s) ∧
    (let r := homeReq (.lease 3) .read
     let s := homeBench [r] [] (homeDir 2 [3])
     Serves s r (.lease 3) ∧ PlainLine s r.line ∧ s.l1? r.core r.line = none ∧ (s.dirOf r.line).owner ≠ some r.core ∧ NoPartials s ∧
       0 < leaseLen s (coreMod r.core) r.vf 3) ∧
    (let r := homeReq (.lease 0) .read
     let s := homeBench [r] [] (homeDir 0 [])
     Serves s r (.lease 0) ∧ PlainLine s r.line ∧ s.l1? r.core r.line = none ∧ (s.dirOf r.line).owner ≠ some r.core ∧ leaseLen s (coreMod r.core) r.vf 0 = 0) ∧
    (let r := homeReq (.own true) .write
     let s := homeBench [r] [] (homeDir 0 [])
     Serves s r (.own true) ∧ PlainLine s r.line ∧ (s.dirOf r.line).st = 0 ∧ NoPartials s) ∧
    (let r := homeReq (.own false) (.atomic 0)
     let s := homeBench [r] [homeCopy 3 .tracked] (homeDir 1 [0, 3])
     Serves s r (.own false) ∧ PlainLine s r.line ∧ (s.dirOf r.line).st = 1 ∧ (s.tag? r.line).isSome = true ∧ roundTargets s (s.dirOf r.line) r.line (some r.core) ≠ []) ∧
    (let r := homeReq (.homeWrite true) .write
     let s := homeBench [r] [] (homeDir 0 [])
     Serves s r (.homeWrite true) ∧ r.fn.writes = true ∧ PlainLine s r.line ∧ NoPartials s ∧ (s.dirOf r.line).st = 0 ∧
       (s.ev.up = false ∨ r.fn ≠ .atomic 12)) ∧
    (let r := homeReq .commut (.atomic 0)
     let s := homeBench [r] [] (homeDir 0 [])
     Serves s r .commut ∧ PlainLine s r.line ∧ r.fn = .atomic 0 ∧ (0 : Nat) ≠ 16 ∧ NoPartials s ∧ (s.dirOf r.line).st = 0) ∧
    (let s := { bench with ev := { a := 0, b := homeLine } }
     s.tags = [] ∧ s.datas = [] ∧ (s.vf (lineMod homeLine) s.ev.a).twmask ≠ 0 ∧ (s.vf (lineMod homeLine) s.ev.a).dwmask ≠ 0 ∧
       memLine s.mem homeLine = 0) ∧
    (let s := { bench with
       mem := memWrite bench.mem (128 * homeLine) 1
       ev := { a := 0, b := homeLine, up := true } }
     memLine s.mem homeLine ≠ 0) :=
  ⟨⟨serves_of (by decide), plain_of (by decide), by decide, by decide, noPartials_all (by decide)⟩,
   ⟨serves_of (by decide), plain_of (by decide), by decide, by decide, noPartials_of rfl, by decide⟩,
   ⟨serves_of (by decide), plain_of (by decide), by decide, by decide, by decide⟩,
   ⟨serves_of (by decide), plain_of (by decide), by decide, noPartials_of rfl⟩,
   ⟨serves_of (by decide), plain_of (by decide), by decide, rfl, by decide⟩,
   ⟨serves_of (by decide), rfl, plain_of (by decide), noPartials_of rfl, by decide, by decide⟩,
   ⟨serves_of (by decide), plain_of (by decide), rfl, by decide, noPartials_of rfl, by decide⟩,
   ⟨rfl, rfl, by decide, by decide, by decide +kernel⟩, by decide +kernel⟩

/-- The state of the first entry, its pointers, and the messages, after an event. -/
def homeAfter (o : Out) : Option (Nat × List Nat × List Msg) :=
  match o with
  | .next s => (s.dir.head?).map fun d => (d.st.toNat, d.ptrs, s.msgs)
  | _ => none

/-- A tracked read adds a sharer. -/
theorem test_tracked_read : homeAfter (exec .trackedRead (homeBench [homeReq .tracked .read] [homeCopy 3 .tracked] (homeDir 1 [3]))) =
    some (1, [3, 0], []) := by decide +kernel

/-- An ownership request of a shared line tells the sharers but the requester. -/
theorem test_own_round : homeAfter (exec .ownershipRequest (homeBench [homeReq (.own true) .write] [] (homeDir 1 [0, 3]))) =
    some (3, [0, 3], [.inval 3 homeLine]) := by decide +kernel

/-! ## Coherence messages -/

/-- The bench with copies of the line, its entry and messages; the event names a core and the line. -/
def messageBench (a : Nat) (cs : List L1Line) (d : DirEntry) (ms : List Msg) : State :=
  { homeBench [] cs d with
    msgs := ms
    ev := { a := a, b := homeLine } }

/-- The entry of the line in a round of core 0 that `n` acknowledgements are to end. -/
def roundDir (n : BitVec 12) : DirEntry := { homeDir 3 [0, 3] with ack := n }

/-- A group that read the line under Twilight. -/
def twilightGroup (ver : BitVec 16) : Group := { benchGroup with twi := some ⟨benchGroup.arch, [], 9, [⟨homeLine, 3, ver, 0, none, 1⟩], 0⟩ }

/-- The bench with that group, waiting at a safe point or not, and its core's lease. -/
def twilightBench (ver : BitVec 16) (park : Option (BitVec 32)) : State :=
  { homeBench [] [homeCopy 0 (.leased 3 0 true 0 0 5)] (homeDir 1 [3]) with
    groups := [{ twilightGroup ver with parkMask := park }]
    ev := { a := 0, b := 0 } }

/-- CoherenceMessages: a partial to deliver, with and without a path; an invalidation; an acknowledgement that is not the last,
one that is, for a request for ownership and for a home write, and one of no round; notices; evictions of a tracked, leased,
owned and privatised copy; a lease that has run out and one that has not; an acknowledgement of a round made for an agent; a renewal of the same version and of another, of a group that waits for it at a
safe point and of one that does not. -/
theorem test_met_CoherenceMessages :
    (let h := homeCopy 0 (.part 1 [(32, 5)] [0] (none, 1))
     let s := messageBench 0 [h] (homeDir 5 [0]) []
     s.l1? 0 homeLine = some h ∧ s.l1? 8192 homeLine = none ∧ noPath s 0 (lineMod homeLine) = false) ∧
    (let s := { messageBench 0 [] (homeDir 0 []) [] with
       nopath := [⟨1, 0, 0, false⟩]
       ev := { a := 256, b := homeLine } }
     noPath s (coreMod s.ev.a) (lineMod s.ev.b) = true ∧ noPath s (targetMod s.ev.a) (lineMod s.ev.b) = true) ∧
    (let s := messageBench 3 [homeCopy 3 .tracked] (roundDir 1) [.inval 3 homeLine]
     Msg.inval 3 homeLine ∈ s.msgs ∧ noPath s (targetMod 3) (lineMod homeLine) = false) ∧
    (let s := messageBench 3 [] (roundDir 2) [.ack 3 homeLine]
     Msg.ack 3 homeLine ∈ s.msgs ∧ NoNotice s 3 homeLine ∧ (s.dirOf homeLine).st = 3 ∧ 1 < (s.dirOf homeLine).ack.toNat) ∧
    (let s := messageBench 3 [] (roundDir 1) [.ack 3 homeLine]
     Msg.ack 3 homeLine ∈ s.msgs ∧ NoNotice s 3 homeLine ∧ (s.dirOf homeLine).st = 3 ∧ (s.dirOf homeLine).ack = 1 ∧
       s.reqs.find? (fun r => r.line == homeLine && r.inRound) = none) ∧
    (∀ q ∈ [homeReq (.own true) .write, homeReq (.homeWrite false) .write], let r := { q with inRound := true }
      let s := { messageBench 3 [] (roundDir 1) [.ack 3 homeLine] with reqs := [r] }
      Msg.ack 3 homeLine ∈ s.msgs ∧ NoNotice s 3 homeLine ∧ (s.dirOf homeLine).st = 3 ∧ (s.dirOf homeLine).ack = 1 ∧
        s.reqs.find? (fun r => r.line == homeLine && r.inRound) = some r ∧ r.core < 4096 ∧ PlainLine s homeLine ∧
        r.fn.writes = true ∧ s.l1 = []) ∧
    (let s := messageBench 3 [] (homeDir 0 []) [.ack 3 homeLine]
     Msg.ack 3 homeLine ∈ s.msgs ∧ (s.dirOf homeLine).st ≠ 3 ∧ NoNotice s 3 homeLine) ∧
    (let s := messageBench 3 [] (homeDir 1 [0, 3]) [.notice 3 homeLine]
     Msg.notice 3 homeLine ∈ s.msgs ∧ (s.dirOf homeLine).st = 1 ∧ (s.dirOf homeLine).crs = false ∧ 3 ∈ (s.dirOf homeLine).ptrs) ∧
    (∀ k ∈ [L1Kind.tracked, .leased 3 0 false 0 0 5, .leased 3 1 true 0 0 5, .owned 0xF, .priv 0xF],
      let s := messageBench 3 [homeCopy 3 k] (homeDir 1 [3]) []
      s.l1? 3 homeLine = some (homeCopy 3 k) ∧ (s.l1.all fun c => match c.kind with | .part _ _ _ _ => false | _ => true) = true ∧ (∀ e ∈ s.l1, e.line = homeLine → e = homeCopy 3 k) ∧
        noPath s (coreMod 3) (lineMod homeLine) = false ∧ s.ltick = 0) ∧
    ∀ v m, let s := twilightBench v m
      let twilightGroup (v : BitVec 16) : Group := { twilightGroup v with parkMask := m }
      let w : Twilight := ⟨benchGroup.arch, [], 9, [⟨homeLine, 3, v, 0, none, 1⟩], 0⟩
      (s.mod (lineMod homeLine)).done = true ∧ (w.lines.filter fun y => decide (y.line ≠ homeLine)) = [] ∧
      (twilightGroup v).parkMask = m ∧ (twilightGroup v).twi = some w ∧ w.lines[s.ev.c]? = some ⟨homeLine, 3, v, 0, none, 1⟩ ∧
        (twilightGroup v).arch.blocks.length = w.saved.blocks.length ∧ s.group? 0 0 = some (twilightGroup v) ∧ (s.tag? homeLine).isSome = true ∧ (s.dirOf homeLine).st.toNat ≤ 1 ∧
        noPath s 0 (lineMod homeLine) = false ∧ (s.dirOf homeLine).ver = 0 ∧ (s.dirOf homeLine).epo = 0 ∧
        s.l1? 0 homeLine = some (homeCopy 0 (.leased 3 0 true 0 0 5)) := by
  refine ⟨?_, ?_, ?_, ?_, ⟨by decide, noNotice_of (by decide), by decide, by decide, rfl⟩, ?_, ?_, ?_, ?_, ?_⟩
  · decide +kernel
  · decide +kernel
  · decide +kernel
  · exact ⟨by decide, noNotice_of (by decide), by decide, by decide⟩
  · intro q hq
    rcases List.mem_cons.mp hq with rfl | hq
    · exact ⟨by decide, noNotice_of (by decide), by decide, by decide, by decide, by decide, plain_of (by decide), rfl, rfl⟩
    · cases List.mem_singleton.mp hq
      exact ⟨by decide, noNotice_of (by decide), by decide, by decide, by decide, by decide, plain_of (by decide), rfl, rfl⟩
  · exact ⟨by decide, by decide, noNotice_of (by decide)⟩
  · decide +kernel
  · decide +kernel
  · exact fun v m => ⟨by show (bench.mod 0).done = true; decide, rfl, rfl, rfl, rfl, rfl, rfl, rfl, Nat.le.refl, rfl, rfl, rfl, rfl⟩

/-- What a lease load of a tracked reader's line finds is the value held; an eviction of a tracked copy sends a notice. -/
theorem test_evict_tracked : homeAfter (exec .l1Evict (messageBench 3 [homeCopy 3 .tracked] (homeDir 1 [3]) [])) =
    some (1, [3], [.notice 3 homeLine]) := by decide +kernel

/-- The last acknowledgement grants the line. -/
theorem test_last_ack : homeAfter (exec .acknowledgement { messageBench 3 [] (roundDir 1) [.ack 3 homeLine] with
      reqs := [{ homeReq (.own true) .write with inRound := true }] }) = some (2, [0], []) := by decide +kernel

end Sys2Proof.Machine
end

