-- ==== Sys2Proof/Tests/Fabric.lean ====
section
/-!
SUPPORT. States that meet the hypotheses of the statements about replays, packets, records, links, root ports, boot and errors,
and what a few of these events leave there.
-/
namespace Sys2Proof.Machine

set_option Elab.async false

/-! ## Replays, packets, arrivals and records -/

/-- A side-log entry of core 0: a store of four bytes at an address. -/
def benchEntry (st : BitVec 2) (va : VAddr) : LogEntry :=
  ⟨0, 4, 0, 0, va.toNat / 65536, 0, benchTeam.ctx, benchTeam.l0, 0, 0, 0, false, false, st, false, 0, .write, 4, none, 0, 0,
    [⟨2, va, 0x11223344⟩]⟩

/-- The bench with that entry. -/
def logBench (st : BitVec 2) (va : VAddr) : State := { bench with log := [benchEntry st va] }

/-- A packet of core 0 to module 1: an access of four bytes there. -/
def benchPacket (fn : AccFn) (txn : Option Nat) (epo : BitVec 16) : Packet :=
  ⟨0, epo, 0, txn, fn, [⟨2, 0x10000100000, 4, 0, 0x11223344, 0, 0x100000⟩], 0, 0, none, 0, 0, []⟩

/-- The bench with a packet in flight to module 1; the event names it. -/
def packetBench (p : Packet) : State :=
  { bench.modMod 1 (fun x => { x with done := true }) with
    streams := [⟨0, 1, 1, 0, [p], [p]⟩]
    ev := { a := 0, b := 1, c := 0 } }

/-- The bench with an arrival on its way to a word that is a barrier or is not. -/
def parentBench (sync : List (Nat × SyncTag)) : State :=
  { bench with
    parents := [⟨0x40000, 0, 0, benchTeam.ctx, benchTeam.l0, 0, 1⟩]
    sync := sync }

/-- The bench with the queue of node 5 and that of node 4, which supervises it; the event names node 5. -/
def superviseBench (q : Queue) : State :=
  let s := queueBench queueGroup q
  { s with
    mem := memWriteLE s.mem (Config.nodeBase + 512 * 4) 8 0x20000
    queues := [q, { Queue.reset 0 4 with logCap := 4, en := true }]
    ev := { a := 0, b := 5 } }

/-- The queue of node 5, whose watchdog is due. -/
def dueQueue (sup : Nat) : Queue := { benchQueue with rsv := 2, wdt := 8, wcount := 8, sup := sup }

/-- TrafficEvents: an entry that waits, one that replays and one whose page still faults; packets of a passed epoch and of the
current one, that store and that read, one whose write a sharer has still to acknowledge; no path; an arrival at a barrier, at a word that is none and at an address that names none; a watchdog that is not due, one
that can report and one that cannot; records waiting before a full queue, one with room, and one
whose slot's line is in a round. -/
theorem test_met_TrafficEvents :
    ((logBench 1 0x100000).log.find? (fun e => e.core == 0 && !e.loss) = some (benchEntry 1 0x100000) ∧ (benchEntry 1 0x100000).st ≠ 2) ∧
    (let s := logBench 2 0x100000
     let e := benchEntry 2 0x100000
     s.log.find? (fun e => e.core == 0 && !e.loss) = some e ∧ e.st = 2 ∧ e.remote = false ∧ e.pseq = none ∧ e.fn = .write ∧
       e.lanes = [⟨2, 0x100000, 0x11223344⟩] ∧ e.size = 4 ∧
       okAnd (translate s e.tctx .write 0x100000) (fun p => p.phys == .dram 0x100000 && p.ty != 2) = true ∧
       noPath s 0 (lineMod 0x2000) = false ∧ homeWaits s 0x2000 true = false ∧ tableBusy s 0x2000 e.born = false ∧ earlierAccess s e 0x2000 = false ∧
       PlainLine s 0x2000 ∧ NoPartials s ∧ Memory.wf s.mem = true) ∧
    (let s := logBench 2 0x80000000000000
     let e := benchEntry 2 0x80000000000000
     s.log.find? (fun e => e.core == 0 && !e.loss) = some e ∧ e.st = 2 ∧ e.remote = false ∧ e.pseq = none ∧ e.zo = false ∧
       (logFault s e).map (fun f => decide (f.page = e.page)) = some true ∧ s.pairs = []) ∧
    (let s := { logBench 2 0x100000 with sync := [(0x20000, .counter)] }
     let e := benchEntry 2 0x100000
     s.log.find? (fun e => e.core == 0 && !e.loss) = some e ∧ e.st = 2 ∧ e.pseq = none ∧ e.zo = false ∧ e.fn ≠ .cinc ∧
       (logFault s e).isNone = true ∧ ((entryPieces s e).flatMap (pieceSpans s e)).any (fun p => hitsSync s p.1 p.2) = true) ∧
    (∀ epo, let p := benchPacket .write none epo
      let s := packetBench p
      (s.stream 0 1).flight.find? (fun p => p.seq = s.ev.c) = some p ∧ noPath s (coreMod 0) 1 = false ∧ (s.window 0 1).epo = 0) ∧
    (∀ k ∈ [(AccFn.write, none), (.read, some 9)], let p := benchPacket k.1 k.2 0
      let s := packetBench p
      (s.stream 0 1).flight = [p] ∧ (s.window 0 1).reorder = [] ∧ seqDiff p.seq (s.window 0 1).dseq < 2 ^ 31 ∧ packetBlocked s p = false ∧
        PlainLine s (0x10000100000 / 128) ∧
        hitsSync s 0x10000100000 4 = false ∧ s.l1 = [] ∧ Memory.wf s.mem = true ∧ (s.group? 0 0).isSome = true) ∧
    (let line := 0x10000100000 / 128
     let p := benchPacket .write none 0
     let s := { packetBench p with dir := [{ (DirEntry.fresh line 1).setPtrs [256] with st := 1 }] }
     (s.stream 0 1).flight = [p] ∧ (s.window 0 1).reorder = [] ∧ p.fn.writes = true ∧ sharersHold s line = true ∧ halfDone s line = false) ∧
    (let s := { packetBench (benchPacket .write none 0) with nopath := [⟨0, 1, 0, false⟩] }
     noPath s (coreMod 0) 1 = true) ∧
    (let s := { parentBench [] with parents := [⟨0x80000000000000, 0, 0, benchTeam.ctx, benchTeam.l0, 0, 1⟩] }
     (translate s ⟨0, 0, benchTeam.ctx, benchTeam.l0, 0⟩ .write 0x80000000000000).toOption.isNone = true ∧ s.inFabric 0 = true) ∧
    (∀ y ∈ [[(0x40000 / 8, SyncTag.barrier)], []], let s := parentBench y
      s.parents[0]? = some ⟨0x40000, 0, 0, benchTeam.ctx, benchTeam.l0, 0, 1⟩ ∧
        okAnd (translate s ⟨0, 0, benchTeam.ctx, benchTeam.l0, 0⟩ .write 0x40000) (fun p => p.phys == .dram 0x40000 && p.ty == 0) = true ∧
        noPath s 0 (lineMod (0x40000 / 128)) = false ∧ homeWaits s (0x40000 / 128) true = false ∧
        tableBusy s (0x40000 / 128) s.nextId = false ∧ s.inFabric (lineMod (0x40000 / 128)) = true ∧
        Memory.wf s.mem = true ∧ s.l1 = []) ∧
    (let s := superviseBench { dueQueue 4 with wcount := 7 }
     (s.queue 0 5).wcount < (s.queue 0 5).wdt) ∧
    (∀ sup ∈ [0x3FF, 4], let s := superviseBench (dueQueue sup)
      let q := s.queue 0 5
      q.wdt ≠ 0 ∧ q.en = true ∧ q.wdg = false ∧ q.fre < q.rsv ∧ q.wdt ≤ q.wcount ∧ watchdogWaits s 0 5 = false ∧
        canDeliver s 0 q.sup (nodeEntry s 0 5).vf = decide (sup = 4) ∧ q.sup ≠ 5 ∧
        ((s.queue 0 4).rsv - (s.queue 0 4).freAt s.cyc < (s.queue 0 4).cap ∧ slotsHeld s 0 4 1 = [] ∧ (s.queue 0 4).waiting = [] ∧ (s.queue 0 4).pub = (s.queue 0 4).rsv ∧
          (s.queue 0 4).done = [])) ∧
    (∀ n ∈ [16, 2], let s := superviseBench { benchQueue with rsv := n, waiting := [⟨0, 4, []⟩] }
      let q := s.queue 0 5
      q.waiting = [⟨0, 4, []⟩] ∧ (q.cap ≤ q.rsv - q.freAt s.cyc ↔ n = 16) ∧ slotsHeld s 0 5 1 = []) ∧
    (let s := { superviseBench { benchQueue with rsv := 2, waiting := [⟨0, 4, []⟩] } with
       dir := [{ DirEntry.fresh (0x100080 / 128) 0 with st := 3 }] }
     slotsHeld s 0 5 1 ≠ []) := by
  refine ⟨?_, ⟨rfl, rfl, rfl, rfl, rfl, rfl, rfl, ?_, ?_, ?_, ?_, ?_, ?_, noPartials_of rfl, ?_⟩, ?_, ?_, fun _ => ⟨rfl, rfl, rfl⟩, ?_, ?_, ?_, ?_, ?_, ?_, ?_,
    ?_, ?_⟩
  all_goals decide +kernel

/-- A replayed store writes its bytes and frees its entry. -/
theorem test_replay : (match exec .sideLogReplay (logBench 2 0x100000) with
    | .next s => (memReadLE s.mem 0x100000 8, s.log.length)
    | _ => (0, 9)) = (0x11223344, 0) := by decide +kernel

/-! ## Links and lost paths -/

/-- The bench with the modules as Dawn leaves them. -/
def linkBench : State := { bench with modules := (List.range 4).map fun m => Mod.dawned 4 m 0 0 ⟨none, [], none, none, []⟩ }

/-- That bench with port 0 of module 0 in a state and so many failures. -/
def portBench (st : BitVec 3) (fail : Nat) : State :=
  linkBench.modMod 0 fun x => { x with ports := x.ports.mapIdx fun j p => if j = 0 then { p with st := st, fail := fail } else p }

/-- The bench with a pair of modules without a path at a clock. -/
def lostBench (cyc : Nat) (applied : Bool) : State :=
  { linkBench with
    nopath := [⟨0, 1, 0, applied⟩]
    cyc := cyc }

/-- A line of module 1. -/
def farLine : Nat := 2 ^ 33 + 0x2000

/-- The bench whose module 0 has lost the path from module 1, with an entry of a line of its own that module 1's core 256 holds. -/
def goneBench (st : BitVec 3) (n : BitVec 12) (ms : List Msg) : State :=
  { homeBench [] [homeCopy 256 (.owned 3)] { homeDir st [256] with ack := n } with
    nopath := [⟨1, 0, 0, true⟩]
    msgs := ms
    cyc := 2100000
    ev := { a := homeLine, b := 1 } }

/-- LinkEvents: a port that is up and one that trains, whose training succeeds, fails and fails the third time; a home lost 199 µs and
200 µs ago, with a group that read it under Twilight; a round and an owner 2 ms after a module was lost; packets of a lost module that
return a value and nothing; a path that is not back and one that is. -/
theorem test_met_LinkEvents :
    (∃ p, ((portBench 3 0).mod 0).ports[0]? = some p ∧ p.st = 3 ∧ (portBench 3 0).inFabric 0 = true ∧ (portBench 3 0).inFabric p.peer = true ∧
      (((portBench 3 0).mod p.peer).ports[p.pport]?).isSome = true) ∧
    (∀ n ∈ [0, 2], ∃ p, ((portBench 2 n).mod 0).ports[0]? = some p ∧ p.st = 2 ∧ p.peer ≠ 0 ∧ p.fail = n ∧ p.pport < 16 ∧
      (portBench 2 n).inFabric 0 = true) ∧
    (∀ t ∈ [209999, 210000], ∀ i ∈ [0, 1], let m : Option (BitVec 32) := if i = 0 then none else some 0
      let s := { lostBench t false with groups := [{ twilightGroup 0 with parkMask := m, twi := some ⟨benchGroup.arch, [], 9, [⟨farLine, 3, 0, 0, none, 1⟩], 0⟩ }] }
      s.nopath.find? (fun p => p.m == 0 && p.h == 1) = some ⟨0, 1, 0, false⟩ ∧ (s.cyc < 0 + Config.lossClocks ↔ t = 209999) ∧
        lineMod farLine = 1 ∧ (s.group? 0 0).map (·.parkMask) = some m) ∧
    (let s := goneBench 3 2 [.inval 256 homeLine]
     let d := s.dirOf homeLine
     cutOff s 1 (lineMod homeLine) = true ∧ d.st = 3 ∧
       d.sent + Config.presumeClocks ≤ s.cyc ∧ (s.msgs.filter (ofModule 1 homeLine)).length < d.ack.toNat) ∧
    (let s := goneBench 2 0 []
     let d := s.dirOf homeLine
     s.nopath.find? (fun p => p.m == 1 && p.h == lineMod homeLine && p.applied) = some ⟨1, 0, 0, true⟩ ∧ d.st = 2 ∧ d.ptrs = [256] ∧
       coreMod 256 = 1 ∧ 0 ≤ d.sent ∧ d.sent + Config.presumeClocks ≤ s.cyc ∧ s.l1? 256 homeLine = some (homeCopy 256 (.owned 3))) ∧
    (let s := { packetBench (benchPacket .read (some 9) 0) with nopath := [⟨0, 1, 0, true⟩] }
     cutOff s (coreMod 0) 1 = true ∧ (s.stream 0 1).flight = [benchPacket .read (some 9) 0] ∧ s.group? 0 0 = some benchGroup ∧
       s.team? benchGroup.team = some benchTeam) ∧
    (∀ rs ∈ [[], [homeReq .tracked .read]], let s := { goneBench 2 0 [] with nopath := [⟨1, 0, 5, true⟩], reqs := rs }
     let d := s.dirOf homeLine
     s.nopath.find? (fun p => p.m == 1 && p.h == lineMod homeLine && p.applied) = some ⟨1, 0, 5, true⟩ ∧ d.st = 2 ∧ d.ptrs = [256] ∧
       coreMod 256 = 1 ∧ d.sent < 5 ∧ (s.reqs.any (fun r => r.line == homeLine) = true ↔ rs ≠ [])) ∧
    (let s := { packetBench (benchPacket .write none 0) with nopath := [⟨0, 1, 0, true⟩] }
     cutOff s (coreMod 0) 1 = true ∧ (s.stream 0 1).flight = [benchPacket .write none 0] ∧ 0 < logRoom s 0) ∧
    (cutOff (lostBench 0 false) (coreMod 0) 1 = false ∧ (lostBench 0 false).nopath.any (fun p => p.m == 0 && p.h == 1) = true ∧
      pathExists (lostBench 0 false) 0 1 = true ∧ NoPartials (lostBench 0 false)) ∧
    (let s := { lostBench 0 false with modules := [{ Mod.reset 0 with ports := [] }, Mod.reset 1] }
     pathExists s 0 1 = false) :=
  ⟨⟨_, rfl, by decide, by decide, by decide, by decide⟩, fun n h => by
      have h : n = 0 ∨ n = 2 := by simpa using h
      rcases h with h | h <;> subst h <;> exact ⟨_, rfl, by decide, by decide, by decide, by decide, by decide⟩,
    by decide +kernel, by decide +kernel, by decide +kernel, ⟨by decide, rfl, rfl, rfl⟩, by decide +kernel, by decide +kernel,
    ⟨by decide, by decide, by decide, noPartials_of rfl⟩, by decide⟩

/-- A link found down enters training at both ends. -/
theorem test_link_down : (match exec .linkDown linkBench with
    | .next s => s.modules.map fun x => x.ports.filterMap fun p => if p.st = 2 then some p.peer else none
    | _ => []) = [[1], [0], [], []] := by decide +kernel

/-! ## Root ports, boot and errors -/

/-- The bench with slot 0 of root port 0 valid, requests held there and outstanding faults. -/
def rootBench (held : List HeldPcie) (pairs : List Pair) : State :=
  { bench.modMod 0 fun x => { x with
      slots := 0x11000 :: List.replicate 63 0
      heldPcie := held } with pairs := pairs }

/-- What the slot translates under. -/
def rootCtx : Ctx := ⟨0, 0, 0, 0x10000, 0⟩

/-- A request of four bytes at an address. -/
def rootReq (va : VAddr) (data : Option (List Byte)) : PcieReq := ⟨none, va, 4, data⟩

/-- PortAndMeasurementEvents: a slot that is not valid; a page that faults, its pair outstanding or not, where no node may be told; a
write and a read of pages that translate; a request held and none; a module that has booted and one that has not. -/
theorem test_met_PortAndMeasurementEvents :
    (slotCtx bench 0 0 0 = none ∧ slotCtx (rootBench [] []) 0 0 0 = some rootCtx) ∧
    (∀ ps ∈ [[], [(⟨0, 0, 0, 0x8000000000⟩ : Pair)]], let s := rootBench [] ps
      let r := rootReq 0x80000000000000 none
      reqFault s rootCtx r = some ⟨0x8000000000, false⟩ ∧ (⟨rootCtx.m, rootCtx.vf, rootCtx.ctx, 0x8000000000⟩ ∈ s.pairs ↔ ps ≠ [])) ∧
    (nodeEntry (rootBench [] []) 0 (nth ((rootBench [] []).mod 0).psup 0 0).toNat).assigned = false ∧
    (∀ data ∈ [none, some [1, 2, 3, (4 : Byte)]], let s := rootBench [] []
      let r := rootReq 0x100000 data
      reqFault s rootCtx r = none ∧ reqWaits s rootCtx r = false ∧ piecesOf r.va.toNat (reqSize r) = [(0x100000, 4)] ∧
        okAnd (translate s rootCtx (reqNeed r) 0x100000) (fun g => g.phys == .dram 0x100000 && g.ty != 2) = true ∧ s.l1 = [] ∧
        PlainLine s (0x100000 / 128)) ∧
    (((rootBench [] []).mod 0).heldPcie[0]? = none ∧ ((rootBench [⟨3, 0, 0, 9, rootReq 0 none, false⟩] []).mod 0).heldPcie[0]? =
      some ⟨3, 0, 0, 9, rootReq 0 none, false⟩) ∧
    ((State.reset.mod 0).done = false ∧ (bench.mod 0).done = true) := by
  refine ⟨?_, ?_, ?_, ?_, ?_, ?_⟩
  all_goals decide +kernel

/-- BootAndErrorEvents: a module that boots and ones whose boot fails, at a step firmware names, by a size and by a link; one that has booted, with its coolant gone or not; errors; a core
and a cluster that are not retired, and a core that is; an advisory that is set and one that is not; an instruction that can trap. -/
theorem test_met_BootAndErrorEvents :
    (failureOk (3, 2) = true ∧ failureOk (3, 9) = false ∧ (3 : Nat) ≤ 3) ∧
    (let d : DawnInput := { failure := none, digests := [], parts := some [⟨0, [0], 16, 128, 0, 0⟩], nodeBase := none }
     (d.parts.getD []).all (fun p => sizesOk p.l1KiB p.rKiB) = false) ∧
    (let d : DawnInput := { failure := none, digests := [], parts := none, nodeBase := none, miscabled := [0] }
     let links (d : DawnInput) : Bool := d.miscabled.all fun p => 16 ≤ p || (Port.cabled 4 1 p).st = 0
     (d.parts.getD []).all (fun p => sizesOk p.l1KiB p.rKiB) = true ∧ links d = false ∧ links { d with miscabled := [] } = true) ∧
    (∃ q ∈ ({ State.reset with windows := [⟨1, 0, 0, 0, []⟩] } : State).windows, q.core = 0 ∧ q.target = 1) ∧
    (∀ f ∈ [none, some (3, 2)], let s := { State.reset with ev := { a := 1, dawn := some { failure := f, digests := [1, 2, 3, 4, 5, 6], parts := none, nodeBase := none } } }
      (s.mod 1).done = false ∧ (s.mod 1).step = 0 ∧ s.inFabric 1 = true ∧ Memory.wf s.mem = true ∧ Memory.wf s.lmem = true) ∧
    ((bench.mod 0).done = true ∧ ((bench.modMod 0 fun x => { x with cool := false }).mod 0).cool = false) ∧
    (∀ w ∈ [ErrorSite.dram 5, .l2 5, .l1Clean 0 5, .l1Dirty 0 5, .localLine 0 5, .regBlock 0 0 1, .groupArea 0 0, .saveSlot 0 0,
        .directory 5, .syncTag 5], ({ bench with ev := { site := some w } } : State).ev.site = some w) ∧
    (bench.inFabric (coreMod 0) = true ∧ retiredCore bench 0 = false ∧ inDrain bench 0 = false ∧ (bench.group? 0 0).isSome = true) ∧
    (retiredCore (bench.modMod 0 fun x => { x with rcores := 1 }) 0 = true) ∧
    (bench.inFabric (0 / 64) = true ∧ (bench.mod (0 / 64)).rclu.getLsbD (0 % 64) = false ∧ inDrain bench (4 * 0) = false) ∧
    ((bench.mod 1).adv = false ∧ ((bench.modMod 1 fun x => { x with adv := true }).mod 1).adv = true ∧ noPath bench 0 1 = false ∧ bench.inFabric 0 = true) ∧
    (bench.issue? = some benchIssue ∧ CanTrap benchIssue) :=
  ⟨by decide, by decide, by decide, ⟨_, List.mem_singleton.mpr rfl, rfl, rfl⟩,
   by decide, by decide, by decide, by decide, by decide, by decide, by decide, rfl, ⟨rfl, rfl, rfl, by decide⟩⟩

/-- A Dawn that succeeds leaves its module ready. -/
theorem test_dawn : (match exec .dawn { State.reset with ev := { a := 1, dawn := some { failure := none, digests := [1, 2, 3, 4, 5, 6], parts := none, nodeBase := none } } } with
    | .next s => (s.mod 1).dstat
    | _ => 0) = 1 := by decide +kernel

/-! ## Steps -/

/-- StepRunsDecoded: the boot group about to issue an instruction, and an event whose turn it is. -/
theorem test_met_StepRunsDecoded :
    (let s := State.reset.withFetchWord 32 0x78780601
     let tm := bootTeam State.reset
     let g := launchGroup tm 0 0 0x20000 (bootAregs tm) 0
     s.agenda = .issue 0 0 0 :: [] ∧ s.group? 0 0 = some g ∧ s.team? g.team = some tm ∧
       g.arch.splits.find? (fun p => p.slot == 0) = some benchSplit ∧ g.faulted = false ∧ g.mayIssue = true ∧
       (s.mod (coreMod 0)).done = true ∧ (s.mod (coreMod 0)).cool = true ∧ g.savedRes = none ∧ splitBarred g benchSplit = false ∧ fetchFailed g 0x20000 = false ∧
       (fetchHalves s g tm 0x20000).1 = [0x0601, 0x7878] ∧ (fetchHalves s g tm 0x20000).2.isNone = true ∧
       okAnd (decode [0x0601, 0x7878]) (fun _ => true) = true ∧
       okAnd (translate s tm.tctx .exec 0x20000) (fun p => p.phys == .dram 0x20000) = true ∧ 0x20000 / 128 ∉ s.poison ∧
       cutOff s (coreMod g.core) (lineMod (0x20000 / 128)) = false) ∧
    (let s := State.reset.withFetchWord 16 0
     let tm := bootTeam State.reset
     let g := launchGroup tm 0 0 0x20000 (bootAregs tm) 0
     (fetchHalves s g tm 0x20000).1 = [0] ∧ (fetchHalves s g tm 0x20000).2.isNone = true ∧ okAnd (decode [0]) (fun _ => true) = false) ∧
    (State.reset.agenda.length = 4) :=
  ⟨⟨rfl, rfl, rfl, rfl, rfl, rfl, by decide, by decide, rfl, rfl, by decide +kernel, by decide +kernel, by decide, by decide +kernel,
    by decide, by decide⟩, by decide +kernel, by decide⟩

/-- MemoryKept: the machine after reset, and its first step. -/
theorem test_met_MemoryKept : State.reset.memWf = true ∧ (match step State.reset with
    | .next _ => true
    | _ => false) = true := by decide +kernel

end Sys2Proof.Machine
end

