-- ==== Sys2Proof/Tests/Far.lean ====
section
/-!
SUPPORT. States that meet the hypotheses of the statements about remote instructions, and what a few of them leave there.
-/
namespace Sys2Proof.Machine

set_option Elab.async false

/-- The group of the remote bench: offsets from 0x40000 on in v0 and v2, the peer, 0 or 1, in v1, members 0 and 1 in v3, data above. -/
def farGroup : Group :=
  withBlocks [laneBlock fun i L => BitVec.ofNat 32 (match i with
    | 0 => 8 * L + 0x40000
    | 1 => L % 2
    | 2 => 8 * L + 0x40000
    | 3 => 3
    | _ => 100 * i + L)] benchGroup

/-- The bench with the same page tables on module 1. -/
def farBench : State :=
  { benchOf farGroup benchTeam with
    mem := memWriteLE (memWriteLE bench.mem (2 ^ 40 + bootL0) 8 (bootL1 + 1)) (2 ^ 40 + bootL1) 8 bootLeaf }

/-- What the instruction of `farBench` sees. -/
def farIssue : Issue := issueOf farGroup benchTeam benchSplit

/-- The decidable form of `RemoteClear`. -/
def remoteBool (s : State) (x : Issue) (f : RmForm) (o : RemOp) (ls : List RLane) (fd : RFound) : Bool :=
  (ls.all fun e => (remAddrCheck x (addrReg x.g f.ar.toNat) (remKind o) o.fn e.1.ea).isNone) &&
  ((x.liveLanes.all fun L => decide (peerWord x f L < 16) && s.inFabric (peerWord x f L)) &&
  (fd.faults.isEmpty && ((fd.ok.all fun l => !l.1.pieces.isEmpty && l.1.pieces.all fun p => globBool p fun _ _ => true) &&
  ((remoteWriteCheck s x (remKind o) o.fn fd.ok).isNone && ((fd.ok.all fun l => !cutOff s x.m l.2) &&
  (!remoteWaits s x (remKind o) fd.ok && !streamFull s x fd.ok))))))

/-- Lanes that are clear at some state. -/
theorem remote_ex {s : State} {x : Issue} {f : RmForm} {o : RemOp} {ls : List RLane}
    (h : okAnd (remoteFind s x (remKind o) ls) (remoteBool s x f o ls) = true) : ∃ fd, RemoteClear s x f o ls fd := by
  obtain ⟨fd, hf, h⟩ := ok_of h
  simp only [remoteBool, Bool.and_eq_true, List.isEmpty_iff, List.all_eq_true, Bool.not_eq_true', Option.isNone_iff_eq_none,
    decide_eq_true_eq] at h
  obtain ⟨h1, h2, h3, h4, h5, h6, h7⟩ := h
  refine ⟨fd, h1, h2, hf, h3, fun l hl => ⟨fun he => ?_, fun p hp => ?_⟩, h5, h6, h7⟩
  · simpa [he] using (h4 l hl).1
  · obtain ⟨ga, pg, h8, _⟩ := glob_of ((h4 l hl).2 p hp)
    exact ⟨ga, pg, h8⟩

/-- RemotePuts, of doublewords and of an update. -/
theorem test_met_RemotePuts :
    (putWork (.rstd ⟨none, false, 4, 6, 0⟩)).map (fun w => (w.1, w.2.1)) = some (⟨.write, 8, false, false⟩, 2) ∧
    (Ready farBench farIssue none (remoteUse ⟨none, true, 4, 6, 0⟩ 2 0) farBench ∧ NoSafePoint farIssue none ∧
      ∃ fd, RemoteClear farBench farIssue ⟨none, false, 4, 6, 0⟩ ⟨.write, 8, false, false⟩
        (formLanes farIssue ⟨none, false, 4, 6, 0⟩ ⟨.write, 8, false, false⟩) fd) ∧
    (Ready farBench farIssue none (remoteUse ⟨none, true, 4, 6, 0⟩ 1 0) farBench ∧
      ∃ fd, RemoteClear farBench farIssue ⟨none, false, 4, 6, 0⟩ ⟨.atomic 13, 4, false, false⟩
        (formLanes farIssue ⟨none, false, 4, 6, 0⟩ ⟨.atomic 13, 4, false, false⟩) fd) :=
  ⟨rfl, ⟨ready_of (by decide) rfl rfl, .inl rfl, remote_ex (by decide +kernel)⟩, ready_of (by decide) rfl rfl, remote_ex (by decide +kernel)⟩

/-- The packets an instruction leaves in flight to each module: (module, lanes of its packets). -/
def sentOf (o : Out) : List (Nat × List Nat) :=
  match o with
  | .next s => s.streams.map fun x => (x.target, x.flight.flatMap fun p => p.accs.map (·.lane))
  | _ => []

/-- A remote store sends each lane's packet to the module its peer word names. -/
theorem test_remote_store : sentOf (exec (.rstw ⟨none, false, 4, 6, 0⟩) farBench) = [(0, [0, 2, 4, 6]), (1, [1, 3, 5, 7])] := by
  decide +kernel

/-- The decidable form of `PassClear`, or of `FetchClear` for every member at once. -/
def passBool (s : State) (x : Issue) (o : RemOp) (all : Bool) (ls : List RLane) (fd : RFound) : Bool :=
  let now := if all then fd.ok else nextOnes fd ls
  fd.faults.isEmpty && ((fd.ok.all fun l => !l.1.pieces.isEmpty && l.1.pieces.all fun p => globBool p fun _ _ => true) &&
  ((remoteWriteCheck s x (remKind o) o.fn fd.ok).isNone && ((fd.ok.all fun l => (poisonCheck s (!all && o.fn.writes) l.1).isNone) &&
  ((ls.all fun e => !cutOff s x.m e.2) && (!remoteWaits s x (remKind o) now && !streamFull s x now)))))

/-- See `passBool`. -/
theorem pass_ex {s : State} {x : Issue} {o : RemOp} {ls : List RLane}
    (h : okAnd (remoteFind s x (remKind o) ls) (passBool s x o false ls) = true) : ∃ fd, PassClear s x o ls fd := by
  obtain ⟨fd, hf, h⟩ := ok_of h
  simp only [passBool, Bool.and_eq_true, List.isEmpty_iff, List.all_eq_true, Bool.not_eq_true', Option.isNone_iff_eq_none,
    Bool.not_false, Bool.true_and, Bool.false_eq_true, if_false] at h
  obtain ⟨h1, h2, h3, h4, h5, h6⟩ := h
  refine ⟨fd, hf, h1, fun l hl => ⟨fun he => ?_, fun p hp => ?_⟩, h3, h4, fun e he _ => h5 e he, h6⟩
  · simpa [he] using (h2 l hl).1
  · obtain ⟨ga, pg, h8, _⟩ := glob_of ((h2 l hl).2 p hp)
    exact ⟨ga, pg, h8⟩

/-- See `passBool`. -/
theorem fetch_ex {s : State} {x : Issue} {o : RemOp} {ls : List RLane}
    (h : okAnd (remoteFind s x (remKind o) ls) (passBool s x o true ls) = true) : ∃ fd, FetchClear s x o ls fd := by
  obtain ⟨fd, hf, h⟩ := ok_of h
  simp only [passBool, Bool.and_eq_true, List.isEmpty_iff, List.all_eq_true, Bool.not_eq_true', Option.isNone_iff_eq_none,
    Bool.not_true, Bool.false_and, if_true] at h
  obtain ⟨h1, h2, _, h4, h5, h6⟩ := h
  refine ⟨fd, hf, h1, fun l hl => ⟨fun he => ?_, fun p hp => ?_⟩, h4, h5, h6⟩
  · simpa [he] using (h2 l hl).1
  · obtain ⟨ga, pg, h8, _⟩ := glob_of ((h2 l hl).2 p hp)
    exact ⟨ga, pg, h8⟩

/-- The split of the remote bench once its last pass has been answered: it keeps the lanes it issued with. -/
def repliedSplit : Split :=
  { benchSplit with
    passTxn := some 7
    rem := some ((List.range 8).map fun L => ⟨L, 0x40000 + 8 * L, L % 2, 0, 0⟩) }

/-- The group of the remote bench with the replies of its last pass. -/
def repliedGroup (red : Bool) : Group :=
  { farGroup with
    txns := [⟨7, 0xFF, .lanes 8 1, true, if red then (List.range 8).flatMap fun L => [(L, 0x3F800000), (64 + L, 0x40000000)]
      else (List.range 8).map fun L => (L, BitVec.ofNat 64 (1000 + L)), 0, [], none⟩]
    arch := { farGroup.arch with splits := [repliedSplit] } }

/-- A split with the pass to module 0 posted, and the lanes whose values are back. -/
def passSplit (got : List (Nat × DWord)) : Split := { repliedSplit with got := got }

/-- The group of the remote bench with that pass: replies outstanding, values that are back and not yet taken. -/
def passGroup (got : List (Nat × DWord)) (out : Nat) (back : List (Nat × DWord)) : Group :=
  { farGroup with
    txns := [⟨7, 0xFF, .lanes 8 1, false, back, out, [], none⟩]
    arch := { farGroup.arch with splits := [passSplit got] } }

/-- The machine then. -/
def passBench (got : List (Nat × DWord)) (out : Nat) (back : List (Nat × DWord)) : State :=
  { benchOf (passGroup got out back) benchTeam with mem := farBench.mem }

/-- What the instruction sees then. -/
def passIssue (got : List (Nat × DWord)) (out : Nat) (back : List (Nat × DWord)) : Issue :=
  issueOf (passGroup got out back) benchTeam (passSplit got)

/-- The values of the lanes whose peer is module 0. -/
def evenLanes : List (Nat × DWord) := [(0, 1000), (2, 1002), (4, 1004), (6, 1006)]

/-- What the instruction whose replies are back sees. -/
def repliedIssue (red : Bool) : Issue := issueOf (repliedGroup red) benchTeam repliedSplit

/-- RemoteGetResults: the first pass of a load and of an exchange, which releases before it; a pass that waits, one whose values are
back while lanes are left, and the next one. -/
theorem test_met_RemoteGetPasses :
    let f : RmForm := ⟨none, false, 8, 6, 0⟩
    let ld : RemOp := ⟨.read, 4, true, false⟩
    let xc : RemOp := ⟨.atomic 9, 4, true, true⟩
    (getWork (.rldw f) = some (ld, 1, 0, f) ∧ ReadyPass farBench farIssue f 0 1 farBench ∧ farIssue.sp.passTxn = none ∧
      farIssue.sp.rem = none ∧ formLanes farIssue f ld ≠ [] ∧ (∀ e ∈ formLanes farIssue f ld, e.2 < 16 ∧ farBench.inFabric e.2 = true) ∧
      (∀ e ∈ formLanes farIssue f ld, remAddrCheck farIssue (addrReg farIssue.g 6) (remKind ld) ld.fn e.1.ea = none) ∧
      ∃ fd, PassClear farBench farIssue ld (formLanes farIssue f ld) fd) ∧
    (getWork (.rxchg f) = some (xc, 1, 1, f) ∧ ReadyPass farBench farIssue f 1 1 farBench ∧
      (∀ e ∈ formLanes farIssue f xc, remAddrCheck farIssue (addrReg farIssue.g 6) (remKind xc) xc.fn e.1.ea = none) ∧
      releaseReady farBench farIssue.g (capScope farBench farIssue 5).1 = true ∧
      ∃ fd, PassClear (releasedRemote farBench farIssue) farIssue xc (formLanes farIssue f xc) fd) ∧
    (ReadyPass (passBench [] 4 []) (passIssue [] 4 []) f 0 1 (passBench [] 4 []) ∧ (passIssue [] 4 []).sp.passTxn = some 7 ∧
      (passIssue [] 4 []).g.txns.map (fun T => (T.id, T.out)) = [(7, 4)]) ∧
    (ReadyPass (passBench [] 0 evenLanes) (passIssue [] 0 evenLanes) f 0 1 (passBench [] 0 evenLanes) ∧
      (passIssue [] 0 evenLanes).g.txns.map (fun T => (T.id, T.out, T.lanes)) = [(7, 0, evenLanes)] ∧ (∀ e ∈ evenLanes, e.1 < 64) ∧
      (∃ q ∈ (passIssue [] 0 evenLanes).sp.rem.getD [], q.lane ∉ ((passIssue [] 0 evenLanes).sp.got ++ evenLanes).map (·.1))) ∧
    (let s := passBench evenLanes 0 []
     let x := passIssue evenLanes 0 []
     let left := ((x.sp.rem.getD []).map RemLane.lane_).filter fun e => decide (e.1.lane ∉ x.sp.got.map (·.1))
     ReadyPass s x f 0 1 s ∧ x.sp.rem.isSome = true ∧ x.g.txns.map (fun T => (T.id, T.out, T.lanes)) = [(7, 0, [])] ∧ left ≠ [] ∧
       ∃ fd, PassClear s x ld left fd) :=
  ⟨⟨rfl, ⟨by decide, ready_of (by decide) rfl rfl⟩, rfl, rfl, by decide, by decide, by decide, pass_ex (by decide +kernel)⟩,
   ⟨rfl, ⟨by decide, ready_of (by decide) rfl rfl⟩, by decide, by decide +kernel, pass_ex (by decide +kernel)⟩,
   ⟨⟨by decide, ready_of (by decide) rfl rfl⟩, rfl, rfl⟩,
   ⟨⟨by decide, ready_of (by decide) rfl rfl⟩, rfl, by decide, by decide⟩,
   ⟨by decide, ready_of (by decide) rfl rfl⟩, rfl, rfl, by decide, pass_ex (by decide +kernel)⟩

/-- RemoteGetResults: an exchange and a doubleword load whose values are all back. -/
theorem test_met_RemoteGetResults : let x := repliedIssue false
    let s := benchOf (repliedGroup false) benchTeam
    ReadyPass s x ⟨none, false, 8, 6, 0⟩ 1 1 s ∧ ReadyPass s x ⟨none, false, 8, 6, 0⟩ 0 2 s ∧
    NoSafePoint x none ∧ x.sp.passTxn = some 7 ∧ (x.g.txns.find? (fun t => t.id == 7)).isSome = true ∧
    (∀ T ∈ x.g.txns, T.out = 0 ∧ (∀ L ∈ x.liveLanes, L ∈ (x.sp.got ++ T.lanes).map (·.1)) ∧ ∀ e ∈ T.lanes, e.1 < 64) ∧
    (∀ T ∈ x.g.txns, T.lanes ≠ [] ∧ ∀ q ∈ x.sp.rem.getD [], q.lane ∈ (x.sp.got ++ T.lanes).map (·.1)) ∧
    x.sp.resume = 0 ∧ 2 ≤ (s.vf x.m x.t.vf).cap.toNat :=
  ⟨⟨by decide, ready_of (by decide) rfl rfl⟩, ⟨by decide, ready_of (by decide) rfl rfl⟩, .inl rfl, rfl, rfl, by decide, by decide, rfl,
    by decide⟩

/-- PullReductionResults: the fetches, a wait for them, and every word back. -/
theorem test_met_PullReductionResults : let x := repliedIssue true
    let s := benchOf (repliedGroup true) benchTeam
    (let f : RmForm := ⟨none, false, 8, 6, 1⟩
     let o : RemOp := ⟨.read, 4, true, false⟩
     ReadyPass farBench farIssue f 0 1 farBench ∧ memberLanes farIssue f ≠ [] ∧
      (∀ L ∈ farIssue.liveLanes, addrCheck farIssue (addrReg farIssue.g 6) (remKind o) (remoteEa farIssue f L) = none) ∧
      (∀ L ∈ farIssue.liveLanes, peerWord farIssue f L < 2 ^ 16 ∧ ∀ n ∈ membersOf (peerWord farIssue f L), farBench.inFabric n = true) ∧
      (∃ fd, FetchClear farBench farIssue o (memberLanes farIssue f) fd) ∧
      ReadyPass (passBench [] 4 []) (passIssue [] 4 []) f 0 1 (passBench [] 4 [])) ∧
    nOk false 8 = true ∧ ReadyPass s x ⟨none, false, 8, 6, 1⟩ 0 1 s ∧ NoSafePoint x none ∧ x.sp.passTxn = some 7 ∧
    (x.g.txns.find? (fun t => t.id == 7)).map (·.out) = some 0 ∧ x.sp.resume = 0 ∧ peerWord x ⟨none, false, 8, 6, 1⟩ 0 = 3 :=
  ⟨⟨⟨by decide, ready_of (by decide) rfl rfl⟩, by decide, by decide, by decide, fetch_ex (by decide +kernel),
      by decide, ready_of (by decide) rfl rfl⟩,
    rfl, ⟨by decide, ready_of (by decide) rfl rfl⟩, .inl rfl, rfl, rfl, rfl, by decide⟩

/-- Lane register `r` of lane `L` of the first group after an instruction. -/
def laneAfter (r L : Nat) (o : Out) : Option Word :=
  match o with
  | .next s => (s.groups.head?).map fun g => laneReg benchTeam g r L
  | _ => none

/-- 1 + 2 = 3 in FP32. -/
theorem test_reduction : laneAfter 8 5 (exec (.rredf ⟨none, false, 8, 6, 1⟩) (benchOf (repliedGroup true) benchTeam)) = some 0x40400000 := by
  decide +kernel

/-- A remote load writes its replies. -/
theorem test_remote_load : laneAfter 8 5 (exec (.rldw ⟨none, false, 8, 6, 0⟩) (benchOf (repliedGroup false) benchTeam)) = some 1005 := by
  decide +kernel

end Sys2Proof.Machine
end

