-- ==== Sys2Proof/Tests/Sketches.lean ====
section
/-!
SUPPORT. States that meet the hypotheses of the statements about sketch instructions, and what a few of the instructions
leave there.
-/
namespace Sys2Proof.Machine

set_option Elab.async false

/-- The decidable form of `SketchClear`. -/
def clearBool (s : State) (x : Issue) (f : SkForm) (k : Kind) (spans : SkSpans) (lanes : List Nat) (admits : SkDesc → Bool) (fd : Found) : Bool :=
  fd.faults.isEmpty && (decide (fd.ok.map (·.op.lane) = lanes) && ((fd.ok.all fun l => (laneSketch s x l).any fun r => admits r.1) &&
  ((fd.ok.all fun l => (lostHome s x l).isNone) && ((fd.ok.all fun l => (sketchCheck s x k.write spans l).isNone) &&
  (!mustWait s x (addrReg x.g f.ar.toNat) k fd.ok && !sketchWaits s x k.write spans fd.ok)))))

/-- See `clearBool`. -/
theorem clear_of {s : State} {x : Issue} {f : SkForm} {k : Kind} {spans : SkSpans} {lanes : List Nat} {admits : SkDesc → Bool}
    {fd : Found}
    (hf : checkLanes s x (addrReg x.g f.ar.toNat) k (skOps x f lanes) = .ok fd) (h : clearBool s x f k spans lanes admits fd = true) :
    SketchClear s x f k spans lanes admits fd := by
  simp only [clearBool, Bool.and_eq_true, List.isEmpty_iff, decide_eq_true_eq, List.all_eq_true, Bool.not_eq_true',
    Option.isNone_iff_eq_none] at h
  obtain ⟨h1, h2, h3, h4, h5, h6, h7⟩ := h
  refine ⟨hf, h1, h2, fun l hl => ?_, h4, h5, h6, h7⟩
  have := h3 l hl
  revert this
  cases laneSketch s x l with
  | none => simp
  | some r => exact fun h => ⟨r.1, r.2, rfl, h⟩

/-- Lanes that are clear at some state. -/
theorem clear_ex {s : State} {x : Issue} {f : SkForm} {k : Kind} {spans : SkSpans} {lanes : List Nat} {admits : SkDesc → Bool}
    {q : Found → Bool}
    (h : okAnd (checkLanes s x (addrReg x.g f.ar.toNat) k (skOps x f lanes))
      (fun fd => clearBool s x f k spans lanes admits fd && q fd) = true) : ∃ fd, SketchClear s x f k spans lanes admits fd ∧ q fd = true := by
  obtain ⟨fd, hf, h⟩ := ok_of h
  exact ⟨fd, clear_of hf (Bool.and_eq_true _ _ ▸ h).1, (Bool.and_eq_true _ _ ▸ h).2⟩

/-- The group of the sketch bench: offsets 8L in v0; key or source address 2^37 in v3:v2, weight in v4; a8 over three
sketch regions, a9 over the third. -/
def sketchGroup : Group :=
  let g := withBlocks [laneBlock fun i L => BitVec.ofNat 32 (match i with
    | 0 => 8 * L
    | 3 => 32
    | 5 => 0x3F800000
    | 7 => 9
    | _ => 0)] benchGroup
  { g with arch := { g.arch with
      aregs := (List.range 16).map fun i => if i = 8 then ⟨2 ^ 36, 2 ^ 36, 2 ^ 38, permOf 0 31⟩
        else if i = 9 then ⟨3 * 2 ^ 36, 2 ^ 36, 2 ^ 38, permOf 0 31⟩ else addrReg benchGroup i } }

/-- The bench with three regions: two frequency sketches of one row of 32 bytes, and a quantile summary of 64 buckets from
0.25 on (Table Tables 6). -/
def sketchBench : State :=
  let m := bench.mem
  let m := [(1, 0, 0x5000, 0x40000), (2, 1, 0x5000, 0x40080), (3, 2, 0x3E8 * 2 ^ 32 + 0x66003, 0x40100)].foldl
    (fun m (r : Nat × Nat × Nat × Nat) => memWriteLE (memWriteLE (memWriteLE m (bootL1 + 8 * r.1) 8 (0x1023 + r.2.1 * 2 ^ 56))
      (128 * r.2.1) 8 r.2.2.1) (128 * r.2.1 + 8) 8 r.2.2.2) m
  { benchOf sketchGroup benchTeam with mem := m }

/-- What the instruction of `sketchBench` sees. -/
def sketchIssue : Issue := issueOf sketchGroup benchTeam benchSplit

/-- SketchUpdates, of both instructions. -/
theorem test_met_SketchUpdates :
    Ready sketchBench sketchIssue none { lr := [0, 2, 3, 4] } sketchBench ∧ NoSafePoint sketchIssue none ∧
    ∀ del, ∃ fd, SketchClear sketchBench sketchIssue ⟨none, false, 2, 8, 0⟩ (skKind true false) (keySpans true) sketchIssue.liveLanes
      (fun d => !del || d.deletable) fd ∧ fd.ok.length = 8 := by
  refine ⟨ready_of (by decide) rfl rfl, .inl rfl, fun del => ?_⟩
  obtain ⟨fd, h, h'⟩ := clear_ex (s := sketchBench) (x := sketchIssue) (f := ⟨none, false, 2, 8, 0⟩) (k := skKind true false)
    (spans := keySpans true) (lanes := sketchIssue.liveLanes) (admits := fun d => !del || d.deletable) (q := fun fd => decide (fd.ok.length = 8))
    (by cases del <;> decide +kernel)
  exact ⟨fd, h, of_decide_eq_true h'⟩

/-- An operation on regions may go on the regions its lanes name. -/
def wholeBool (i : Instr) : Bool :=
  match wholeWork i with
  | none => false
  | some w => okAnd (checkLanes sketchBench sketchIssue (addrReg sketchIssue.g w.f.ar.toNat) (skKind w.op.write true)
      (skOps sketchIssue w.f sketchIssue.liveLanes)) fun fd =>
    clearBool sketchBench sketchIssue w.f (skKind w.op.write true) w.op.spans sketchIssue.liveLanes (fun _ => true) fd &&
    ((regionsNamed sketchBench sketchIssue fd.ok).all (fun q => (w.op.check sketchBench sketchIssue q.2.2).isNone) &&
      decide ((regionsNamed sketchBench sketchIssue fd.ok).length = 1))

/-- See `wholeBool`. -/
theorem whole_of {i : Instr} (h : wholeBool i = true) : ∃ w fd, wholeWork i = some w ∧
    SketchClear sketchBench sketchIssue w.f (skKind w.op.write true) w.op.spans sketchIssue.liveLanes (fun _ => true) fd ∧
    (∀ q ∈ regionsNamed sketchBench sketchIssue fd.ok, w.op.check sketchBench sketchIssue q.2.2 = none) ∧
    (regionsNamed sketchBench sketchIssue fd.ok).length = 1 := by
  unfold wholeBool at h
  split at h
  · cases h
  · next w hw =>
    obtain ⟨fd, hf, h⟩ := ok_of h
    simp only [Bool.and_eq_true, decide_eq_true_eq, List.all_eq_true, Option.isNone_iff_eq_none] at h
    exact ⟨w, fd, hw, clear_of hf h.1, h.2.1, h.2.2⟩

/-- SketchQueriesAndRegions: a query, a rank, and the operations on regions, the merge from the second region. -/
theorem test_met_SketchQueriesAndRegions :
    (Ready sketchBench sketchIssue none { lr := [0, 2, 3], lw := [2, 3] } sketchBench ∧
      (∃ fd, SketchClear sketchBench sketchIssue ⟨none, false, 2, 8, 0⟩ (skKind false true) (keySpans false) sketchIssue.lanes
        (fun d => !false || d.ty = 3) fd) ∧
      ∃ fd, SketchClear sketchBench sketchIssue ⟨none, false, 5, 9, 0⟩ (skKind false true) (keySpans false) sketchIssue.lanes
        (fun d => !true || d.ty = 3) fd) ∧
    Ready sketchBench sketchIssue none { lr := [0, 2, 3, 4], lw := [2, 3] } sketchBench ∧
    ∀ i ∈ [Instr.skmerge ⟨none, false, 2, 8, 0⟩, .skfold ⟨none, false, 2, 8, 0⟩, .skclear ⟨none, false, 2, 8, 0⟩,
      .skinfo ⟨none, false, 2, 8, 0⟩], wholeBool i = true := by
  refine ⟨⟨ready_of (by decide) rfl rfl, ?_, ?_⟩, ready_of (by decide) rfl rfl, by decide +kernel⟩
  · obtain ⟨fd, h, _⟩ := clear_ex (s := sketchBench) (x := sketchIssue) (f := ⟨none, false, 2, 8, 0⟩) (k := skKind false true)
      (spans := keySpans false) (lanes := sketchIssue.lanes) (admits := fun d => !false || d.ty = 3) (q := fun _ => true)
      (by decide +kernel)
    exact ⟨fd, h⟩
  · obtain ⟨fd, h, _⟩ := clear_ex (s := sketchBench) (x := sketchIssue) (f := ⟨none, false, 5, 9, 0⟩) (k := skKind false true)
      (spans := keySpans false) (lanes := sketchIssue.lanes) (admits := fun d => !true || d.ty = 3) (q := fun _ => true)
      (by decide +kernel)
    exact ⟨fd, h⟩

/-- Sketch instructions that answer complete on the bench: an access of theirs is under way for eight lanes. -/
theorem test_sketch_completes :
    [Instr.skqry ⟨none, false, 2, 8, 0⟩, .skfold ⟨none, false, 2, 8, 0⟩, .skclear ⟨none, false, 2, 8, 0⟩,
      .skinfo ⟨none, false, 2, 8, 0⟩].map (fun i => (loadedOf (exec i sketchBench)).map List.length) = [[8], [8], [8], [8]] := by
  decide +kernel

/-- The global memory after an instruction. -/
def memOf (o : Out) : List Host.Cell :=
  match o with
  | .next s => s.mem
  | _ => []

/-- Eight lanes that insert one key with weight 9 raise its cell to 72. -/
theorem test_skins : ((memOf (exec (.skins ⟨none, false, 5, 8, 0⟩) sketchBench)).filter fun e => 0x40000 ≤ e.1).map (·.2) = [72] := by
  decide +kernel

/-- A query of the key inserted before answers the weight, with status 0 for a frequency sketch. -/
theorem test_skqry : loadedOf (exec (.skqry ⟨none, false, 5, 8, 0⟩) { sketchBench with
      mem := memOf (exec (.skins ⟨none, false, 5, 8, 0⟩) sketchBench) }) = [(List.range 8).map fun L => (L, 72)] := by
  decide +kernel

/-- FrequencySketch, of the first region; a cell that saturates and one that does not. -/
theorem test_met_FrequencySketch : let d := skDesc sketchBench 0 0 0
    Memory.wf sketchBench.mem = true ∧ d.ty = 0 ∧ d.paramsOk = true ∧ (d.insert 0x40000 sketchBench.mem 5 255 0).2 = 0 ∧
    (d.insert 0x40000 sketchBench.mem 5 256 0).2 = 1 := by
  decide +kernel

end Sys2Proof.Machine
end

