-- ==== Sys2Proof/Tests/Slice0.lean ====
section
/-!
SUPPORT. Tests of the encoding: an ill-formed term for each check of well-formedness, words that decode to nothing, the
manual's example words, and one word of every instruction written out from the field tables of
04_formats_and_opcode_map.md.
-/
namespace Sys2Proof

set_option Elab.async false

/-! ## Well-formedness -/

/-- `N` = 1 with a destination, in each format that has the bit (R81). -/
theorem test_wf_n : [Instr.iadd ⟨none, true, 1, 0, 0⟩, .ineg ⟨none, true, 1, 0⟩, .sext ⟨none, true, 1, 0, 0⟩,
    .cvt ⟨none, true, 1, 0, 0, 0⟩, .ldw ⟨none, true, 1, 0, 0, 0, 0⟩, .atomAdd ⟨none, true, 1, 0, 0, 0, false⟩,
    .skins ⟨none, true, 1, 0, 0⟩, .rldw ⟨none, true, 1, 0, 0⟩].all (fun i => !i.wf) = true := by decide

/-- The zero halfword, and a position, a code or a condition past its range (R74, R87, R95). -/
theorem test_wf_fields : [Instr.iadd16 ⟨false, 0, 0⟩, .sext ⟨none, false, 1, 0, 2⟩, .zext ⟨none, false, 1, 0, 2⟩,
    .pkb ⟨none, false, 1, 0, 4⟩, .pkh ⟨none, false, 1, 0, 2⟩, .pkn ⟨none, false, 1, 0, 8⟩, .upn ⟨none, false, 1, 0, 8⟩,
    .qbc ⟨none, false, 1, 0, 4⟩, .cvt ⟨none, false, 1, 0, 15, 0⟩, .cvts ⟨none, false, 1, 0, 0, 15⟩,
    .brc ⟨none, 0, 6, 0⟩, .brc ⟨none, 0, 7, 0⟩].all (fun i => !i.wf) = true := by decide

/-- Orders a load, a store or an atomic may not have, returning stores, and `C` where there is none (R84, R85). -/
theorem test_wf_memory : [Instr.ldw ⟨none, false, 1, 0, 0, 0, 2⟩, .ldw ⟨none, false, 1, 0, 0, 0, 4⟩,
    .stw ⟨none, false, 1, 0, 0, 0, 1⟩, .stw ⟨none, true, 0, 0, 0, 0, 0⟩, .rstw ⟨none, true, 0, 0, 0⟩,
    .atomAdd ⟨none, false, 1, 0, 0, 3, false⟩, .atomAnd ⟨none, false, 1, 0, 0, 0, true⟩,
    .atomXor ⟨none, false, 1, 0, 0, 0, true⟩, .atomXchg ⟨none, false, 1, 0, 0, 0, true⟩,
    .atomCas ⟨none, false, 1, 0, 0, 0, true⟩, .atomIncw ⟨none, false, 1, 0, 0, 0, true⟩].all (fun i => !i.wf) = true := by
  decide

/-! ## Words -/

/-- Words that are no instruction: zero, `N` with `D`, a source code 15, `ORD` 2 of a load, `C` of an xor, conditions 6 and 7. -/
theorem test_decode_rejects : (decodeTableWord 16 0).isNone = true ∧
    [0x05040701, 0x8F040689, 0x402602B1, 0xA06108D1, 0x000600E1, 0x000700E1].map (decodeTableWord 32) =
      [none, none, none, none, none, none] := by decide

/-- An add at a safe point: `S` = 1 and its liveness word (R89). -/
theorem test_decode_safe_point : decodeTableWord 64 0x00023FFD05040603 = some (.iadd ⟨some 0x00023FFD, false, 3, 4, 5⟩) := by
  decide

/-- The manual's example words: regs and constants. -/
theorem test_words_regs_and_constants :
    [0x001845FD, 0x000086FD, 0x0200E7FD, 0xFDF868FD, 0xAA1069FD, 0x022087FD, 0x02108FFD, 0x063950FD, 0x0040D1FD, 0x0410D2FD, 0x005103E9, 0xFC00C3ED].map
      (decodeTableWord 32) =
    [ some (.rfree ⟨none, 2, 3⟩),
      some (.csrr ⟨none, 4, 0, 0⟩),
      some (.csrw ⟨none, 7, 0, 1⟩),
      some (.sldi ⟨none, 3, 63, 126⟩),
      some (.sldhi ⟨none, 3, 2, 0x55⟩),
      some (.csrw ⟨none, 4, 4, 1⟩),
      some (.aadd ⟨none, 4, 2, 1⟩),
      some (.aset ⟨none, 10, 7, 3⟩),
      some (.amov ⟨none, 6, 8⟩),
      some (.aget ⟨none, 6, 2, 2⟩),
      some (.sadd ⟨none, 3, 4, 5⟩),
      some (.saddi ⟨none, 3, 3, 0xFC0⟩)] := by
  decide

/-- The manual's example words: lane. -/
theorem test_words_lane :
    [0x05040601, 0x9409105D, 0x01020681, 0x8504068D, 0xC5040A89, 0x24060695, 0x02090AA1, 0x23060699, 0x0301109D].map
      (decodeTableWord 32) =
    [ some (.iadd ⟨none, false, 3, 4, 5⟩),
      some (.ffma ⟨none, false, 8, 9, 0x94⟩),
      some (.iabs ⟨none, false, 3, 2⟩),
      some (.cvts ⟨none, false, 3, 4, 5, 8⟩),
      some (.cvt ⟨none, false, 5, 4, 5, 12⟩),
      some (.upbs ⟨none, false, 3, 6, 2⟩),
      some (.setleu ⟨none, false, 5, 9⟩),
      some (.qbc ⟨none, false, 3, 6, 2⟩),
      some (.shflx ⟨none, false, 8, 1⟩)] := by
  decide

/-- The manual's example words: control. -/
theorem test_words_control :
    [0x000050E5, 0x000051E5, 0x0005E1FD, 0x0200A1FD, 0x002040FD, 0x002860FD, 0x0A0003FD, 0x0400AAFD, 0x0031EBFD, 0x00316CFD, 0x00490DFD, 0x02200EFD].map
      (decodeTableWord 32) =
    [ some (.jmp ⟨none, 40⟩),
      some (.call ⟨none, 40⟩),
      some (.jmpi ⟨none, 47⟩),
      some (.jmpiLink ⟨none, 5⟩),
      some (.fence ⟨none, 2, 4⟩),
      some (.fence ⟨none, 3, 5⟩),
      some (.trap ⟨none, 5⟩),
      some (.rfeReg ⟨none, 5⟩),
      some (.ctxsave ⟨none, 15, 6⟩),
      some (.ctxload ⟨none, 11, 6⟩),
      some (.dusk ⟨none, 8, 9, false⟩),
      some (.walkRun ⟨none, 4⟩)] := by
  decide

/-- The manual's example words: memory. -/
theorem test_words_memory :
    [0x002602B1, 0x38720AB9, 0x489406C1, 0x50C004E9, 0x5C20C7E9, 0x806108D1, 0x50320CD5, 0x586108D9, 0x004108F1, 0x0C520CF1, 0x241118F1].map
      (decodeTableWord 32) =
    [ some (.ldb ⟨none, false, 1, 6, 2, 0, 0⟩),
      some (.ldw ⟨none, false, 5, 2, 7, 3, 1⟩),
      some (.stb ⟨none, false, 3, 4, 9, 1, 2⟩),
      some (.sld ⟨none, 4, 0, 12⟩),
      some (.sstd ⟨none, 7, 3, 2⟩),
      some (.atomAdd ⟨none, false, 4, 1, 6, 0, true⟩),
      some (.atomCas ⟨none, false, 6, 2, 3, 1, false⟩),
      some (.atomAddf ⟨none, false, 4, 1, 6, 2, false⟩),
      some (.rldw ⟨none, false, 4, 1, 4⟩),
      some (.rstd ⟨none, false, 6, 2, 5⟩),
      some (.rredf ⟨none, false, 12, 1, 1⟩)] := by
  decide

/-- The manual's example words: units. -/
theorem test_words_units :
    [0x0C2847F9, 0x8C2847F9, 0x021088F9, 0x0000A0F9, 0x000061F9, 0x000062F9, 0x00A0A3F9, 0x0030A5F9, 0x001112F9, 0x041A93F9, 0x002074F9, 0x12310CF9, 0x92310CF9, 0x003949F9, 0xB63A2BF9, 0x363A30F9, 0x000011F9].map
      (decodeTableWord 32) =
    [ some (.emit ⟨none, 2, 5, 6⟩),
      some (.emitTry ⟨none, 2, 5, 6⟩),
      some (.qctlEnable ⟨none, 4, 2⟩),
      some (.touch ⟨none, 5⟩),
      some (.close ⟨none, 3⟩),
      some (.waitb ⟨none, 3⟩),
      some (.bind ⟨none, 5, 20⟩),
      some (.seal ⟨none, 5, 6⟩),
      some (.cgload ⟨none, 8, 2⟩),
      some (.cgrun ⟨none, 20, 3, 2⟩),
      some (.cgwait ⟨none, 3, 4⟩),
      some (.barinit ⟨none, 8, 6, 9⟩),
      some (.barinitTeam ⟨none, 8, 6, 9⟩),
      some (.cinit ⟨none, 10, 7, 0⟩),
      some (.cwaitPoll ⟨none, 17, 7, 27⟩),
      some (.synkill ⟨none, 17, 7, 27⟩),
      some (.trig ⟨none⟩)] := by
  decide

/-- The manual's example words: matrix. -/
theorem test_words_matrix :
    [0x000140F5, 0x000041F5, 0x020041F5, 0x001982F5, 0x0021A3F5, 0x002885F5, 0x0031C6F5, 0x000168F5, 0x000004F5, 0x000007F5].map
      (decodeTableWord 32) =
    [ some (.gang ⟨none, 10⟩),
      some (.mreq ⟨none, 2⟩),
      some (.mreqTry ⟨none, 2⟩),
      some (.mwl ⟨none, 12, 3⟩),
      some (.mpass ⟨none, 13, 4⟩),
      some (.mwait ⟨none, 4, 5⟩),
      some (.mdrain ⟨none, 14, 6⟩),
      some (.mscale ⟨none, 11⟩),
      some (.mrdy ⟨none⟩),
      some (.mrel ⟨none⟩)] := by
  decide

/-! ## One word of every instruction -/

theorem test_decode_short :
    [
    0x7D00, 0xF702, 0x7E84, 0xC226, 0x4328, 0xB34A, 0x264C, 0xC40E, 0x0AF0, 0xE972, 0x6134, 0xFC76, 0x4F98, 0x859A,
    0x2C1C, 0x93BE].map (decodeTableWord 16) =
    [ some (.iadd16 ⟨false, 31, 8⟩),
      some (.isub16 ⟨true, 29, 24⟩),
      some (.and16 ⟨false, 31, 20⟩),
      some (.or16 ⟨true, 16, 17⟩),
      some (.xor16 ⟨false, 16, 25⟩),
      some (.shl16 ⟨true, 12, 26⟩),
      some (.shrl16 ⟨false, 9, 18⟩),
      some (.shra16 ⟨true, 17, 0⟩),
      some (.mov ⟨false, 2, 23⟩),
      some (.fadd16 ⟨true, 26, 11⟩),
      some (.fmul16 ⟨false, 24, 9⟩),
      some (.fmin16 ⟨true, 31, 3⟩),
      some (.fmax16 ⟨false, 19, 28⟩),
      some (.hadd216 ⟨true, 1, 12⟩),
      some (.hmul216 ⟨false, 11, 0⟩),
      some (.imax16 ⟨true, 4, 29⟩)] := by
  decide

theorem test_decode_laneTwo_1 :
    [
    0x6DDC0A01, 0x4FBBAC05, 0x40371C09, 0xC065A80D, 0xFC570611, 0xD9487E15, 0x41B8FA19, 0x92F4BE1D, 0x4AD16021,
    0xA8596025, 0xCF9AD829, 0x6372922D, 0x31A0A231, 0x1BD74435, 0xF46BF439, 0x74C9703D, 0x28E3BE41, 0x05FC2645,
    0xAD6C8249, 0x6E20D64D, 0xA63DC851, 0x7CA5C855, 0x1B763059, 0xD7AE6A5D].map (decodeTableWord 32) =
    [ some (.iadd ⟨none, false, 5, 220, 109⟩),
      some (.isub ⟨none, false, 86, 187, 79⟩),
      some (.imul ⟨none, false, 14, 55, 64⟩),
      some (.imulh ⟨none, false, 84, 101, 192⟩),
      some (.imulhu ⟨none, false, 3, 87, 252⟩),
      some (.imad ⟨none, false, 63, 72, 217⟩),
      some (.imin ⟨none, false, 125, 184, 65⟩),
      some (.imax ⟨none, false, 95, 244, 146⟩),
      some (.umin ⟨none, false, 48, 209, 74⟩),
      some (.umax ⟨none, false, 48, 89, 168⟩),
      some (.and ⟨none, false, 108, 154, 207⟩),
      some (.or ⟨none, false, 73, 114, 99⟩),
      some (.xor ⟨none, false, 81, 160, 49⟩),
      some (.andn ⟨none, false, 34, 215, 27⟩),
      some (.shl ⟨none, false, 122, 107, 244⟩),
      some (.shrl ⟨none, false, 56, 201, 116⟩),
      some (.shra ⟨none, false, 95, 227, 40⟩),
      some (.seteq ⟨none, false, 19, 252, 5⟩),
      some (.setlt ⟨none, false, 65, 108, 173⟩),
      some (.sel ⟨none, false, 107, 32, 110⟩),
      some (.fadd ⟨none, false, 100, 61, 166⟩),
      some (.fsub ⟨none, false, 100, 165, 124⟩),
      some (.fmul ⟨none, false, 24, 118, 27⟩),
      some (.ffma ⟨none, false, 53, 174, 215⟩)] := by
  decide

theorem test_decode_laneTwo_2 :
    [
    0x85747A61, 0xB763FC65, 0xA8DFAC69, 0x189D186D, 0x54BFD671, 0x71908E75, 0xF9102A79, 0x3A4C0E7D].map (decodeTableWord 32) =
    [ some (.fmin ⟨none, false, 61, 116, 133⟩),
      some (.fmax ⟨none, false, 126, 99, 183⟩),
      some (.fseteq ⟨none, false, 86, 223, 168⟩),
      some (.fsetlt ⟨none, false, 12, 157, 24⟩),
      some (.fsetle ⟨none, false, 107, 191, 84⟩),
      some (.hadd2 ⟨none, false, 71, 144, 113⟩),
      some (.hmul2 ⟨none, false, 21, 16, 249⟩),
      some (.hfma2 ⟨none, false, 7, 76, 58⟩)] := by
  decide

theorem test_decode_laneOne_1 :
    [
    0x00693081, 0x01F11081, 0x02C28881, 0x031AC281, 0x04D81281, 0x05BF9481, 0x16330481, 0x1761A081, 0x084B0E81,
    0x00447685, 0x01C4F285, 0x02F8A685, 0x03D59885, 0x045D7885, 0x059EE085, 0x06769A85, 0x07ACAA85, 0x08CB4C85,
    0x0967FC85, 0x0A354885, 0x0BE7A685, 0x0CF8DE85, 0x4A689A89, 0x5B24DE8D].map (decodeTableWord 32) =
    [ some (.ineg ⟨none, false, 24, 105⟩),
      some (.iabs ⟨none, false, 8, 241⟩),
      some (.popc ⟨none, false, 68, 194⟩),
      some (.clz ⟨none, false, 97, 26⟩),
      some (.ctz ⟨none, false, 9, 216⟩),
      some (.brev ⟨none, false, 74, 191⟩),
      some (.sext ⟨none, false, 2, 51, 1⟩),
      some (.zext ⟨none, false, 80, 97, 1⟩),
      some (.not ⟨none, false, 7, 75⟩),
      some (.fneg ⟨none, false, 59, 68⟩),
      some (.fabs ⟨none, false, 121, 196⟩),
      some (.fsqrt ⟨none, false, 83, 248⟩),
      some (.frsq ⟨none, false, 76, 213⟩),
      some (.frcp ⟨none, false, 60, 93⟩),
      some (.fexp2 ⟨none, false, 112, 158⟩),
      some (.flog2 ⟨none, false, 77, 118⟩),
      some (.fsin ⟨none, false, 85, 172⟩),
      some (.fcos ⟨none, false, 38, 203⟩),
      some (.ffloor ⟨none, false, 126, 103⟩),
      some (.fceil ⟨none, false, 36, 53⟩),
      some (.ftrunc ⟨none, false, 83, 231⟩),
      some (.frint ⟨none, false, 111, 248⟩),
      some (.cvt ⟨none, false, 77, 104, 10, 4⟩),
      some (.cvts ⟨none, false, 111, 36, 11, 5⟩)] := by
  decide

theorem test_decode_laneOne_2 :
    [
    0x6C01C091, 0x30A9C095, 0x116A3895, 0x72A27295, 0x33704295, 0x3467E495, 0x15DB5495, 0x16991095, 0x77B3DE95,
    0x78AC8695, 0x001C2299, 0x01507699, 0x026D2899, 0x33F52899, 0x04C69099, 0x051ECA99, 0x06C41A99, 0x00B39C9D,
    0x010F0C9D, 0x026DB89D, 0x034F769D, 0x04406E9D, 0x05C0CA9D, 0x06FCAE9D].map (decodeTableWord 32) =
    [ some (.cvtsr ⟨none, false, 96, 1, 12, 6⟩),
      some (.pkb ⟨none, false, 96, 169, 3⟩),
      some (.pkh ⟨none, false, 28, 106, 1⟩),
      some (.pkn ⟨none, false, 57, 162, 7⟩),
      some (.upb ⟨none, false, 33, 112, 3⟩),
      some (.upbs ⟨none, false, 114, 103, 3⟩),
      some (.uph ⟨none, false, 42, 219, 1⟩),
      some (.uphs ⟨none, false, 8, 153, 1⟩),
      some (.upn ⟨none, false, 111, 179, 7⟩),
      some (.upns ⟨none, false, 67, 172, 7⟩),
      some (.qswx ⟨none, false, 17, 28⟩),
      some (.qswy ⟨none, false, 59, 80⟩),
      some (.qswd ⟨none, false, 20, 109⟩),
      some (.qbc ⟨none, false, 20, 245, 3⟩),
      some (.qaddf ⟨none, false, 72, 198⟩),
      some (.qaddi ⟨none, false, 101, 30⟩),
      some (.qmaxf ⟨none, false, 13, 196⟩),
      some (.shfl ⟨none, false, 78, 179⟩),
      some (.shflup ⟨none, false, 6, 15⟩),
      some (.shfldn ⟨none, false, 92, 109⟩),
      some (.shflx ⟨none, false, 59, 79⟩),
      some (.vany ⟨none, false, 55, 64⟩),
      some (.vall ⟨none, false, 101, 192⟩),
      some (.ballot ⟨none, false, 87, 252⟩)] := by
  decide

theorem test_decode_laneOne_3 :
    [
    0x07D9909D, 0x0841709D, 0x0992E89D, 0x004AA2A1, 0x01A8B2A1, 0x02CF34A1, 0x0363E4A1, 0x043140A1, 0x051BAEA1,
    0x06F4D6A1].map (decodeTableWord 32) =
    [ some (.gaddi ⟨none, false, 72, 217⟩),
      some (.gaddf ⟨none, false, 56, 65⟩),
      some (.gmaxf ⟨none, false, 116, 146⟩),
      some (.setltu ⟨none, false, 81, 74⟩),
      some (.setle ⟨none, false, 89, 168⟩),
      some (.setleu ⟨none, false, 26, 207⟩),
      some (.setne ⟨none, false, 114, 99⟩),
      some (.fsetne ⟨none, false, 32, 49⟩),
      some (.fsetun ⟨none, false, 87, 27⟩),
      some (.fclass ⟨none, false, 107, 244⟩)] := by
  decide

theorem test_decode_laneMemory_1 :
    [
    0x395492B1, 0xD668C6B5, 0x23E5F8B9, 0x2E4DD8BD, 0x593E40C1, 0xD2F67AC5, 0x40DC4AC9, 0x4AFBECCD, 0x02075CD1,
    0x0A05E8D5, 0x15C7C6D9, 0x1F98BED1, 0x26183AD5, 0x2B247ED9, 0x36A120D1, 0x3C8920D5, 0x42FA98D9, 0x4832D2D1,
    0x5510E2D5, 0xDFB784D9, 0x654B34D1, 0x6D49B0D5, 0x70837ED9, 0x7A5C66D1].map (decodeTableWord 32) =
    [ some (.ldb ⟨none, false, 73, 4, 21, 3, 1⟩),
      some (.ldh ⟨none, false, 99, 8, 102, 2, 6⟩),
      some (.ldw ⟨none, false, 124, 5, 62, 0, 1⟩),
      some (.ldd ⟨none, false, 108, 13, 100, 1, 1⟩),
      some (.stb ⟨none, false, 32, 14, 19, 3, 2⟩),
      some (.sth ⟨none, false, 61, 6, 47, 2, 6⟩),
      some (.stw ⟨none, false, 37, 12, 13, 0, 2⟩),
      some (.std ⟨none, false, 118, 11, 47, 1, 2⟩),
      some (.atomAdd ⟨none, false, 46, 7, 32, 0, false⟩),
      some (.atomAddd ⟨none, false, 116, 5, 32, 1, false⟩),
      some (.atomAnd ⟨none, false, 99, 7, 92, 2, false⟩),
      some (.atomOr ⟨none, false, 95, 8, 121, 0, false⟩),
      some (.atomXor ⟨none, false, 29, 8, 97, 1, false⟩),
      some (.atomMin ⟨none, false, 63, 4, 50, 2, false⟩),
      some (.atomMax ⟨none, false, 16, 1, 106, 0, false⟩),
      some (.atomUmin ⟨none, false, 16, 9, 72, 1, false⟩),
      some (.atomUmax ⟨none, false, 76, 10, 47, 2, false⟩),
      some (.atomXchg ⟨none, false, 105, 2, 3, 0, false⟩),
      some (.atomCas ⟨none, false, 113, 0, 81, 1, false⟩),
      some (.atomAddf ⟨none, false, 66, 7, 123, 2, true⟩),
      some (.atomAdd2h ⟨none, false, 26, 11, 84, 0, false⟩),
      some (.atomMaxf ⟨none, false, 88, 9, 84, 1, false⟩),
      some (.atomMinf ⟨none, false, 63, 3, 8, 2, false⟩),
      some (.atomIncw ⟨none, false, 51, 12, 37, 0, false⟩)] := by
  decide

theorem test_decode_laneMemory_2 :
    [
    0x04DCC2DD, 0x08E096DD, 0x146D88DD, 0x19C588DD, 0x27B6F0DD, 0x2F7EAADD, 0x3254BADD, 0x39733CDD, 0x0318DAF1,
    0x04249EF1, 0x09A180F1, 0x0D8980F1, 0x13FAF8F1, 0x1732B2F1, 0x1A1082F1, 0x1CB724F1, 0x204B94F1, 0x244950F1,
    0x2B839EF1].map (decodeTableWord 32) =
    [ some (.skins ⟨none, false, 97, 12, 77⟩),
      some (.skdel ⟨none, false, 75, 0, 14⟩),
      some (.skqry ⟨none, false, 68, 13, 70⟩),
      some (.skrank ⟨none, false, 68, 5, 28⟩),
      some (.skmerge ⟨none, false, 120, 6, 123⟩),
      some (.skfold ⟨none, false, 85, 14, 119⟩),
      some (.skclear ⟨none, false, 93, 4, 37⟩),
      some (.skinfo ⟨none, false, 30, 3, 23⟩),
      some (.rldw ⟨none, false, 109, 8, 49⟩),
      some (.rldd ⟨none, false, 79, 4, 2⟩),
      some (.rstw ⟨none, false, 64, 1, 26⟩),
      some (.rstd ⟨none, false, 64, 9, 24⟩),
      some (.raddi ⟨none, false, 124, 10, 63⟩),
      some (.raddf ⟨none, false, 89, 2, 51⟩),
      some (.rmaxf ⟨none, false, 65, 0, 33⟩),
      some (.rcas ⟨none, false, 18, 7, 11⟩),
      some (.rxchg ⟨none, false, 74, 11, 4⟩),
      some (.rredf ⟨none, false, 40, 9, 4⟩),
      some (.rredh ⟨none, false, 79, 3, 56⟩)] := by
  decide

theorem test_decode_branch :
    [
    0x23F8CDE1, 0x002AAAE5, 0x00114DE5].map (decodeTableWord 32) =
    [ some (.brc ⟨none, 205, 0, 1151⟩),
      some (.jmp ⟨none, 5461⟩),
      some (.call ⟨none, 2214⟩)] := by
  decide

theorem test_decode_scalar_1 :
    [
    0x0309FEE9, 0x070D64E9, 0x0AC9D3E9, 0x0C9E2FE9, 0x111A0DE9, 0x16292FE9, 0x1BA060E9, 0x1F8A60E9, 0x21FA9CE9,
    0x2538B9E9, 0x281C21E9, 0x2EB9F2E9, 0x3246EAE9, 0x364648E9, 0x398CEFE9, 0x3F5B03E9, 0x43D711E9, 0x47E43BE9,
    0x496B54E9, 0x4C0D54E9, 0x52B188E9, 0x5473A5E9, 0x59510DE9, 0x5C70CEE9].map (decodeTableWord 32) =
    [ some (.sadd ⟨none, 62, 39, 48⟩),
      some (.ssub ⟨none, 36, 53, 48⟩),
      some (.smul ⟨none, 19, 39, 44⟩),
      some (.smulh ⟨none, 47, 56, 9⟩),
      some (.sand ⟨none, 13, 40, 17⟩),
      some (.sor ⟨none, 47, 36, 34⟩),
      some (.sxor ⟨none, 32, 1, 58⟩),
      some (.sandn ⟨none, 32, 41, 56⟩),
      some (.sshl ⟨none, 28, 42, 31⟩),
      some (.sshrl ⟨none, 57, 34, 19⟩),
      some (.sshra ⟨none, 33, 48, 1⟩),
      some (.smin ⟨none, 50, 39, 43⟩),
      some (.smax ⟨none, 42, 27, 36⟩),
      some (.sumin ⟨none, 8, 25, 36⟩),
      some (.sumax ⟨none, 47, 51, 24⟩),
      some (.sseteq ⟨none, 3, 44, 53⟩),
      some (.ssetlt ⟨none, 17, 28, 61⟩),
      some (.ssetltu ⟨none, 59, 16, 62⟩),
      some (.ssel ⟨none, 20, 45, 22⟩),
      some (.smov ⟨none, 20, 53⟩),
      some (.sld ⟨none, 8, 6, 43⟩),
      some (.sldd ⟨none, 37, 14, 7⟩),
      some (.sst ⟨none, 13, 4, 21⟩),
      some (.sstd ⟨none, 14, 3, 7⟩)] := by
  decide

theorem test_decode_scalar_2 :
    [
    0xC583C6ED].map (decodeTableWord 32) =
    [ some (.saddi ⟨none, 6, 15, 3160⟩)] := by
  decide

theorem test_decode_matrix :
    [
    0x000640F5, 0x000401F5, 0x0202E1F5, 0x01A562F5, 0x01A123F5, 0x000004F5, 0x002F85F5, 0x016D86F5, 0x000007F5,
    0x0007A8F5].map (decodeTableWord 32) =
    [ some (.gang ⟨none, 50⟩),
      some (.mreq ⟨none, 32⟩),
      some (.mreqTry ⟨none, 23⟩),
      some (.mwl ⟨none, 43, 52⟩),
      some (.mpass ⟨none, 9, 52⟩),
      some (.mrdy ⟨none⟩),
      some (.mwait ⟨none, 60, 5⟩),
      some (.mdrain ⟨none, 44, 45⟩),
      some (.mrel ⟨none⟩),
      some (.mscale ⟨none, 61⟩)] := by
  decide

theorem test_decode_engine_1 :
    [
    0x0004A0F9, 0x0006C1F9, 0x0005C2F9, 0x002E83F9, 0x000464F9, 0x0143E5F9, 0x0003A6F9, 0x64A7E7F9, 0xD58A07F9,
    0x01CA08F9, 0x03D188F9, 0x049528F9, 0x060628F9, 0x09B848F9, 0x0A5B48F9, 0x0D4B08F9, 0x101FE9F9, 0x4A666AF9,
    0x9A642AF9, 0x1C016BF9, 0x8C688BF9, 0x38288CF9, 0xF6370CF9, 0x6E72ADF9].map (decodeTableWord 32) =
    [ some (.touch ⟨none, 37⟩),
      some (.close ⟨none, 54⟩),
      some (.waitb ⟨none, 46⟩),
      some (.bind ⟨none, 52, 5⟩),
      some (.unbind ⟨none, 35⟩),
      some (.seal ⟨none, 31, 40⟩),
      some (.unseal ⟨none, 29⟩),
      some (.emit ⟨none, 63, 20, 50⟩),
      some (.emitTry ⟨none, 16, 49, 42⟩),
      some (.qctlStat ⟨none, 16, 57⟩),
      some (.qctlEnable ⟨none, 12, 58⟩),
      some (.qctlDisable ⟨none, 41, 18⟩),
      some (.qctlInit ⟨none, 49, 0⟩),
      some (.qctlPeriod ⟨none, 2, 55⟩),
      some (.qctlSupervisor ⟨none, 26, 11⟩),
      some (.qctlClear ⟨none, 24, 41⟩),
      some (.cinit ⟨none, 63, 3, 8⟩),
      some (.cinc ⟨none, 51, 12, 37⟩),
      some (.cincRemote ⟨none, 33, 12, 13⟩),
      some (.cwait ⟨none, 11, 0, 14⟩),
      some (.cwaitPoll ⟨none, 4, 13, 6⟩),
      some (.barinit ⟨none, 4, 5, 28⟩),
      some (.barinitTeam ⟨none, 56, 6, 59⟩),
      some (.bararr ⟨none, 21, 14, 55⟩)] := by
  decide

theorem test_decode_engine_2 :
    [
    0x4A23AEF9, 0x2E1BCFF9, 0x107ED0F9, 0x000011F9, 0x00F972F9, 0x2384F3F9, 0x0186B4F9].map (decodeTableWord 32) =
    [ some (.barwait ⟨none, 29, 4, 37⟩),
      some (.bartest ⟨none, 30, 3, 23⟩),
      some (.synkill ⟨none, 54, 15, 8⟩),
      some (.trig ⟨none⟩),
      some (.cgload ⟨none, 11, 31⟩),
      some (.cgrun ⟨none, 39, 48, 17⟩),
      some (.cgwait ⟨none, 53, 48⟩)] := by
  decide

theorem test_decode_system :
    [
    0x016060FD, 0x000701FD, 0x020501FD, 0x000002FD, 0x020003FD, 0x000004FD, 0x00FD45FD, 0x789C46FD, 0x580E07FD,
    0xC15CE8FD, 0xFB2369FD, 0x00000AFD, 0x02000AFD, 0x04058AFD, 0x00698BFD, 0x00700CFD, 0x02B5ADFD, 0x0006AEFD,
    0x02300EFD, 0xA03BCFFD, 0x202890FD, 0x003871FD, 0x0241F2FD].map (decodeTableWord 32) =
    [ some (.fence ⟨none, 3, 44⟩),
      some (.jmpi ⟨none, 56⟩),
      some (.jmpiLink ⟨none, 40⟩),
      some (.exit ⟨none⟩),
      some (.trap ⟨none, 1⟩),
      some (.yield ⟨none⟩),
      some (.rfree ⟨none, 42, 31⟩),
      some (.csrr ⟨none, 34, 19, 60⟩),
      some (.csrw ⟨none, 48, 1, 44⟩),
      some (.sldi ⟨none, 39, 43, 96⟩),
      some (.sldhi ⟨none, 27, 36, 125⟩),
      some (.rfeRetry ⟨none⟩),
      some (.rfeSkip ⟨none⟩),
      some (.rfeReg ⟨none, 44⟩),
      some (.ctxsave ⟨none, 12, 13⟩),
      some (.ctxload ⟨none, 0, 14⟩),
      some (.dusk ⟨none, 45, 22, true⟩),
      some (.walkCfg ⟨none, 53⟩),
      some (.walkRun ⟨none, 6⟩),
      some (.aadd ⟨none, 30, 7, 80⟩),
      some (.aset ⟨none, 4, 5, 16⟩),
      some (.amov ⟨none, 3, 7⟩),
      some (.aget ⟨none, 15, 8, 1⟩)] := by
  decide

/-! ## The first step after reset -/

/-- The boot group fetches and issues the add of each lane's number to itself that is placed for it. -/
theorem test_first_step : (match Machine.step (Machine.State.reset.withFetchWord 32 0x78780601) with
    | .next s => s.groups.map fun g =>
      (Machine.laneReg (Machine.bootTeam Machine.State.reset) g 3 5, g.arch.splits.map fun p => p.pc)
    | _ => []) = [(10, [0x20004])] := by
  decide

end Sys2Proof
end

