-- ==== Sys2Proof/Tests/System.lean ====
section
/-!
SUPPORT. States that meet the hypotheses of the statements about special registers, contexts, `dusk` and the walker, and what a
few of these instructions leave there.
-/
namespace Sys2Proof.Machine

set_option Elab.async false

/-! ## Special registers -/

/-- A group with a value for each kind of register in its scalar registers. -/
def csrGroup : Group := withScalars [0xFFFF, 0x30001, 2]

/-- The bench at a privilege level. -/
def csrBench (pl : Nat) : State := benchOf csrGroup { benchTeam with pl := pl }
/-- What an instruction sees there. -/
def csrIssue (pl : Nat) : Issue := issueOf csrGroup { benchTeam with pl := pl } benchSplit

/-- SpecialRegisters: an unassigned number; PRIV below a level; a hypervisor register below it; reads and writes at the level, of the
group's registers, of counts and of the registers of the selected virtual function. -/
theorem test_met_SpecialRegisters :
    (Ready (csrBench 0) (csrIssue 0) none { sw := [9] } (csrBench 0) ∧ Ready (csrBench 0) (csrIssue 0) none { sr := [0] } (csrBench 0) ∧
      NoSafePoint (csrIssue 0) none ∧ csrAccess 4 = none ∧ csrAccess 0x1FFF = none ∧
      csrAccess 0x430 = some (2, false) ∧ csrAccess 0x660 = some (1, false) ∧ (csrIssue 0).t.pl < 1 ∧
      csrAccess 0x218 = some (2, true) ∧ csrAccess 0x6A3 = some (2, true) ∧ csrAccess 0 = some (0, false) ∧ csrAccess 1 = some (0, false)) ∧
    (Ready (csrBench 3) (csrIssue 3) none { sw := [9] } (csrBench 3) ∧ Ready (csrBench 3) (csrIssue 3) none { sr := [1] } (csrBench 3) ∧
      2 ≤ (csrIssue 3).t.pl ∧ (csrBench 3).inFabric (csrIssue 3).m = true ∧
      ([0x000, 0x102, 0x200, 0x211, 0x217, 0x231, 0x445, 0x600, 0x620, 0x660, 0x6A3].all fun n =>
        (csrValue (csrBench 3) (csrIssue 3) n).isSome && (csrAccess n).any fun p => decide (p.1 ≤ 3)) = true ∧
      ([0x211, 0x217, 0x218, 0x220, 0x221, 0x231, 0x232, 0x233].all fun n =>
        (vfWritten n 0x30001 true ((csrBench 3).vf 0 0)).isSome && (csrAccess n).any fun p => decide (p.1 ≤ 3)) = true) :=
  ⟨⟨ready_of (by decide) rfl rfl, ready_of (by decide) rfl rfl, .inl rfl, by decide, by decide, by decide, by decide, by decide, by decide,
      by decide, by decide, by decide⟩,
    ready_of (by decide) rfl rfl, ready_of (by decide) rfl rfl, by decide, by decide, by decide +kernel, by decide +kernel⟩

/-- FPCR of the first group after an instruction. -/
def fpcrAfter (o : Out) : Option (BitVec 32) :=
  match o with
  | .next s => (s.groups.head?).map fun g => g.arch.fpcr
  | _ => none

/-- A write of FPCR keeps its reserved fields at zero and takes no reserved scope. -/
theorem test_csrw_fpcr : fpcrAfter (exec (.csrw ⟨none, 0, 0, 0⟩) (csrBench 0)) =
    some (0x7F07 + (benchGroup.arch.fpcr &&& 0x38)) := by decide +kernel

/-! ## Contexts -/

/-- A group that has one block. -/
def ctxGroup : Group := withBlocks [flatBlock fun i => BitVec.ofNat 32 (i + 1)] csrGroup

/-- The bench, its S region full, holding an image of eight lanes with block 0 allocated. -/
def ctxBench : State :=
  { benchOf ctxGroup benchTeam with
    lines := (List.range 40).map fun i => (384 + i, .full)
    lmem := memWriteLE (memWriteLE [] (49152 + 40) 16 (1 + 8 * 2 ^ 64)) (49152 + 1024) 4 9 }

/-- What an instruction sees there. -/
def ctxIssue : Issue := issueOf ctxGroup benchTeam benchSplit

/-- The bench holding an image of a group of `w` lanes at 0, whose first eight lines the L1 of its core holds or not. -/
def ctxGlobalBench (w : Nat) (held : Bool) : State :=
  { benchOf ctxGroup benchTeam with
    mem := memWriteLE bench.mem 48 1 w
    l1 := if held then (List.range 8).map fun i => ⟨0, i, 0, .owned 0⟩ else [] }

/-- A context load of an image of `w` lanes whose replies are all back. -/
def backGroup (w : Nat) : Group :=
  { ctxGroup with
    txns := [⟨7, 0xFF, .lanes 0 0, true, [(6, BitVec.ofNat 64 w)], 0, [], none⟩]
    arch := { ctxGroup.arch with splits := [{ benchSplit with passTxn := some 7 }] } }

/-- What the load sees then. -/
def backIssue (w : Nat) : Issue := issueOf (backGroup w) benchTeam { benchSplit with passTxn := some 7 }

/-- Does an image start with what memory holds at the doublewords of a load? -/
def imageBool (s : State) (img : Nat) (fd : Found) : Bool :=
  fd.ok.all fun l => l.pieces.all fun p => globBool p fun ga _ =>
    p.off == 0 && img / 2 ^ (64 * l.op.lane) % 2 ^ 64 == memReadLE s.mem ga 8

/-- ContextSaveLoad, from and to global memory: a save of the first part, a load that asks, one whose replies are back and one that
finds every line in the L1, of an image of the group's width and of another. -/
theorem test_met_ContextGlobal : let x := ctxIssue
    let a := addrReg x.g 6
    let n := ctxSize x.g.width 1
    (let s := ctxGlobalBench 8 false
     Ready s x none {} s ∧ NoSafePoint x none ∧ x.sp.passTxn = none ∧ a.wr = true ∧ a.rd = true ∧ a.rgn = 0 ∧ a.ptr.toNat % 128 = 0 ∧
      a.base.toNat ≤ a.ptr.toNat ∧ a.ptr.toNat + n ≤ a.limit.toNat ∧ Memory.wf s.mem = true ∧
      GoesGlobal s x (plainLane x) a ctxStoreKind ((ctxImage x.g 1).map fun w => ⟨0, a.ptr.toNat + w.1, w.2, 0⟩) (fun _ => true) ∧
      GoesGlobal s x (plainLane x) a ctxLoadKind (ctxOps a.ptr.toNat n) (fun fd => (linesOf fd.ok).any fun e =>
        (loadHits s x .plain 0 0 e.2 e.1 (byteMask (accsOn e.1 fd.ok))).isNone)) ∧
    (∀ w ∈ [8, 7], let s := benchOf (backGroup w) benchTeam
      let y := backIssue w
      Ready s y none {} s ∧ y.sp.passTxn = some 7 ∧ y.g.txns.map (fun T => (T.id, T.out)) = [(7, 0)] ∧ addrReg y.g 6 = a ∧
      (y.g.txns.find? (fun t => t.id == 7)).map (fun T => imageOf T.lanes / 2 ^ 384 % 256) = some w ∧ NoRest s y ∧
      (ctxRoom s y (ctxRestore { y.g with txns := [] } 1 (imageOf [(6, BitVec.ofNat 64 w)]))).isSome = true) ∧
    (∀ w ∈ [8, 7], let s := ctxGlobalBench w true
      let img := memReadLE s.mem 0 n
      Ready s x none {} s ∧ img < 2 ^ (8 * n) ∧ img / 2 ^ 384 % 256 = w ∧ x.g.txns = [] ∧ NoRest s x ∧
      GoesGlobal s x (plainLane x) a ctxLoadKind (ctxOps a.ptr.toNat n) (fun fd => imageBool s img fd && (linesOf fd.ok).all fun e =>
        (loadHits s x .plain 0 0 e.2 e.1 (byteMask (accsOn e.1 fd.ok))).isSome) ∧
      (ctxRoom s.numbered x (ctxRestore { x.g with txns := [] } 1 img)).isSome = true) ∧
    x.g.width = 8 := by
  refine ⟨⟨ready_of (by decide) rfl rfl, .inl rfl, rfl, rfl, rfl, rfl, rfl, by decide, by decide, by decide +kernel,
    goes_of (by decide +kernel), goes_of (by decide +kernel)⟩, fun w h => ?_, fun w h => ?_, rfl⟩
  · have h : w = 8 ∨ w = 7 := by simpa using h
    rcases h with h | h <;> subst h <;>
      exact ⟨ready_of (by decide) rfl rfl, rfl, rfl, rfl, by decide +kernel, noRest_of rfl, by decide +kernel⟩
  · have h : w = 8 ∨ w = 7 := by simpa using h
    rcases h with h | h <;> subst h <;>
      exact ⟨ready_of (by decide) rfl rfl, by decide +kernel, by decide +kernel, rfl, noRest_of rfl, goes_of (by decide +kernel),
        by decide +kernel⟩

/-- ContextSaveLoad: a save and a load of every part that may be loaded, and a load of address registers. -/
theorem test_met_ContextSaveLoad : let a := addrReg ctxIssue.g 4
    (Memory.wf ctxBench.lmem = true ∧ Ready ctxBench ctxIssue none { lr := allocRegs ctxBench, sr := List.range 48 } ctxBench ∧
      NoSafePoint ctxIssue none ∧
      a.wr = true ∧ a.rgn = 4 ∧ a.ptr.toNat % 128 = 0 ∧ localAt ctxIssue a a.ptr.toNat % 8 = 0 ∧ NoRest ctxBench ctxIssue ∧ LocalRange ctxIssue a (ctxSize ctxIssue.g.width 15) a.ptr.toNat ∧
      ∀ w ∈ ctxImage ctxIssue.g 15, LocalWritable ctxBench 0 (localAt ctxIssue a (a.ptr.toNat + w.1)) 8) ∧
    (ctxBench.issue? = some ctxIssue ∧ (4 : BitVec 4).getLsbD 2 = true) ∧
    (Ready ctxBench ctxIssue none {} ctxBench ∧ (11 : BitVec 4).getLsbD 2 = false ∧ a.rd = true ∧
      (∀ b, b < ctxSize ctxIssue.g.width 11 → ctxBench.lineState ((localAt ctxIssue a a.ptr.toNat + b) / 128) = some .full ∧
        (localAt ctxIssue a a.ptr.toNat + b) / 128 ∉ ctxBench.lpoison) ∧
      memReadLE ctxBench.lmem (localAt ctxIssue a a.ptr.toNat) (ctxSize ctxIssue.g.width 11) / 2 ^ 384 % 256 = ctxIssue.g.width ∧
      ctxIssue.g.txns = [] ∧ (ctxRoom ctxBench ctxIssue (ctxRestore { ctxIssue.g with txns := [] } 11
        (memReadLE ctxBench.lmem (localAt ctxIssue a a.ptr.toNat) (ctxSize ctxIssue.g.width 11)))).isSome = true) := by
  have hl : ∀ b, b < ctxSize ctxIssue.g.width 11 →
      ctxBench.lineState ((localAt ctxIssue (addrReg ctxIssue.g 4) (addrReg ctxIssue.g 4).ptr.toNat + b) / 128) = some .full := by
    have hq : ∀ q, q < 38 → ctxBench.lineState (384 + q) = some .full := by decide
    intro b hb
    have hb : b < 4864 := hb
    have : (localAt ctxIssue (addrReg ctxIssue.g 4) (addrReg ctxIssue.g 4).ptr.toNat + b) / 128 = 384 + b / 128 := by
      show (49152 + b) / 128 = 384 + b / 128
      omega
    rw [this]
    exact hq (b / 128) (by omega)
  refine ⟨⟨by decide +kernel, ready_of (by decide) rfl rfl, .inl rfl, rfl, rfl, by decide, by decide, noRest_of rfl, range_of (by decide),
      all_of (b := fun (w : Nat × DWord) => writeBool ctxBench 0 (localAt ctxIssue (addrReg ctxIssue.g 4) ((addrReg ctxIssue.g 4).ptr.toNat + w.1)) 8)
        (fun w h => writable_of h) (by decide +kernel)⟩, ⟨rfl, rfl⟩,
    ready_of (by decide) rfl rfl, rfl, rfl, fun b hb => ⟨hl b hb, List.not_mem_nil⟩, by decide +kernel, rfl, by decide +kernel⟩

/-- A load of the blocks of the image writes v0 of lane 0 alone. -/
theorem test_ctxload : (match exec (.ctxload ⟨none, 8, 4⟩) ctxBench with
    | .next s => (s.groups.head?).map fun g => (laneReg benchTeam g 0 0, laneReg benchTeam g 0 1, laneReg benchTeam g 1 0)
    | _ => none) = some (9, 0, 0) := by decide +kernel

/-! ## `dusk` -/

/-- The bench with two partitions, and a drain of partition 1 by the group that has stopped three groups. -/
def duskBench (ds : List Drain) : State :=
  (benchOf csrGroup benchTeam).modMod 0 (fun x => { x with
    parts := [{ Partition.reset with clusters := [0] }, { Partition.reset with num := 3, clusters := [1, 2] }] }) |> fun s => { s with
    drains := ds
    groups := (withScalars [3, 0, 9]) :: [] }

/-- What an instruction sees there. -/
def duskIssue : Issue := issueOf (withScalars [3, 0, 9]) benchTeam benchSplit

/-- DuskResults: a partition that does not exist, the group's own, and a drain that is over. -/
theorem test_met_DuskResults :
    let d : Drain := ⟨0, 3, 0, 0, 0x20000, true, 1, 3⟩
    let s := duskBench [d]
    (Ready s duskIssue none { sr := [2], sw := [9], pl := 2 } s ∧ s.partition? 0 9 = none ∧
      Ready s duskIssue none { sr := [1], sw := [9], pl := 2 } s ∧ (s.corePart 0).num = 0) ∧
    (Ready s duskIssue none { sr := [0], sw := [9], pl := 2 } s ∧ (s.partition? 0 3).map (·.clusters) = some [1, 2] ∧ [1, 2].Nodup ∧
      (0 : Nat) ∉ partCores s 0 3 ∧ NoSafePoint duskIssue none ∧
      s.drains.find? (fun d => d.m == 0 && d.part == 3) = some d ∧ d.pc = duskIssue.cur.pc ∧ d.on = true ∧ s.log = [] ∧ s.reqs = [] ∧ NoPartials s ∧
      drained s 0 3 (partCores s 0 3) = true) :=
  ⟨⟨ready_of (by decide) rfl rfl, by decide, ready_of (by decide) rfl rfl, by decide⟩,
    ready_of (by decide) rfl rfl, by decide, by decide, by decide, .inl rfl, by decide, rfl, rfl, rfl, rfl, noPartials_of rfl, by decide⟩

/-! ## The walker -/

/-- A fill of four units of eight bytes from local address 256 on with the pattern 0x01020304 (Table Control 7). -/
def fillWalk : BitVec 512 :=
  BitVec.ofNat 512 (3 + 256 * 2 ^ 64 + 8 * 2 ^ 128 + 0x01020304 * 2 ^ (8 * 56) + 3 * 2 ^ (8 * 61))

/-- The bench with that walk configured, of an operation of Table Control 7, a legal address in s0 and two that are not. -/
def walkBench (op : Nat) : State :=
  (benchOf (withScalars [0x1FFFC0, 0x200000, 32]) benchTeam).modCore 0 fun c =>
    { c with walker := fillWalk + BitVec.ofNat 512 (op * 2 ^ 480) }

/-- The bench with that walk of an operation, each of its addresses in the core's local space (0) or in the module's memory (1), and
its first coefficient greater by `c`. -/
def walkOther (op a0 a1 c : Nat) : State :=
  (benchOf (withScalars [0x1FFFC0, 0x200000, 32]) benchTeam).modCore 0 fun k =>
    { k with walker := fillWalk + BitVec.ofNat 512 (op * 2 ^ 480 + a0 * 2 ^ 127 + a1 * 2 ^ 319 + c * 2 ^ 128) }

/-- What an instruction sees there. -/
def walkIssue : Issue := issueOf (withScalars [0x1FFFC0, 0x200000, 32]) benchTeam benchSplit

/-- The decidable form of `unitGoes`. -/
def unitGoesBool (s : State) (core : Nat) (d : BitVec 512) (op unit i : Nat) : Bool :=
  let x := walkAt s core d 0 unit (walkIdx d i)
  let y := walkAt s core d 1 unit (walkIdx d i)
  x != .bad && (y != .bad && (!x.waits s core (op = 0 || op = 3) && (op != 2 || !y.waits s core true)))

/-- See `unitGoesBool`. -/
theorem unitGoes_of {s : State} {core : Nat} {d : BitVec 512} {op unit i : Nat} (h : unitGoesBool s core d op unit i = true) :
    unitGoes s core d op unit i := by
  simp only [unitGoesBool, Bool.and_eq_true, bne_iff_ne, Bool.not_eq_true', Bool.or_eq_true] at h
  exact ⟨h.1, h.2.1, h.2.2.1, fun ho => h.2.2.2.resolve_left fun hn => hn ho⟩

/-- Every unit before number `n` of a walk goes on. -/
theorem units_of {core : Nat} {d : BitVec 512} {op unit : Nat} {s : State} {n : Nat}
    (h : ((List.range n).all fun i => unitGoesBool (walked core d op unit s i).2 core d op unit i) = true) :
    ∀ i, i < n → unitGoes (walked core d op unit s i).2 core d op unit i :=
  fun i hi => unitGoes_of (List.all_eq_true.mp h i (List.mem_range.mpr hi))

/-- WalkerResults: an address `walk cfg` takes and two it does not; walks that are no walk; addresses of the core's local space and of
the module's memory; walks of each operation that end, in either space, and one that leaves its space at its second unit; a fill and a
compare of local store. -/
theorem test_met_WalkerResults :
    (let s := walkBench 0
     (Ready s walkIssue none { sr := [0], pl := 3 } s ∧ (scalarReg s walkIssue 0).toNat < 2 ^ 21 ∧
       (scalarReg s walkIssue 0).toNat % 64 = 0 ∧ NoSafePoint walkIssue none) ∧
     (Ready s walkIssue none { sr := [1], pl := 3 } s ∧ ¬(scalarReg s walkIssue 1).toNat < 2 ^ 21) ∧
     Ready s walkIssue none { sr := [2], pl := 3 } s ∧ ¬(scalarReg s walkIssue 2).toNat % 64 = 0) ∧
    (let s := walkBench 4
     Ready s walkIssue none { sw := [9], pl := 3 } s ∧ s.drains = [] ∧ 3 < walkField (s.core 0).walker 60 8) ∧
    (0 ≤ walkSum fillWalk 0 3 0 0 0 ∧ (walkSum fillWalk 0 3 0 0 0).toNat = 280 ∧ walkField fillWalk 8 64 < 2 ^ 63 ∧
      2 ^ 63 ≤ walkField (fillWalk + BitVec.ofNat 512 (2 ^ 127)) 8 64 ∧
      (walkSum (fillWalk + BitVec.ofNat 512 (2 ^ 127)) 0 3 0 0 0).toNat = 280 ∧ physOf (walkBench 0) 0 280 = .dram 280) ∧
    (∀ p ∈ [(0, 0), (1, 0), (2, 0), (3, 0), (0, 1), (1, 1), (2, 1), (3, 1)], let s := walkOther p.1 p.2 p.2 0
      let d := (s.core 0).walker
      let op := p.1
      walkField d 60 8 = op ∧ Ready s walkIssue none { sw := [9], pl := 3 } s ∧ s.drains = [] ∧ op ≤ 3 ∧ walkField d 61 8 = 3 ∧ walkUnits d = 4 ∧ NoPartials s ∧
      Memory.wf s.mem = true ∧ Memory.wf s.lmem = true ∧ ∀ i, i < 4 → unitGoes (walked 0 d op 8 s i).2 0 d op 8 i) ∧
    (let s := walkOther 0 0 0 1
     let d := (s.core 0).walker
     Ready s walkIssue none { sw := [9], pl := 3 } s ∧ walkField d 60 8 = 0 ∧ walkField d 61 8 = 3 ∧ 1 < walkUnits d ∧
     (∀ i, i < 1 → unitGoes (walked 0 d 0 8 s i).2 0 d 0 8 i) ∧ walkAt (walked 0 d 0 8 s 1).2 0 d 0 8 (walkIdx d 1) = .bad) ∧
    (∀ op ∈ [0, 1], let s := walkBench op
      Ready s walkIssue none { sw := [9], pl := 3 } s ∧ s.drains = [] ∧ Memory.wf s.lmem = true ∧
      (let d := (s.core 0).walker
       let room := 2 ^ 21 - (s.corePart 0).l1KiB * 1024
       walkField d 60 8 = op ∧ walkField d 61 8 = 3 ∧ walkField d 2 16 = 0 ∧ walkField d 4 16 = 0 ∧ walkField d 6 16 = 0 ∧
       walkField d 16 32 = 2 ^ 3 ∧ walkField d 8 64 % 2 ^ 3 = 0 ∧ walkField d 8 64 + (walkField d 0 16 + 1) * 2 ^ 3 ≤ room ∧
       walkField d 40 32 = 0 ∧ walkField d 32 64 % 2 ^ 3 = 0 ∧ walkField d 32 64 + 2 ^ 3 ≤ room)) := by
  refine ⟨⟨⟨ready_of (by decide) rfl rfl, by decide, by decide, .inl rfl⟩, ⟨ready_of (by decide) rfl rfl, by decide⟩,
    ready_of (by decide) rfl rfl, by decide⟩, ⟨ready_of (by decide) rfl rfl, rfl, by decide +kernel⟩, by decide +kernel, fun p h => ?_,
    ⟨ready_of (by decide) rfl rfl, by decide +kernel, by decide +kernel, by decide +kernel, units_of (by decide +kernel), by decide +kernel⟩,
    fun op h => ?_⟩
  · simp only [List.mem_cons, List.not_mem_nil, or_false] at h
    rcases h with h | h | h | h | h | h | h | h <;> subst h <;>
      exact ⟨by decide +kernel, ready_of (by decide) rfl rfl, rfl, by decide +kernel, by decide +kernel, by decide +kernel, noPartials_of rfl,
        by decide +kernel, rfl, units_of (by decide +kernel)⟩
  · have h : op = 0 ∨ op = 1 := by simpa using h
    rcases h with h | h
    · subst h
      exact ⟨ready_of (by decide) rfl rfl, rfl, rfl, by decide +kernel⟩
    · subst h
      exact ⟨ready_of (by decide) rfl rfl, rfl, rfl, by decide +kernel⟩

/-- The fill writes its pattern, low byte first, to bytes 256 to 287. -/
theorem test_walk_fill : (match exec (.walkRun ⟨none, 9⟩) (walkBench 0) with
    | .next s => ((s.groups.head?).map fun g => nth g.arch.sregs 9 0, s.lmem.length, s.lmem.head?, memReadLE s.lmem 284 4)
    | _ => (none, 0, none, 0)) = (some 4, 32, some (256, 4), 0x01020304) := by decide +kernel

end Sys2Proof.Machine
end

section
/-!
SUPPORT. Rules of the state's tables: what a lookup of a module, a virtual function, a core, a queue or a group finds after an
update of one of them.
-/
namespace Sys2Proof.Machine

/-! ## Lookups in a list -/

/-- An update that keeps the key looked up changes what is found, and not whether it is found. -/
theorem find?_mapWhere {α : Type} (p q : α → Bool) (f : α → α) (l : List α) (hf : ∀ x, q (f x) = q x) :
    (mapWhere p f l).find? q = (l.find? q).map fun x => if p x then f x else x := by
  have e : (q ∘ fun x => if p x = true then f x else x) = q := by
    funext x
    by_cases hp : p x = true <;> simp [hp, hf]
  rw [mapWhere, List.find?_map, e]

/-- The record put into a table is found there. -/
theorem find?_upsert_same {α : Type} (p : α → Bool) (x : α) (hx : p x = true) (l : List α) :
    (upsert p x l).find? p = some x := by
  induction l with
  | nil => simp [upsert, hx]
  | cons y ys ih => by_cases hy : p y = true <;> simp [upsert, hx, hy, ih]

/-- A record put into a table is not found under another key. -/
theorem find?_upsert_other {α : Type} (p q : α → Bool) (x : α) (hx : q x = false) (hpq : ∀ y, p y = true → q y = false)
    (l : List α) : (upsert p x l).find? q = l.find? q := by
  induction l with
  | nil => simp [upsert, hx]
  | cons y ys ih =>
    by_cases hy : p y = true
    · simp [upsert, hy, hx, hpq y hy]
    · simp [upsert, hy, List.find?_cons, ih]

/-! ## Modules, virtual functions and cores -/

/-- A module of the fabric that is updated is found updated. -/
theorem State.mod_modMod_same {s : State} {m : Nat} (f : Mod → Mod) (hm : s.inFabric m = true) (hf : ∀ x, (f x).num = x.num) :
    (s.modMod m f).mod m = f (s.mod m) := by
  obtain ⟨y, hy⟩ : ∃ y, s.modules.find? (fun x => x.num == m) = some y := by
    rw [← Option.isSome_iff_exists, List.find?_isSome]
    exact List.any_eq_true.1 hm
  have hn : (y.num == m) = true := List.find?_some (p := fun x : Mod => x.num == m) hy
  rw [State.mod, State.mod, State.modMod, find?_mapWhere, hy, Option.map_some, Option.getD_some, Option.getD_some, if_pos hn]
  exact fun x => by rw [hf x]

/-- A virtual function is found under its number. -/
@[simp] theorem State.vf_num (s : State) (m v : Nat) : (s.vf m v).num = v := by
  unfold State.vf
  cases h : (s.mod m).vfs.find? fun x => x.num == v with
  | none => rfl
  | some y => simpa using List.find?_some h

/-- The registers of a virtual function that are updated are found updated. -/
theorem State.vf_modVf_same {s : State} {m v : Nat} (f : Vf → Vf) (hm : s.inFabric m = true) (hf : ∀ y, (f y).num = y.num) :
    (s.modVf m v f).vf m v = f (s.vf m v) := by
  rw [State.vf, State.modVf, State.mod_modMod_same _ hm (by exact fun _ => rfl),
    find?_upsert_same, Option.getD_some]
  simp [hf]

/-- A core is found under its number. -/
@[simp] theorem State.core_gcn (s : State) (c : Nat) : (s.core c).gcn = c := by
  unfold State.core
  cases h : s.cores.find? fun x => x.gcn == c with
  | none => rfl
  | some y => simpa using List.find?_some h

/-- A core that is updated is found updated. -/
theorem State.core_modCore_same {s : State} {c : Nat} (f : Core → Core) (hf : ∀ x, (f x).gcn = x.gcn) :
    (s.modCore c f).core c = f (s.core c) := by
  rw [State.core, State.modCore, find?_upsert_same, Option.getD_some]
  simp [hf]

/-! ## Queues -/

/-- A queue is found under its module and node. -/
theorem State.queue_key (s : State) (m n : Nat) : (s.queue m n).m = m ∧ (s.queue m n).node = n := by
  unfold State.queue
  cases h : s.queues.find? fun q => q.m == m && q.node == n with
  | none => exact ⟨rfl, rfl⟩
  | some y => simpa using List.find?_some h

/-- A queue that is updated is found updated. -/
theorem State.queue_modQueue_same {s : State} {m n : Nat} (f : Queue → Queue) (hf : ∀ q, (f q).m = q.m ∧ (f q).node = q.node) :
    (s.modQueue m n f).queue m n = f (s.queue m n) := by
  rw [State.queue, State.modQueue, find?_upsert_same, Option.getD_some]
  simp [hf, State.queue_key]

/-- An update of a queue leaves every other queue. -/
theorem State.queuesKeep_modQueue {s : State} {m n : Nat} (f : Queue → Queue) (hf : ∀ q, (f q).m = q.m ∧ (f q).node = q.node) :
    QueuesKeep s (s.modQueue m n f) m n := by
  intro a b hab
  have hne : ∀ q : Queue, q.m = m → q.node = n → (q.m == a && q.node == b) = false := fun q h1 h2 => by
    rw [h1, h2, Bool.and_eq_false_iff, beq_eq_false_iff_ne, beq_eq_false_iff_ne]
    omega
  have hkey := State.queue_key s m n
  rw [State.queue, State.modQueue, find?_upsert_other, State.queue]
  · exact hne _ ((hf _).1.trans hkey.1) ((hf _).2.trans hkey.2)
  · intro q hq
    simp only [Bool.and_eq_true, beq_iff_eq] at hq
    exact hne q hq.1 hq.2

/-! ## Groups -/

/-- Groups updated in place are found where they stood. -/
theorem State.group?_of_mapWhere {s t : State} {p : Group → Bool} {f : Group → Group} (ht : t.groups = mapWhere p f s.groups)
    (hf : ∀ g, (f g).core = g.core ∧ (f g).slot = g.slot) {c k : Nat} {g : Group} (hg : s.group? c k = some g) :
    t.group? c k = some (if p g then f g else g) := by
  rw [State.group?] at hg
  rw [State.group?, ht, find?_mapWhere _ _ _ _ (fun x => by rw [(hf x).1, (hf x).2]), hg, Option.map_some]

end Sys2Proof.Machine
end

section
/-!
SUPPORT. What an application core's access to a register does: device registers, and `PDN` and `RSV` of a queue header
(R259, R260, R322, R334, R337, R352, R353).
-/
namespace Sys2Proof.Machine

/-! ## PRECTL (R337) -/

/-- A group asked to stop: a running one notes the clock. -/
def Group.ask (cyc : Nat) (g : Group) : Group := if g.preempt = .running then { g with preempt := .asked cyc } else g

theorem Group.ask_key (cyc : Nat) (g : Group) : (g.ask cyc).core = g.core ∧ (g.ask cyc).slot = g.slot := by
  unfold Group.ask
  split <;> exact ⟨rfl, rfl⟩

/-- A request asks the groups of the virtual function and sets its bit of `PREREQ`. -/
theorem prectlWrite_request {v : DWord} (hv : v.getLsbD 8 = true) (s : State) (m : Nat) :
    prectlWrite s m v = State.modMod { s with groups := mapWhere (groupOf s m (v.extractLsb' 0 5).toNat) (Group.ask s.cyc) s.groups } m
      fun x => { x with preReq := x.preReq ||| 1#32 <<< (v.extractLsb' 0 5).toNat } := by
  simp only [prectlWrite, hv, if_true]
  rfl

/-- Setting bit `i` of a word sets it and leaves the others. -/
theorem getLsbD_setBit (x : BitVec 32) {i : Nat} (hi : i < 32) (k : Nat) :
    (x ||| 1#32 <<< i).getLsbD k = (x.getLsbD k || decide (k = i)) := by
  show (x ||| BitVec.twoPow 32 i).getLsbD k = _
  rw [BitVec.getLsbD_or, BitVec.getLsbD_twoPow, decide_eq_true hi, Bool.true_and, decide_eq_decide.2 eq_comm]

theorem prectlWrite_effect {s : State} {m : Nat} {v : DWord} (hm : s.inFabric m = true) (hv : v.getLsbD 8 = true) :
    let vf := (v.extractLsb' 0 5).toNat
    let t := prectlWrite s m v
    (t.mod m).preReq.getLsbD vf = true ∧ (∀ k, k ≠ vf → (t.mod m).preReq.getLsbD k = (s.mod m).preReq.getLsbD k) ∧
      ∀ c k g u, s.group? c k = some g → s.team? g.team = some u → ∃ g', t.group? c k = some g' ∧
        g' = if coreMod g.core = m ∧ u.vf = vf ∧ g.preempt = .running then { g with preempt := .asked s.cyc } else g := by
  intro vf t
  have ht := prectlWrite_request hv s m
  have hvf : vf < 32 := (v.extractLsb' 0 5).isLt
  have hreq : (t.mod m).preReq = (s.mod m).preReq ||| 1#32 <<< vf := by
    show ((prectlWrite s m v).mod m).preReq = _
    rw [ht, State.mod_modMod_same _ (by exact hm) (by exact fun _ => rfl)]
    rfl
  refine ⟨?_, fun k hk => ?_,
    fun c k g u hg hu => ⟨_, State.group?_of_mapWhere (t := t) (congrArg State.groups ht) (Group.ask_key s.cyc) hg, ?_⟩⟩
  · rw [hreq, getLsbD_setBit _ hvf, decide_eq_true rfl, Bool.or_true]
  · rw [hreq, getLsbD_setBit _ hvf, decide_eq_false hk, Bool.or_false]
  · have hof : groupOf s m vf g = true ↔ coreMod g.core = m ∧ u.vf = vf := by simp [groupOf, hu]
    by_cases hin : groupOf s m vf g = true
    · simp only [vf, hin, if_true, Group.ask, hof.1 hin, true_and]
    · rw [if_neg hin, if_neg fun h => hin (hof.2 ⟨h.1, h.2.1⟩)]

/-! ## PFRES (R334) -/

/-- With no PCIe request held, a pair that is resolved touches nothing but what waits for it. -/
theorem resolvePcie_nil {s : State} {pr : Pair} (h : (s.mod pr.m).heldPcie = []) (dead : Bool) : resolvePcie s pr dead = s := by
  simp [resolvePcie, h]

/-- A pair resolved as mapped: it is a pair no more, and what it held goes on. -/
theorem resolvePair_mapped (s : State) (pr : Pair) :
    let t := resolvePair s pr false
    t.mem = s.mem ∧ (∀ q, q ∈ t.pairs ↔ q ∈ s.pairs ∧ q ≠ pr) ∧
    t.log = s.log.map (fun e =>
      if coreMod e.core = pr.m ∧ e.vf = pr.vf ∧ e.ctx = pr.ctx ∧ e.page = pr.page ∧ e.st = 1 ∧ e.loss = false
        then { e with st := 2 } else e) ∧
    ∀ c k g u, s.group? c k = some g → s.team? g.team = some u → coreMod g.core = pr.m → u.vf = pr.vf → u.ctx = pr.ctx →
      pr.page ∈ g.heldPages → ∃ g', t.group? c k = some g' ∧ g'.heldPages = g.heldPages.filter (fun p => decide (p ≠ pr.page)) ∧
        g'.arch = g.arch := by
  intro t
  refine ⟨rfl, fun q => ?_, ?_, fun c k g u hg hu hm hv hc hp => ?_⟩
  · simp [t, resolvePair]
  · simp [t, resolvePair, mapWhere, and_assoc]
  · have h := State.group?_of_mapWhere (t := t) rfl (fun _ => ⟨rfl, rfl⟩) hg
    rw [if_pos (by simp [hu, hm, hv, hc, hp])] at h
    exact ⟨_, h, rfl, rfl⟩

theorem pfresWrite_mapped {s : State} {m vf : Nat} {v : DWord} (hv : v.getLsbD 63 = false) (hp : (s.mod m).heldPcie = []) :
    pfresWrite s m vf v = resolvePair s (pfresPair m vf v) false := by
  rw [pfresWrite, hv]
  exact resolvePcie_nil hp false

/-! ## VFCFG, VFSALT and PWRCAP (R352, R353) -/

theorem vfcfgWrite_vf {s : State} {m : Nat} (hm : s.inFabric m = true) (vf : Nat) (v : DWord) :
    some ((vfcfgWrite s m vf v).vf m vf) = vfWritten 0x231 v (s.teams.any fun t => t.m == m && t.vf == vf) (s.vf m vf) := by
  rw [vfcfgWrite, State.vf_modVf_same _ hm (by exact fun _ => rfl)]
  simp [vfWritten]

theorem vfsaltWrite_vf {s : State} {m : Nat} (hm : s.inFabric m = true) (vf : Nat) (v : DWord) :
    some ((vfsaltWrite s m vf v).vf m vf) = vfWritten 0x232 v false (s.vf m vf) := by
  rw [vfsaltWrite, State.vf_modVf_same _ hm fun y => by split <;> rfl]
  rfl

theorem pwrcapWrite_pwrcap {s : State} {m : Nat} (hm : s.inFabric m = true) (v : DWord) :
    ((pwrcapWrite s m v).mod m).pwrcap = if 600 ≤ v.toNat ∧ v.toNat ≤ 1600 then v.toNat else (s.mod m).pwrcap := by
  rw [pwrcapWrite, State.mod_modMod_same _ hm fun x => by split <;> rfl]
  by_cases h : 600 ≤ v.toNat ∧ v.toNat ≤ 1600 <;> simp [h]

/-! ## Registers that a read clears (R322) -/

/-- Before Dawn has run no register is read (R18). -/
theorem execRcRegisterRead_before {s : State} (h : (s.mod (coreMod s.ev.a)).done = false) : execRcRegisterRead s = .next s := by
  simp [execRcRegisterRead, h]

theorem execRcRegisterRead_after {s : State} {n : Nat} (hn : s.ev.b = n) (h : (s.mod (coreMod s.ev.a)).done = true) :
    execRcRegisterRead s = .next { (rcRead s s.ev.a n).2 with hostReply := (rcRead s s.ev.a n).1 } := by
  simp [execRcRegisterRead, h, hn]

/-- A read of `GENDROP` gives the count of the core that is named, and clears it. -/
theorem rcRead_gendrop (s : State) (c : Nat) :
    (rcRead s c 0x420).1 = BitVec.ofNat 64 (s.core c).gendrop ∧ ((rcRead s c 0x420).2.core c).gendrop = 0 :=
  ⟨rfl, congrArg Core.gendrop (State.core_modCore_same (fun x => { x with gendrop := 0 }) fun _ => rfl)⟩

/-- A read of `SYNCWR` gives the count of the core's module, and clears it. -/
theorem rcRead_syncwr {s : State} {c : Nat} (hm : s.inFabric (coreMod c) = true) :
    (rcRead s c 0x421).1 = BitVec.ofNat 64 (s.mod (coreMod c)).syncwr ∧ ((rcRead s c 0x421).2.mod (coreMod c)).syncwr = 0 :=
  ⟨rfl, congrArg Mod.syncwr (State.mod_modMod_same (fun x => { x with syncwr := 0 }) hm fun _ => rfl)⟩

/-! ## Queue headers (R259, R260) -/

/-- Publishing keeps which queue it is, and its `PDN` and `PERR`. -/
theorem Queue.advance_keeps (tick n : Nat) (q : Queue) :
    let q' := q.advance tick n
    (q'.m = q.m ∧ q'.node = q.node) ∧ q'.pdn = q.pdn ∧ q'.perr = q.perr := by
  induction n generalizing q with
  | zero => exact ⟨⟨rfl, rfl⟩, rfl, rfl⟩
  | succ n ih =>
    rw [Queue.advance]
    split
    · exact ih _
    · exact ⟨⟨rfl, rfl⟩, rfl, rfl⟩

/-- Nothing is published while the index to be published next is not done. -/
theorem Queue.advance_of_not_done {q : Queue} (h : q.pub ∉ q.done) (tick n : Nat) : q.advance tick n = q := by
  cases n with
  | zero => rfl
  | succ n => simp [Queue.advance, h]

/-- The index to be published next, marked done alone, is published. -/
theorem Queue.markDone_next {q : Queue} (h : q.done = []) (tick : Nat) :
    (q.markDone tick q.pub).pub = q.pub + 1 ∧ (q.markDone tick q.pub).done = [] := by
  simp [Queue.markDone, Queue.advance, h]

/-- Another index is remembered while the one to be published next is not done. -/
theorem Queue.markDone_later {q : Queue} {i : Nat} (hi : i ≠ q.pub) (h : q.pub ∉ q.done) (tick : Nat) :
    q.markDone tick i = { q with done := i :: q.done } := by
  apply Queue.advance_of_not_done
  simp [h, Ne.symm hi]

/-- A value of `PDN` that names no record still to be marked sets `PERR`. -/
theorem pdnStore_refused {s : State} {m n : Nat} {v : DWord}
    (h : v.toNat < (s.queue m n).pub ∨ (s.queue m n).rsv ≤ v.toNat ∨ v.toNat ∈ (s.queue m n).done) :
    pdnStore s m n v = s.modQueue m n fun q => { q with perr := true, pdn := v } := by
  simp only [pdnStore]
  rw [if_pos (by simpa [or_assoc] using h)]

/-- The queue that a store of `v` to `PDN` leaves, where it marks a record done. -/
def Queue.pdnMarked (tick : Nat) (v : DWord) (q : Queue) : Queue := Queue.markDone { q with pdn := v } tick v.toNat

theorem Queue.pdnMarked_keeps (tick : Nat) (v : DWord) (q : Queue) :
    let q' := q.pdnMarked tick v
    (q'.m = q.m ∧ q'.node = q.node) ∧ q'.pdn = v ∧ q'.perr = q.perr :=
  Queue.advance_keeps tick (v.toNat :: q.done).length { q with pdn := v, done := v.toNat :: q.done }

/-- A value of `PDN` that names a record still to be marked marks it, and what waits for it is gathered. -/
theorem pdnStore_marks {s : State} {m n : Nat} {v : DWord} (h1 : (s.queue m n).pub ≤ v.toNat) (h2 : v.toNat < (s.queue m n).rsv)
    (h3 : v.toNat ∉ (s.queue m n).done) :
    pdnStore s m n v = gather m false gatherFuel [n] (s.modQueue m n (Queue.pdnMarked s.ltick v)) := by
  simp only [pdnStore]
  rw [if_neg (by simp [h3]; omega)]
  rfl

theorem pdnStore_refused_effect {s : State} {m n : Nat} {v : DWord}
    (h : v.toNat < (s.queue m n).pub ∨ (s.queue m n).rsv ≤ v.toNat ∨ v.toNat ∈ (s.queue m n).done) :
    let t := pdnStore s m n v
    QueuesKeep s t m n ∧ t.queue m n = { s.queue m n with perr := true, pdn := v } ∧ t.mem = s.mem ∧ t.hostFault = s.hostFault := by
  intro t
  simp only [t, pdnStore_refused h]
  exact ⟨State.queuesKeep_modQueue _ fun _ => ⟨rfl, rfl⟩, State.queue_modQueue_same _ fun _ => ⟨rfl, rfl⟩, rfl, rfl⟩

theorem pdnStore_marks_effect {s : State} {m n : Nat} {v : DWord} (h1 : (s.queue m n).pub ≤ v.toNat) (h2 : v.toNat < (s.queue m n).rsv)
    (h3 : v.toNat ∉ (s.queue m n).done) :
    let q := s.queue m n
    ∃ t, pdnStore s m n v = gather m false gatherFuel [n] t ∧ QueuesKeep s t m n ∧ t.hostFault = s.hostFault ∧
      (t.queue m n).pdn = v ∧ (t.queue m n).perr = q.perr ∧
      (v.toNat = q.pub → q.done = [] → (t.queue m n).pub = q.pub + 1 ∧ (t.queue m n).done = []) ∧
      (v.toNat ≠ q.pub → q.pub ∉ q.done → (t.queue m n).pub = q.pub ∧ v.toNat ∈ (t.queue m n).done) := by
  intro q
  have hkey := fun q => (Queue.pdnMarked_keeps s.ltick v q).1
  refine ⟨s.modQueue m n (Queue.pdnMarked s.ltick v), pdnStore_marks h1 h2 h3, State.queuesKeep_modQueue _ hkey, rfl, ?_⟩
  rw [State.queue_modQueue_same _ hkey]
  obtain ⟨-, hpdn, hperr⟩ := Queue.pdnMarked_keeps s.ltick v q
  refine ⟨hpdn, hperr, fun hv hd => ?_, fun hv hd => ?_⟩
  · rw [Queue.pdnMarked, hv]
    exact Queue.markDone_next (q := { q with pdn := v }) hd s.ltick
  · rw [Queue.pdnMarked, Queue.markDone_later (by exact hv) (by exact hd)]
    exact ⟨rfl, List.mem_cons_self⟩

theorem rsvAdd_effect (s : State) (m n : Nat) (v : DWord) :
    (rsvAdd s m n v).1 = BitVec.ofNat 64 (s.queue m n).rsv ∧ QueuesKeep s (rsvAdd s m n v).2 m n ∧
      (rsvAdd s m n v).2.queue m n = { s.queue m n with rsv := ((s.queue m n).rsv + v.toNat) % 2 ^ 64 } :=
  ⟨rfl, State.queuesKeep_modQueue _ fun _ => ⟨rfl, rfl⟩, State.queue_modQueue_same _ fun _ => ⟨rfl, rfl⟩⟩

/-! ## Stores and adds of an application core -/

/-- A little-endian list of bytes spells its number. -/
theorem ofBytes_leBytes (n v : Nat) : ofBytes (leBytes n v) = v % 256 ^ n := by
  induction n generalizing v with
  | zero => simp [leBytes, ofBytes, Nat.mod_one]
  | succ n ih =>
    rw [leBytes, ofBytes, ih, BitVec.toNat_ofNat, Nat.pow_succ' (n := n)]
    exact Nat.mod_mul.symm

/-- The eight bytes of a doubleword spell it. -/
theorem ofBytes_leBytes_dword (v : DWord) : BitVec.ofNat 64 (ofBytes (leBytes 8 v.toNat)) = v := by
  have h := v.isLt
  rw [ofBytes_leBytes, Nat.mod_eq_of_lt (by omega), BitVec.ofNat_toNat, BitVec.setWidth_eq]

@[simp] theorem length_leBytes (n v : Nat) : (leBytes n v).length = n := by
  induction n generalizing v with
  | zero => rfl
  | succ n ih => rw [leBytes, List.length_cons, ih]

/-- A walk reads memory, its poison and the fabric, and no answer to an application core. -/
theorem walkFrom_hostFault (s : State) (b : Bool) (m va : Nat) (fuel level table : Nat) :
    walkFrom { s with hostFault := b } m va fuel level table = walkFrom s m va fuel level table := by
  induction fuel generalizing level table with
  | zero => rfl
  | succ n ih =>
    simp only [walkFrom, ih]
    rfl

theorem translate_hostFault (s : State) (b : Bool) (c : Ctx) (need : Need) (va : Nat) :
    translate { s with hostFault := b } c need va = translate s c need va := by
  simp only [translate, walkFrom_hostFault]
  rfl

/-- A store that faults changes nothing else. -/
theorem hostStore_fault {s : State} {c : Ctx} {va : Nat} {bs : List Byte} {f : PageFault} (hd : (s.mod c.m).done = true)
    (hf : agentFault s c .write va bs.length = some f) : hostStore s c va bs = { s with hostFault := true } := by
  simp [hostStore, hd, hf]

/-- Of a queue header an application core stores to the doubleword `PDN` only. -/
theorem hostStore_header {s : State} {c : Ctx} {va ga : Nat} {bs : List Byte} {g : Page} {q : Queue} (hd : (s.mod c.m).done = true)
    (hf : agentFault s c .write va bs.length = none) (ht : translate s c .write (va % 2 ^ 56) = .ok g) (hg : g.phys = .dram ga)
    (hq : s.headerQueue? (ga / 128) = some q) :
    hostStore s c va bs = if ga % 128 = 32 ∧ bs.length = 8 then
        pdnStore { s with hostFault := false } q.m q.node (BitVec.ofNat 64 (ofBytes bs))
      else { s with hostFault := true } := by
  have hq' : State.headerQueue? { s with hostFault := false } (ga / 128) = some q := hq
  simp [hostStore, hd, hf, translate_hostFault, ht, hg, hq', -Nat.reducePow]

/-- An add to `RSV` whose address does not translate faults. -/
theorem hostReserve_fault {s : State} {c : Ctx} {va : Nat} {v : DWord} {f : PageFault} (hd : (s.mod c.m).done = true)
    (ht : translate s c .write (va % 2 ^ 56) = .error f) : hostReserve s c va v = { s with hostFault := true } := by
  simp [hostReserve, hd, ht, -Nat.reducePow]

/-- Of a queue header an application core adds to `RSV` only. -/
theorem hostReserve_header {s : State} {c : Ctx} {va ga : Nat} {v : DWord} {g : Page} {q : Queue} (hd : (s.mod c.m).done = true)
    (ht : translate s c .write (va % 2 ^ 56) = .ok g) (hg : g.phys = .dram ga) (hq : s.headerQueue? (ga / 128) = some q) :
    hostReserve s c va v = if ga % 128 = 8 then
        { (rsvAdd s q.m q.node v).2 with hostReply := (rsvAdd s q.m q.node v).1, hostFault := false }
      else { s with hostFault := true } := by
  simp [hostReserve, hd, ht, hg, hq, -Nat.reducePow]

/-! ## The events -/

/-- Before Dawn has run no access to a queue header has an effect (R18). -/
theorem execHeader_before {s : State} (hd : (s.mod s.ev.a).done = false) : execPdnStore s = .next s ∧ execRsvReserve s = .next s := by
  unfold execPdnStore execRsvReserve
  cases s.ev.host with
  | none => exact ⟨rfl, rfl⟩
  | some h =>
    have hd' : (s.mod (hostCtx h s.ev.a).m).done = false := hd
    simp [hostStore, hostReserve, hd']

theorem execPdnStore_host {s : State} {h : HostAt} (hh : s.ev.host = some h) :
    execPdnStore s = .next (hostStore s (hostCtx h s.ev.a) h.va (leBytes 8 s.ev.v.toNat)) := by
  simp only [execPdnStore, hh]

theorem execRsvReserve_host {s : State} {h : HostAt} (hh : s.ev.host = some h) :
    execRsvReserve s = .next (hostReserve s (hostCtx h s.ev.a) h.va s.ev.v) := by
  simp only [execRsvReserve, hh]

theorem execPdnStore_fault {s : State} {h : HostAt} {f : PageFault} (hh : s.ev.host = some h) (hd : (s.mod s.ev.a).done = true)
    (hf : agentFault s (hostCtx h s.ev.a) .write h.va 8 = some f) : execPdnStore s = .next { s with hostFault := true } := by
  rw [execPdnStore_host hh, hostStore_fault hd (by simpa using hf)]

theorem execRsvReserve_fault {s : State} {h : HostAt} {f : PageFault} (hh : s.ev.host = some h) (hd : (s.mod s.ev.a).done = true)
    (ht : translate s (hostCtx h s.ev.a) .write (h.va % 2 ^ 56) = .error f) :
    execRsvReserve s = .next { s with hostFault := true } := by
  rw [execRsvReserve_host hh, hostReserve_fault hd ht]

/-- An access of an application core, once Dawn has run, whose address is that of a byte of a queue's header. -/
structure AtHeader (s : State) (h : HostAt) (ga : Nat) (q : Queue) : Prop where
  host : s.ev.host = some h
  done : (s.mod s.ev.a).done = true
  translates : ∃ g, translate s (hostCtx h s.ev.a) .write (h.va % 2 ^ 56) = .ok g ∧ g.phys = .dram ga
  header : s.headerQueue? (ga / 128) = some q

/-- A store to a header that does not fault is one to `PDN`, or faults there. -/
theorem AtHeader.execPdnStore_eq {s : State} {h : HostAt} {ga : Nat} {q : Queue} (a : AtHeader s h ga q)
    (hf : agentFault s (hostCtx h s.ev.a) .write h.va 8 = none) :
    execPdnStore s = .next (if ga % 128 = 32 then pdnStore { s with hostFault := false } q.m q.node s.ev.v
      else { s with hostFault := true }) := by
  obtain ⟨g, ht, hg⟩ := a.translates
  rw [execPdnStore_host a.host, hostStore_header a.done (by simpa using hf) ht hg a.header, ofBytes_leBytes_dword,
    length_leBytes]
  simp only [and_true]

theorem AtHeader.execRsvReserve_eq {s : State} {h : HostAt} {ga : Nat} {q : Queue} (a : AtHeader s h ga q) :
    execRsvReserve s = .next (if ga % 128 = 8 then
        { (rsvAdd s q.m q.node s.ev.v).2 with hostReply := (rsvAdd s q.m q.node s.ev.v).1, hostFault := false }
      else { s with hostFault := true }) := by
  obtain ⟨g, ht, hg⟩ := a.translates
  rw [execRsvReserve_host a.host, hostReserve_header a.done ht hg a.header]

/-- Settles O46: each register's rule above, for the event that accesses it. -/
theorem hostRegisterEvents : Obligations.HostRegisterEvents := by
  unfold Obligations.HostRegisterEvents
  intro s m v vf pr
  refine ⟨fun hm hv => ⟨_, rfl, prectlWrite_effect hm hv⟩, fun hv hp => ?pfres,
    fun hm => ⟨⟨_, rfl, vfcfgWrite_vf hm _ _, rfl⟩, ⟨_, rfl, vfsaltWrite_vf hm _ _, rfl⟩,
      ⟨_, rfl, pwrcapWrite_pwrcap hm _, rfl⟩⟩,
    execRcRegisterRead_before, fun hb hd => ?gendrop, fun hb hm hd => ?syncwr, execHeader_before, fun h hh hd => ?header⟩
  case pfres =>
    obtain ⟨hmem, hpairs, hlog, hgroups⟩ := resolvePair_mapped s pr
    refine ⟨resolvePair s pr false, congrArg Host.Outcome.next (pfresWrite_mapped hv hp), ?_, fun q hq => ?_, hmem, hlog, hgroups⟩
    · simp [hpairs]
    · rw [hpairs q, and_iff_left hq]
  case gendrop =>
    obtain ⟨hread, hclear⟩ := rcRead_gendrop s m
    exact ⟨_, execRcRegisterRead_after hb hd, hread, hclear, rfl, rfl⟩
  case syncwr =>
    obtain ⟨hread, hclear⟩ := rcRead_syncwr hm
    exact ⟨_, execRcRegisterRead_after hb hd, hread, hclear, rfl⟩
  case header =>
    refine ⟨fun f hf => execPdnStore_fault hh hd hf, fun f ht => execRsvReserve_fault hh hd ht, fun g ga q' ht hg hq => ?_⟩
    have a : AtHeader s h ga q' := ⟨hh, hd, ⟨g, ht, hg⟩, hq⟩
    refine ⟨fun hf => ⟨fun hga => ?other, fun hga => ⟨fun hv => ?refused, fun h1 h2 h3 => ?marks⟩⟩,
      fun hga => ?barred, fun hga => ?add⟩
    case other => exact ⟨_, (a.execPdnStore_eq hf).trans (congrArg _ (if_neg hga)), rfl, rfl, rfl⟩
    case refused =>
      exact ⟨_, (a.execPdnStore_eq hf).trans (congrArg _ (if_pos hga)),
        pdnStore_refused_effect (s := { s with hostFault := false }) hv⟩
    case marks =>
      obtain ⟨t, ht, h⟩ := pdnStore_marks_effect (s := { s with hostFault := false }) h1 h2 h3
      exact ⟨t, (a.execPdnStore_eq hf).trans (congrArg _ ((if_pos hga).trans ht)), h⟩
    case barred => exact a.execRsvReserve_eq.trans (congrArg _ (if_neg hga))
    case add =>
      obtain ⟨hr, hk, hq⟩ := rsvAdd_effect s q'.m q'.node v
      exact ⟨_, a.execRsvReserve_eq.trans (congrArg _ (if_pos hga)), hr, rfl, hk, hq⟩

end Sys2Proof.Machine
end

section
/-!
SUPPORT. What the integer lane operations compute, in the model's words and in those of Tables Lane 1, 2, 4 and 5
(07_lane_and_scalar_instructions.md R137 to R148).
-/
namespace Sys2Proof.Machine

/-! ## Sums, products and shifts (Table Lane 1) -/

theorem add_eq_sumWord (a b : Word) : a + b = sumWord a b := by
  apply BitVec.eq_of_toNat_eq
  simp [sumWord]

theorem sub_eq_diffWord (a b : Word) : a - b = diffWord a b := by
  apply BitVec.eq_of_toInt_eq
  simp [diffWord, BitVec.toInt_sub]

theorem mul_eq_ofInt (a b : Word) : a * b = BitVec.ofInt 32 (a.toInt * b.toInt) := by
  rw [BitVec.ofInt_mul, BitVec.ofInt_toInt, BitVec.ofInt_toInt]

theorem mul_add_eq_ofInt (a b d : Word) : a * b + d = BitVec.ofInt 32 (a.toInt * b.toInt + d.toInt) := by
  rw [BitVec.ofInt_add, ← mul_eq_ofInt, BitVec.ofInt_toInt]

theorem mulhWord_eq (a b : Word) : mulhWord a b = (a.signExtend 64 * b.signExtend 64).extractLsb' 32 32 := by
  have h : a.signExtend 64 * b.signExtend 64 = BitVec.ofInt 64 (a.toInt * b.toInt) := by
    rw [BitVec.ofInt_mul]; rfl
  apply BitVec.eq_of_toNat_eq
  rw [h, mulhWord, BitVec.extractLsb'_toNat, BitVec.toNat_ofInt, BitVec.toNat_ofInt, Nat.shiftRight_eq_div_pow]
  omega

theorem mulhuWord_eq (a b : Word) : mulhuWord a b = (a.setWidth 64 * b.setWidth 64).extractLsb' 32 32 := by
  have h : a.setWidth 64 * b.setWidth 64 = BitVec.ofNat 64 (a.toNat * b.toNat) := by
    rw [BitVec.ofNat_mul, BitVec.ofNat_toNat, BitVec.ofNat_toNat]
  apply BitVec.eq_of_toNat_eq
  rw [h, mulhuWord, BitVec.extractLsb'_toNat, BitVec.toNat_ofNat, BitVec.toNat_ofNat, Nat.shiftRight_eq_div_pow]
  omega

theorem shiftCount_eq_lowByte (b : Word) : shiftCount b = lowByte b := by
  simp [shiftCount, lowByte]

theorem shlWord_eq_shlBy (a b : Word) : shlWord a b = shlBy a b := by
  apply BitVec.eq_of_toNat_eq
  rw [shlWord, shlBy, shiftCount_eq_lowByte, BitVec.toNat_shiftLeft, BitVec.toNat_ofNat, Nat.shiftLeft_eq]

theorem shrlWord_eq_shrBy (a b : Word) : shrlWord a b = shrBy a b := by
  rw [shrlWord, shrBy, shiftCount_eq_lowByte, ← Nat.shiftRight_eq_div_pow, ← BitVec.toNat_ushiftRight, BitVec.ofNat_toNat,
    BitVec.setWidth_eq]

theorem shraWord_eq_sraBy (a b : Word) : shraWord a b = sraBy a b := by
  rw [shraWord, sraBy, shiftCount_eq_lowByte, BitVec.sshiftRight, Int.shiftRight_eq_div_pow, Int.natCast_pow]
  rfl

/-! ## Minimum, maximum and comparisons (Tables Lane 1, 5) -/

theorem minWord_eq_smaller (a b : Word) : minWord a b = smaller a b := by
  simp only [minWord, smaller, BitVec.slt_eq_decide, decide_eq_true_eq, ← Int.not_le, ite_not]

theorem maxWord_eq_larger (a b : Word) : maxWord a b = larger a b := by
  simp only [maxWord, larger, BitVec.slt_eq_decide, decide_eq_true_eq, ← Int.not_le, ite_not]

theorem uminWord_eq_min (a b : Word) : uminWord a b = BitVec.ofNat 32 (min a.toNat b.toNat) := by
  rw [uminWord, Nat.min_def, apply_ite (BitVec.ofNat 32)]
  simp only [BitVec.ult_eq_decide, decide_eq_true_eq, BitVec.ofNat_toNat, BitVec.setWidth_eq, ← Nat.not_le, ite_not]

theorem umaxWord_eq_max (a b : Word) : umaxWord a b = BitVec.ofNat 32 (max a.toNat b.toNat) := by
  rw [umaxWord, Nat.max_comm, Nat.max_def, apply_ite (BitVec.ofNat 32)]
  simp only [BitVec.ult_eq_decide, decide_eq_true_eq, BitVec.ofNat_toNat, BitVec.setWidth_eq, ← Nat.not_le, ite_not]

theorem beq_eq_decide_toNat (a b : Word) : (a == b) = decide (a.toNat = b.toNat) := by
  rw [Bool.eq_iff_iff, beq_iff_eq, decide_eq_true_eq, BitVec.toNat_inj]

theorem bne_eq_decide_toNat (a b : Word) : (a != b) = decide (a.toNat ≠ b.toNat) := by
  rw [bne, beq_eq_decide_toNat, decide_not]

theorem select_eq (a b d : Word) : (if d != 0 then a else b) = if d.toNat = 0 then b else a := by
  simp only [bne_eq_decide_toNat, decide_eq_true_eq, ite_not]
  rfl

/-! ## Unary operations (Table Lane 2) -/

theorem neg_eq_ofInt (a : Word) : -a = BitVec.ofInt 32 (-a.toInt) := by
  rw [BitVec.ofInt_neg, BitVec.ofInt_toInt]

theorem abs_eq_natAbs (a : Word) : (if a.msb then -a else a) = BitVec.ofNat 32 a.toInt.natAbs := by
  rw [← BitVec.ofInt_natCast]
  cases h : a.msb with
  | true => rw [if_pos rfl, Int.ofNat_natAbs_of_nonpos (Int.le_of_lt (BitVec.toInt_neg_of_msb_true h)), neg_eq_ofInt]
  | false => rw [if_neg Bool.false_ne_true, Int.natAbs_of_nonneg (BitVec.toInt_nonneg_of_msb_false h), BitVec.ofInt_toInt]

theorem popCount_eq_length_filter (v n : Nat) : popCount v n = ((List.range n).filter v.testBit).length := by
  induction n generalizing v with
  | zero => rfl
  | succ n ih =>
    have htail : v.testBit ∘ Nat.succ = (v / 2).testBit := by
      funext i
      exact Nat.testBit_succ v i
    rw [popCount, ih, List.range_succ_eq_map, List.filter_cons, List.filter_map, htail, Nat.testBit_zero]
    rcases Nat.mod_two_eq_zero_or_one v with h | h <;> simp [h, Nat.add_comm]

theorem popCount_word (a : Word) : popCount a.toNat 32 = ((List.range 32).filter a.getLsbD).length :=
  popCount_eq_length_filter a.toNat 32

/-- The first position where `f` holds, or 32 where there is none. -/
theorem firstBit_eq {f : Nat → Bool} {n : Nat} (hn : n ≤ 32) (hbefore : ∀ i < n, f i = false) (hat : n < 32 → f n = true) :
    firstBit f = n := by
  have hsplit : List.range 32 = List.range n ++ List.range' n (32 - n) := by
    have happ := List.range'_append_1 (s := 0) (m := n) (n := 32 - n)
    rw [Nat.zero_add, Nat.add_sub_of_le hn] at happ
    rw [List.range_eq_range', List.range_eq_range', happ]
  rw [firstBit, hsplit, List.takeWhile_append_of_pos (fun i hi => by simp [hbefore i (List.mem_range.1 hi)]), List.length_append,
    List.length_range]
  rcases Nat.lt_or_eq_of_le hn with h | h
  · obtain ⟨m, hm⟩ : ∃ m, 32 - n = m + 1 := ⟨31 - n, by omega⟩
    rw [hm, List.range'_succ, List.takeWhile_cons_of_neg (by simp [hat h])]
    rfl
  · simp [h]

theorem ctzWord_eq_firstBit (a : Word) : ctzWord a = firstBit a.getLsbD := by
  rw [ctzWord]
  cases h : (List.range 32).find? fun i => a.getLsbD i with
  | none =>
    rw [List.find?_range_eq_none] at h
    exact (firstBit_eq (Nat.le_refl 32) (fun i hi => by simpa using h i hi) (absurd · (Nat.lt_irrefl _))).symm
  | some n =>
    rw [List.find?_range_eq_some] at h
    obtain ⟨hat, hmem, hbefore⟩ := h
    exact (firstBit_eq (Nat.le_of_lt (List.mem_range.1 hmem)) (fun i hi => by simpa using hbefore i hi) fun _ => hat).symm

theorem clzWord_eq_firstBit (a : Word) : clzWord a = firstBit fun i => a.getLsbD (31 - i) := by
  rw [clzWord, bitLength]
  by_cases h : a.toNat = 0
  · have hz : a = 0 := BitVec.eq_of_toNat_eq h
    rw [if_pos h, firstBit_eq (Nat.le_refl 32) (fun i _ => by simp [hz]) (absurd · (Nat.lt_irrefl _))]
  · have hlog : a.toNat.log2 < 32 := (Nat.log2_lt h).2 a.isLt
    rw [if_neg h]
    refine (firstBit_eq (by omega) (fun i hi => ?_) fun _ => ?_).symm
    · exact Nat.testBit_lt_two_pow (Nat.lt_of_lt_of_le Nat.lt_log2_self (Nat.pow_le_pow_right Nat.two_pos (by omega)))
    · rw [show 31 - (32 - (a.toNat.log2 + 1)) = a.toNat.log2 by omega]
      exact Nat.testBit_log2 h

/-! ## Words bit by bit (Tables Lane 1, 2, 4) -/

/-- A word is the one given by its bits. -/
theorem eq_bitsWord {a : Word} {f : Nat → Bool} (h : ∀ i, i < 32 → a.getLsbD i = f i) : a = bitsWord f := by
  apply BitVec.eq_of_getLsbD_eq
  intro i hi
  rw [getLsbD_bitsWord, h i hi, decide_eq_true hi, Bool.true_and]

theorem and_eq_bitsWord (a b : Word) : a &&& b = bitsWord fun i => a.getLsbD i && b.getLsbD i :=
  eq_bitsWord fun _ _ => BitVec.getLsbD_and

theorem or_eq_bitsWord (a b : Word) : a ||| b = bitsWord fun i => a.getLsbD i || b.getLsbD i :=
  eq_bitsWord fun _ _ => BitVec.getLsbD_or

theorem xor_eq_bitsWord (a b : Word) : a ^^^ b = bitsWord fun i => a.getLsbD i != b.getLsbD i :=
  eq_bitsWord fun _ _ => BitVec.getLsbD_xor

theorem andn_eq_bitsWord (a b : Word) : a &&& ~~~b = bitsWord fun i => a.getLsbD i && !b.getLsbD i :=
  eq_bitsWord fun i hi => by simp [hi]

theorem not_eq_bitsWord (a : Word) : ~~~a = bitsWord fun i => !a.getLsbD i :=
  eq_bitsWord fun i hi => by simp [hi]

theorem brevWord_eq_bitsWord (a : Word) : brevWord a = bitsWord fun i => a.getLsbD (31 - i) :=
  eq_bitsWord fun i hi => by rw [brevWord, BitVec.getLsbD_reverse, BitVec.getMsbD_eq_getLsbD, decide_eq_true hi, Bool.true_and]

/-- The low `w` bits of a word are those below `w`. -/
theorem getLsbD_lowMask {w i : Nat} (hw : w ≤ 32) : (BitVec.allOnes 32 >>> (32 - w)).getLsbD i = decide (i < w) := by
  rw [BitVec.getLsbD_ushiftRight, BitVec.getLsbD_allOnes, decide_eq_decide]
  omega

theorem fieldZ_eq_getField (a : Word) {lo w : Nat} (hw : w ≤ 32) : fieldZ a lo w = getField a lo w :=
  eq_bitsWord fun i _ => by
    rw [fieldZ, BitVec.getLsbD_and, getLsbD_lowMask hw, BitVec.getLsbD_ushiftRight, Bool.and_comm]

theorem fieldS_eq_getFieldS (a : Word) {lo w : Nat} (h0 : 0 < w) (hw : lo + w ≤ 32) : fieldS a lo w = getFieldS a lo w := by
  refine eq_bitsWord fun i hi => ?_
  rw [fieldS, BitVec.getLsbD_sshiftRight, BitVec.msb_eq_getLsbD_last]
  by_cases h : i < w
  · rw [if_pos (by omega), BitVec.getLsbD_shiftLeft, Nat.min_eq_left (by omega)]
    simp [show ¬32 ≤ i by omega, show 32 - w + i < 32 by omega, show ¬32 - w + i < 32 - w - lo by omega,
      show 32 - w + i - (32 - w - lo) = lo + i by omega]
  · rw [if_neg (by omega), BitVec.getLsbD_shiftLeft, Nat.min_eq_right (by omega)]
    simp [show ¬32 ≤ i by omega, show ¬31 < 32 - w - lo by omega, show 31 - (32 - w - lo) = lo + (w - 1) by omega]

theorem insertField_eq_putField (d a : Word) {lo w : Nat} (hw : w ≤ 32) : insertField d a lo w = putField d a lo w := by
  refine eq_bitsWord fun i hi => ?_
  simp only [insertField, BitVec.getLsbD_or, BitVec.getLsbD_and, BitVec.getLsbD_not, BitVec.getLsbD_shiftLeft, getLsbD_lowMask hw,
    decide_eq_true hi, Bool.true_and]
  by_cases hlo : lo ≤ i
  · by_cases hhi : i < lo + w
    · simp [hlo, hhi, show ¬i < lo by omega, show i - lo < w by omega]
    · simp [hlo, hhi, show ¬i - lo < w by omega]
  · simp [hlo, show i < lo by omega]

/-- The width of `sext` and `zext`: `M` says 8 or 16 bits. -/
theorem extWidth_eq {m : BitVec 4} (h : m.toNat ≤ 1) : (if m = 0 then 8 else 16) = 8 + 8 * m.toNat := by
  obtain h0 | h1 : m.toNat = 0 ∨ m.toNat = 1 := by omega
  · rw [if_pos (BitVec.eq_of_toNat_eq h0), h0]
  · rw [if_neg fun h0 => by simp [h0] at h1, h1]

theorem fieldS_extWidth (a : Word) {m : BitVec 4} (h : m.toNat ≤ 1) :
    fieldS a 0 (if m = 0 then 8 else 16) = getFieldS a 0 (8 + 8 * m.toNat) := by
  rw [extWidth_eq h, fieldS_eq_getFieldS a (by omega) (by omega)]

theorem fieldZ_extWidth (a : Word) {m : BitVec 4} (h : m.toNat ≤ 1) :
    fieldZ a 0 (if m = 0 then 8 else 16) = getField a 0 (8 + 8 * m.toNat) := by
  rw [extWidth_eq h, fieldZ_eq_getField a (by omega)]

end Sys2Proof.Machine
end

section
/-!
SUPPORT. Each integer lane operation does what its table says (07_lane_and_scalar_instructions.md R135 to R148).
-/
namespace Sys2Proof.Machine

/-- With ready operands and no safe point to take, `run` completes as the lane operation `w` does. -/
def Completes (run : State → Out) (w : LaneWork) : Prop :=
  ∀ (s r : State) (x : Issue), Ready s x w.sp w.use r → NoSafePoint x w.sp →
    ∃ t, run s = .next t ∧ After s t x (w.view x) (some (w.latch x)) (fun _ => x.cur.next)

/-- A V-format operation that computes `op` in each lane and raises no flag; `D` reads as zero where it is not read. -/
theorem vOp_completes {useD : Bool} {f : VForm} {g op : Word → Word → Word → Word}
    (h : ∀ a b d, g a b (if useD then d else 0) = op a b d) :
    Completes (fun s => vOp .bits useD (fun _ a b d => plain (g a b d)) f s) (intV useD f op) := by
  intro s r x hr hn
  exact withOps_lane (intV useD f op) hr hn rfl rfl (fun L _ _ => h _ _ _) fun L _ => rfl

/-- An X-format operation, likewise. -/
theorem xOp_completes {useD : Bool} {sp : Sp} {n : Bool} {d : BitVec 7} {a : BitVec 8} {g op : Word → Word → Word}
    (h : ∀ a d, g a (if useD then d else 0) = op a d) :
    Completes (fun s => xOp .bits useD sp n d a (fun _ a d => plain (g a d)) s) (intX useD sp n d a op) := by
  intro s r x hr hn
  exact withOps_lane (intX useD sp n d a op) hr hn rfl rfl (fun L _ _ => h _ _) fun L _ => rfl

/-- `mov` reads its operand by both selectors (R76). -/
theorem execMov_completes (f : ShortForm) : Completes (execMov f) (intV false (shortMov f) fun a _ _ => a) :=
  fun _ _ _ hr hn => withOps_lane (intV false (shortMov f) fun a _ _ => a) hr hn rfl rfl (fun _ _ _ => BitVec.or_self) fun _ _ => rfl

/-- The bound a well-formed instruction of format X keeps on `M`. -/
theorem mode_le_of_wf {n : Bool} {d : BitVec 7} {m k : Nat} (h : (nOk n d && decide (m ≤ k)) = true) : m ≤ k :=
  of_decide_eq_true (Bool.and_eq_true_iff.1 h).2

/-- Each integer lane operation by the equation above of what it computes; the other instructions are none. -/
theorem intWork_completes {i : Instr} {w : LaneWork} (h : intWork i = some w) (hw : i.wf = true) : Completes (exec i) w := by
  cases i <;> cases h
  case iadd f => exact (vOp_completes fun a b _ => add_eq_sumWord a b : Completes (execIadd f) _)
  case isub f => exact (vOp_completes fun a b _ => sub_eq_diffWord a b : Completes (execIsub f) _)
  case imul f => exact (vOp_completes fun a b _ => mul_eq_ofInt a b : Completes (execImul f) _)
  case imulh f => exact (vOp_completes fun a b _ => mulhWord_eq a b : Completes (execImulh f) _)
  case imulhu f => exact (vOp_completes fun a b _ => mulhuWord_eq a b : Completes (execImulhu f) _)
  case imad f => exact (vOp_completes fun a b d => mul_add_eq_ofInt a b d : Completes (execImad f) _)
  case imin f => exact (vOp_completes fun a b _ => minWord_eq_smaller a b : Completes (execImin f) _)
  case imax f => exact (vOp_completes fun a b _ => maxWord_eq_larger a b : Completes (execImax f) _)
  case umin f => exact (vOp_completes fun a b _ => uminWord_eq_min a b : Completes (execUmin f) _)
  case umax f => exact (vOp_completes fun a b _ => umaxWord_eq_max a b : Completes (execUmax f) _)
  case and f => exact (vOp_completes fun a b _ => and_eq_bitsWord a b : Completes (execAnd f) _)
  case or f => exact (vOp_completes fun a b _ => or_eq_bitsWord a b : Completes (execOr f) _)
  case xor f => exact (vOp_completes fun a b _ => xor_eq_bitsWord a b : Completes (execXor f) _)
  case andn f => exact (vOp_completes fun a b _ => andn_eq_bitsWord a b : Completes (execAndn f) _)
  case shl f => exact (vOp_completes fun a b _ => shlWord_eq_shlBy a b : Completes (execShl f) _)
  case shrl f => exact (vOp_completes fun a b _ => shrlWord_eq_shrBy a b : Completes (execShrl f) _)
  case shra f => exact (vOp_completes fun a b _ => shraWord_eq_sraBy a b : Completes (execShra f) _)
  case seteq f => exact (vOp_completes fun a b _ => congrArg boolWord (beq_eq_decide_toNat a b) : Completes (execSeteq f) _)
  case setlt f => exact (vOp_completes fun _ _ _ => congrArg boolWord BitVec.slt_eq_decide : Completes (execSetlt f) _)
  case sel f => exact (vOp_completes fun a b d => select_eq a b d : Completes (execSel f) _)
  case iadd16 f => exact (vOp_completes fun a b _ => add_eq_sumWord a b : Completes (execIadd16 f) _)
  case isub16 f => exact (vOp_completes fun a b _ => sub_eq_diffWord a b : Completes (execIsub16 f) _)
  case and16 f => exact (vOp_completes fun a b _ => and_eq_bitsWord a b : Completes (execAnd16 f) _)
  case or16 f => exact (vOp_completes fun a b _ => or_eq_bitsWord a b : Completes (execOr16 f) _)
  case xor16 f => exact (vOp_completes fun a b _ => xor_eq_bitsWord a b : Completes (execXor16 f) _)
  case shl16 f => exact (vOp_completes fun a b _ => shlWord_eq_shlBy a b : Completes (execShl16 f) _)
  case shrl16 f => exact (vOp_completes fun a b _ => shrlWord_eq_shrBy a b : Completes (execShrl16 f) _)
  case shra16 f => exact (vOp_completes fun a b _ => shraWord_eq_sraBy a b : Completes (execShra16 f) _)
  case imax16 f => exact (vOp_completes fun a b _ => maxWord_eq_larger a b : Completes (execImax16 f) _)
  case mov f => exact execMov_completes f
  case ineg f => exact (xOp_completes fun a _ => neg_eq_ofInt a : Completes (execIneg f) _)
  case iabs f => exact (xOp_completes fun a _ => abs_eq_natAbs a : Completes (execIabs f) _)
  case popc f => exact (xOp_completes fun a _ => congrArg (BitVec.ofNat 32) (popCount_word a) : Completes (execPopc f) _)
  case clz f => exact (xOp_completes fun a _ => congrArg (BitVec.ofNat 32) (clzWord_eq_firstBit a) : Completes (execClz f) _)
  case ctz f => exact (xOp_completes fun a _ => congrArg (BitVec.ofNat 32) (ctzWord_eq_firstBit a) : Completes (execCtz f) _)
  case brev f => exact (xOp_completes fun a _ => brevWord_eq_bitsWord a : Completes (execBrev f) _)
  case not f => exact (xOp_completes fun a _ => not_eq_bitsWord a : Completes (execNot f) _)
  case sext f =>
    have hm : f.m.toNat ≤ 1 := mode_le_of_wf hw
    exact (xOp_completes fun a _ => fieldS_extWidth a hm : Completes (execSext f) _)
  case zext f =>
    have hm : f.m.toNat ≤ 1 := mode_le_of_wf hw
    exact (xOp_completes fun a _ => fieldZ_extWidth a hm : Completes (execZext f) _)
  case pkb f => exact (xOp_completes fun a d => insertField_eq_putField d a (by decide) : Completes (execPkb f) _)
  case pkh f => exact (xOp_completes fun a d => insertField_eq_putField d a (by decide) : Completes (execPkh f) _)
  case pkn f => exact (xOp_completes fun a d => insertField_eq_putField d a (by decide) : Completes (execPkn f) _)
  case upb f => exact (xOp_completes fun a _ => fieldZ_eq_getField a (by decide) : Completes (execUpb f) _)
  case upbs f =>
    have hm : f.m.toNat ≤ 3 := mode_le_of_wf hw
    exact (xOp_completes fun a _ => fieldS_eq_getFieldS a (by decide) (by omega) : Completes (execUpbs f) _)
  case uph f => exact (xOp_completes fun a _ => fieldZ_eq_getField a (by decide) : Completes (execUph f) _)
  case uphs f =>
    have hm : f.m.toNat ≤ 1 := mode_le_of_wf hw
    exact (xOp_completes fun a _ => fieldS_eq_getFieldS a (by decide) (by omega) : Completes (execUphs f) _)
  case upn f => exact (xOp_completes fun a _ => fieldZ_eq_getField a (by decide) : Completes (execUpn f) _)
  case upns f =>
    have hm : f.m.toNat ≤ 7 := mode_le_of_wf hw
    exact (xOp_completes fun a _ => fieldS_eq_getFieldS a (by decide) (by omega) : Completes (execUpns f) _)
  case setltu f => exact (xOp_completes fun _ _ => congrArg boolWord BitVec.ult_eq_decide : Completes (execSetltu f) _)
  case setle f => exact (xOp_completes fun _ _ => congrArg boolWord BitVec.sle_eq_decide : Completes (execSetle f) _)
  case setleu f => exact (xOp_completes fun _ _ => congrArg boolWord BitVec.ule_eq_decide : Completes (execSetleu f) _)
  case setne f => exact (xOp_completes fun a d => congrArg boolWord (bne_eq_decide_toNat d a) : Completes (execSetne f) _)

/-- Settles O1: an integer lane operation completes with what its table says. -/
theorem laneIntegerResults : Obligations.LaneIntegerResults := by
  unfold Obligations.LaneIntegerResults
  intro i w hi hw
  exact intWork_completes hi hw

end Sys2Proof.Machine
end

section
/-!
SUPPORT. What `aadd`, `aset` and `amov` do once their operands are ready (07_lane_and_scalar_instructions.md R153, R154).
-/
namespace Sys2Proof.Machine

/-- What an instruction leaves that writes an address register. -/
theorem withOps_putAddr {s r : State} {x : Issue} {sp : Sp} {u : Use} {k : State → Issue → Res} {i : Nat} {a : AReg}
    (h : Ready s x sp u r) (hn : NoSafePoint x sp) (hk : k r x = .done (finishPlain r x sp (x.g.putAddr i a))) :
    ∃ t, withOps s sp u k = .next t ∧ After s t x (x.view.putAddr i a) none (fun _ => x.cur.next) :=
  withOps_after h hn hk (shows_putAddr x i a) ⟨rfl, rfl⟩ rfl

/-- The displacement of `aadd` counts lines of 128 bytes. -/
theorem lineOffset_eq (k : BitVec 7) : k.signExtend 64 <<< 7 = BitVec.ofInt 64 (128 * k.toInt) := by
  rw [BitVec.shiftLeft_eq_mul_twoPow, BitVec.signExtend, BitVec.mul_comm, BitVec.ofInt_mul]
  rfl

/-- A doubleword lies outside two bounds. -/
theorem outside_iff (b l : VAddr) (p : DWord) :
    (p.ult (b.setWidth 64) || (l.setWidth 64).ult p) = true ↔ ¬(b.toNat ≤ p.toNat ∧ p.toNat ≤ l.toNat) := by
  have hb := b.isLt
  have hl := l.isLt
  simp only [Bool.or_eq_true, BitVec.ult_eq_decide, decide_eq_true_eq, BitVec.toNat_setWidth]
  omega

/-- New bounds `b` and `l` do not stay within `base` and `limit`. -/
theorem widens_iff (base limit b l : VAddr) :
    (b.ult base || limit.ult l || l.ult b) = true ↔
      ¬(base.toNat ≤ b.toNat ∧ b.toNat ≤ l.toNat ∧ l.toNat ≤ limit.toNat) := by
  simp only [Bool.or_eq_true, BitVec.ult_eq_decide, decide_eq_true_eq]
  omega

/-- The value `aadd` gives the pointer before the bounds are looked at. -/
def aaddPtr (s : State) (x : Issue) (f : AaddForm) : DWord :=
  (addrReg x.g f.ar.toNat).ptr.setWidth 64 + scalarReg s x f.p.toNat + BitVec.ofInt 64 (128 * f.k.toInt)

/-- The pointer `aadd` makes lies within base and limit. -/
def aaddWithin (s : State) (x : Issue) (f : AaddForm) : Prop :=
  let a := addrReg x.g f.ar.toNat
  a.base.toNat ≤ (aaddPtr s x f).toNat ∧ (aaddPtr s x f).toNat ≤ a.limit.toNat

theorem execAadd_within {f : AaddForm} {s r : State} {x : Issue} (h : Ready s x f.sp { sr := [f.p.toNat] } r)
    (hn : NoSafePoint x f.sp) (hp : aaddWithin s x f) :
    ∃ t, execAadd f s = .next t ∧
      After s t x (x.view.putAddr f.ar.toNat { addrReg x.g f.ar.toNat with ptr := BitVec.ofNat 56 (aaddPtr s x f).toNat }) none
        (fun _ => x.cur.next) := by
  refine withOps_putAddr h hn ?_
  dsimp only
  rw [scalarReg_room h, lineOffset_eq, ← aaddPtr, if_neg fun hw => (outside_iff ..).1 hw hp]
  rfl

/-- BOUNDS names the pointer refused as the faulting address (log 74). -/
theorem execAadd_outside {f : AaddForm} {s r : State} {x : Issue} (h : Ready s x f.sp { sr := [f.p.toNat] } r)
    (hp : ¬aaddWithin s x f) :
    execAadd f s = .next (takeTrap s x { kind := .bounds, addr := (aaddPtr s x f).toNat }) := by
  refine withOps_trap h ?_
  dsimp only
  rw [scalarReg_room h, lineOffset_eq, ← aaddPtr, if_pos ((outside_iff ..).2 hp)]

/-- `aset` of s63 names a pair of which the second register is none. -/
theorem execAset_last {f : AsetForm} {s r : State} {x : Issue} (hp : f.p = 63) (h : Ready s x f.sp {} r) :
    execAset f s = .next (takeTrap s x (trapAll .illopnd)) := by
  rw [execAset, if_pos hp]
  exact withOps_trap h (if_pos hp)

/-- A register that `aset` reads, as a bound. -/
def boundReg (s : State) (x : Issue) (p : Nat) : VAddr := (scalarReg s x p).extractLsb' 0 56

/-- The bounds `aset` reads are in order and within the register's own. -/
def asetNarrows (s : State) (x : Issue) (f : AsetForm) : Prop :=
  let a := addrReg x.g f.ar.toNat
  let b := boundReg s x f.p.toNat
  let l := boundReg s x (f.p.toNat + 1)
  a.base.toNat ≤ b.toNat ∧ b.toNat ≤ l.toNat ∧ l.toNat ≤ a.limit.toNat

theorem setWidth_scalarReg_room {s r : State} {x : Issue} {sp : Sp} {u : Use} (h : Ready s x sp u r) (p : Nat) :
    (scalarReg r x p).setWidth 56 = boundReg s x p := by
  rw [scalarReg_room h, boundReg, BitVec.setWidth_eq_extractLsb' (by decide)]

theorem execAset_narrows {f : AsetForm} {s r : State} {x : Issue} (hp : f.p ≠ 63)
    (h : Ready s x f.sp { sr := [f.p.toNat, f.p.toNat + 1] } r) (hn : NoSafePoint x f.sp) (hb : asetNarrows s x f) :
    ∃ t, execAset f s = .next t ∧
      After s t x (x.view.putAddr f.ar.toNat ⟨boundReg s x f.p.toNat, boundReg s x f.p.toNat, boundReg s x (f.p.toNat + 1),
        (addrReg x.g f.ar.toNat).perm &&& (0b111#3 ++ f.k)⟩) none (fun _ => x.cur.next) := by
  rw [execAset, if_neg hp]
  refine withOps_putAddr h hn ?_
  dsimp only
  rw [if_neg hp, setWidth_scalarReg_room h, setWidth_scalarReg_room h, if_neg fun hw => (widens_iff ..).1 hw hb]

/-- BOUNDS names the base refused as the faulting address (log 74). -/
theorem execAset_widens {f : AsetForm} {s r : State} {x : Issue} (hp : f.p ≠ 63)
    (h : Ready s x f.sp { sr := [f.p.toNat, f.p.toNat + 1] } r) (hb : ¬asetNarrows s x f) :
    execAset f s = .next (takeTrap s x { kind := .bounds, addr := (boundReg s x f.p.toNat).toNat }) := by
  rw [execAset, if_neg hp]
  refine withOps_trap h ?_
  dsimp only
  rw [if_neg hp, setWidth_scalarReg_room h, setWidth_scalarReg_room h, if_pos ((widens_iff ..).2 hb)]

theorem execAmov_copies {f : CtxForm} {s r : State} {x : Issue} (h : Ready s x f.sp {} r) (hn : NoSafePoint x f.sp)
    (hr : (addrReg x.g f.p.toNat).rgn ≠ 5 ∨ f.p = f.ar) :
    ∃ t, execAmov f s = .next t ∧
      After s t x (x.view.putAddr f.ar.toNat (addrReg x.g f.p.toNat)) none (fun _ => x.cur.next) := by
  refine withOps_putAddr h hn (if_neg fun hw => ?_)
  simp only [Bool.and_eq_true, decide_eq_true_eq, bne_iff_ne] at hw
  exact hr.elim (absurd hw.1) (absurd · hw.2)

/-- Region code R goes to no other register. -/
theorem execAmov_refuses {f : CtxForm} {s r : State} {x : Issue} (h : Ready s x f.sp {} r) (hr : (addrReg x.g f.p.toNat).rgn = 5)
    (hne : f.p ≠ f.ar) : execAmov f s = .next (takeTrap s x (trapAll .illopnd)) :=
  withOps_trap h (if_pos (by simp [hr, hne]))

/-- Settles O6: each of the three instructions by its outcomes above. -/
theorem addressRegisterResults : Obligations.AddressRegisterResults := by
  unfold Obligations.AddressRegisterResults
  refine ⟨fun f s r x h => ⟨fun hp hn => ?within, fun hp => ?outside⟩,
    fun f s r x hp h => ⟨fun hb hn => ?narrows, fun hb => ?widens⟩,
    fun f s r x hp h => ?last, fun f s r x h => ⟨fun hr hn => ?copies, fun hr hne => ?refuses⟩⟩
  case within => exact execAadd_within h hn hp
  case outside => exact execAadd_outside h hp
  case narrows => exact execAset_narrows hp h hn hb
  case widens => exact execAset_widens hp h hb
  case last => exact execAset_last hp h
  case copies => exact execAmov_copies h hn hr
  case refuses => exact execAmov_refuses h hr hne

end Sys2Proof.Machine
end
